-- ==== Sys2Proof/Word.lean ====
section
/-! DEFINITION. The word types of the HX7 and their plainest operations. -/

namespace Sys2Proof

/-- A byte of memory. -/
abbrev Byte := BitVec 8
/-- A 32-bit word: one lane of a vector, one field of an instruction word (R59, R88). -/
abbrev W32 := BitVec 32
/-- A 64-bit word: one scalar register (R119). -/
abbrev W64 := BitVec 64
/-- An instruction word (R2). -/
abbrev W128 := BitVec 128

/-- Bits [lo + n - 1 : lo] of a word (R1). -/
abbrev bits {w : Nat} (x : BitVec w) (lo n : Nat) : BitVec n := x.extractLsb' lo n

/-- Bits [lo + n - 1 : lo] of a word, as a number. -/
abbrev field {w : Nat} (x : BitVec w) (lo n : Nat) : Nat := (x.extractLsb' lo n).toNat

/-- Bit `k` of a word (R1). -/
abbrev bit {w : Nat} (x : BitVec w) (k : Nat) : Bool := x.getLsbD k

end Sys2Proof
end

