-- ==== Sys2Proof/Config.lean ====
section
/-! DEFINITION. What one device fixes and the manual leaves open: the free values of the model.

Every `opaque` constant below has no body: nothing in Lean can evaluate it, so a claim holds whatever its value is.
The counter argument is `State.clock`, which every step advances, so two uses in two steps are unrelated values. -/

namespace Sys2Proof.Config

/-- Which of several enabled moves the device makes next (log 1; R18, R42, R44, R393 leave the interleaving of agents open). -/
opaque choice : Nat → Nat

/-- How many core cycles one step takes, less one (log 3; timing is left out). -/
opaque cycles : Nat → Nat

/-- A free 64-bit value: what an access returns whose value the manual does not state (log 6). -/
opaque freeWord : Nat → Nat → W64

/-- A free byte: what a copy leaves where source and destination overlap (R341, log 7), and the bytes of a save area whose place R281 does not fix
(log 39). -/
opaque freeByte : Nat → Nat → Byte

/-- INCARN after a reset (R419: "a new value, different from its last"; R401 "Varies"), given the last one (log 8). -/
opaque incarnation : Nat → BitVec 16 → BitVec 16

/-- The signature the identity key gives a byte string (R449, log 9). -/
opaque slhSign : List Byte → List Byte

/-- Public key of the fused identity (R441, R456 IDPUB, log 9). -/
opaque idPub : BitVec 512

/-- The digests fused as root keys (R442, R446, log 9). -/
opaque rootKeyDigests : List (BitVec 512)

/-- The fused least firmware version (R446, log 9). -/
opaque minSvn : Nat

/-- The fused life-cycle state, 0 OPEN, 1 SECURED, 2 LOCKED, 3 RETIRED (R441, log 9). -/
opaque lifecycle : BitVec 2

/-- The fused debug feature mask DBGFUSE (R441, R456, log 9). -/
opaque dbgFuse : BitVec 8

/-- RAMPFUSE of a core: least STEP in [7:0], greatest in [15:8] (R311, log 9). -/
opaque rampFuse : Nat → BitVec 16

/-- Which of the four probed slots' base the device's hash gives a score key (R374, log 10). -/
opaque scoreHash : List Nat → Nat

/-- Temperature in °C that the sensor of a die shows (R455, R456 TEMP, log 11). -/
opaque temperature : Nat → Nat → BitVec 8

/-- Base of the 64 MiB recovery buffer (R447, R456 RCVADDR: no value is given, log 12). -/
opaque recoveryBase : BitVec 52

/-- The result of training step `code` of unit `u` (R445: pass or fail is physical, log 13). -/
opaque trainPass : Nat → Nat → Nat → Bool

/-- Which word of a remote or host agent's memory answers a read in a fabric window (R195, R420, log 14). -/
opaque remoteWord : Nat → Nat → Byte

/-- Whether the FP8 datapath of a slab (core, slab) has failed (R453; which slabs are degraded is a device's own, log 33). -/
opaque fp8Failed : Nat → Nat → Bool

/-- Whether a slab (core, slab) is out of service, two of its bands having failed (R453; which slabs are is a device's own, log 33). -/
opaque slabOut : Nat → Nat → Bool

/-- Whether the first port of a die runs CXL instead of Floholt (R11; the manual does not say what decides it, log 42). -/
opaque cxlPort : Nat → Bool

/-- What the boot ROM extends M0 with: the digest of the life-cycle state, the root-key digests and MINSVN (R443; its form is not given, log 9). -/
opaque bootDigest : BitVec 512

end Sys2Proof.Config
end

