-- ==== Sys2Proof/Syntax.lean ====
section
/-! DEFINITION. The instructions and steps of the HX7: one constructor of `Instr` for each row of the opcode table.

The first 186 constructors are the instructions of the 128-bit encoding (R104, R105); all carry the same operand record.
The other 129 are the steps of the device that no word encodes: configuration packets, messages, engine and scheduler events. -/

namespace Sys2Proof

/-- Rounding modes (R68), coded 0 to 4 in this order. -/
inductive Rounding where
  | rne | rtz | rup | rdn | rna
  deriving DecidableEq, Repr

/-- Compare conditions (R98), coded 0 to 9 in this order. -/
inductive Cond where
  | eq | ne | lt | le | gt | ge | ltu | leu | gtu | geu
  deriving DecidableEq, Repr

/-- Orderings of the memory MOD class (R98), coded 0 to 3 in this order. -/
inductive MemOrder where
  | rlx | acq | rel | acqrel
  deriving DecidableEq, Repr

/-- Scopes (R98, R245), coded 0 to 7 in this order. -/
inductive Scope where
  | task | site | region | core | die | package | fabric | system
  deriving DecidableEq, Repr

/-- Format tags (R59), coded 0 to 7 in this order. -/
inductive Fmt where
  | int32 | fp32 | bf16 | e4m3 | e5m2 | hxf4 | int8 | idx
  deriving DecidableEq, Repr

/-- The element type of the shared vector functions, one for each of the majors 0x20 to 0x23 (R105). -/
inductive VType where
  | f32 | bf16 | i32 | i8
  deriving DecidableEq, Repr

/-- A predicate register and whether it is negated (R97). -/
structure Pred where
  neg : Bool
  idx : Fin 8
  deriving DecidableEq, Repr

/-- The MOD byte, read by its class (R98). The engine-command class has three flag bits in use: [98], [97] and [96] (R313, R349, R382). -/
inductive Mod where
  | arith (rnd : Rounding) (sat : Bool) (p : Pred)
  | cmp (c : Cond) (p : Pred)
  | mem (ord : MemOrder) (scope : Scope) (evict : Fin 8)
  | exit (n : Fin 8)
  | plain (p : Pred)
  | eng (f98 f97 f96 : Bool)
  deriving DecidableEq, Repr

/-- Destinations (R90): registers, an output channel, or none (DST = 0xFF). -/
inductive Dst where
  | s (i : Fin 64)
  | v (i : Fin 32)
  | p (i : Fin 8)
  | q (i : Fin 8)
  | o (i : Fin 16)
  | none
  deriving DecidableEq, Repr

/-- The special registers that a source can name (R95); reserved indices are no constructor. -/
inductive Special where
  | taskid | sitex | sitey | coreid | dieid | time | rowprog | trapcause | trapaddr | trapword | exithist | launchid
  | p (i : Fin 8)
  | q (i : Fin 8)
  deriving DecidableEq, Repr

/-- The register, channel or special register that a register-form source names (R91). -/
inductive RegName where
  | s (i : Fin 64)
  | v (i : Fin 32)
  | c (i : Fin 32)
  | x (i : Special)
  deriving DecidableEq, Repr

/-- A source in register form, with its modifier bits (R91). -/
structure Src where
  reg : RegName
  fet : Bool := false
  neg : Bool := false
  abs : Bool := false
  bc : Bool := false
  lane : Fin 64 := 0
  pn : Bool := false
  pi : Fin 8 := 0
  deriving DecidableEq, Repr

/-- What one of the fields A, B, C of a word holds: nothing (all zero, R92), the literal (R94), a source, or a constant
control word that is no source (R111, R173, R179, R230, R236). -/
inductive Field where
  | unread
  | lit (w : W32)
  | src (x : Src)
  | word (w : W32)
  deriving DecidableEq, Repr

/-- The operands of an instruction word (R88). -/
structure Operands where
  dst : Dst
  mod : Mod
  a : Field
  b : Field
  c : Field
  deriving DecidableEq, Repr

/-- A lane of a vector, with its mark (R80, R86): a null lane holds zero, an error lane its code. -/
inductive Lane where
  | data (w : W32)
  | null
  | err (code : BitVec 4)
  deriving DecidableEq, Repr

/-- Control subkinds (R82): END, THRESH, MARK, CFG of configuration packets, CMD of engine commands, and the reserved ones by their code, which
the device never produces (R84). -/
inductive Control where
  | endc | thresh | mark | cfg | cmd
  | reserved (code : BitVec 4)
  deriving DecidableEq, Repr

/-- What a token carries (R78 to R80); KIND and CODE of the header follow from it. -/
inductive Payload where
  | scalar (l : Lane)
  | vector (ls : Vector Lane 64)
  | control (k : Control) (w : W32)
  deriving DecidableEq, Repr

/-- A token (R78, R79). -/
structure Token where
  route : BitVec 10
  seq : BitVec 12
  fmt : Fmt
  pay : Payload
  deriving DecidableEq, Repr

/-- A physical site: core 0 to 15, and y * 8 + x within the core (R8, R12). -/
structure SiteKey where
  core : Nat
  site : Nat
  deriving DecidableEq, Repr

/-- A task slot of a site (R25). -/
structure TaskKey where
  core : Nat
  site : Nat
  slot : Nat
  deriving DecidableEq, Repr

/-- What issues instructions (R25, R397). -/
inductive Agent where
  | task (k : TaskKey)
  | leaf (core : Nat)
  | global
  deriving DecidableEq, Repr

/-- Kinds of engine node, with the codes of R136. -/
inductive NodeKind where
  | slab | acc | topk | copych | stream | match_
  deriving DecidableEq, Repr

/-- A physical engine node: `home` is its core, or its die for a stream program (R27, R192). -/
structure NodeRef where
  kind : NodeKind
  home : Nat
  idx : Nat
  deriving DecidableEq, Repr

/-- What sends tokens: an output channel, an engine node, a command of a fabric-interface unit. -/
inductive Sender where
  | chan (site : SiteKey) (o : Nat)
  | node (n : NodeRef)
  | unit (die id : Nat)
  deriving DecidableEq, Repr

/-- A configuration packet at a logical site of a region of a launch (R34, R38): its index within the image, and its 64 payload lanes. -/
structure PacketAt where
  launch : Nat
  region : Nat
  x : Nat
  y : Nat
  index : Nat
  lanes : List W32
  deriving DecidableEq, Repr

/-- The 128 bytes of a line, byte i in bits [8i+7:8i]. -/
abbrev LineData := BitVec 1024

/-- A line that is read at its home, and the words of it that the read needs (R200). -/
structure LineRead where
  line : Nat
  need : W32
  deriving DecidableEq, Repr

/-- What an answer holds of a line: its bytes in some words (R198, R211). -/
structure LinePart where
  content : LineData
  words : W32
  deriving DecidableEq, Repr

/-- What another package asks of this one's homes (R195, R418): a read of bytes, a write, or an atomic by its FN of major 0x42. -/
inductive RemoteOp where
  | read (n : Nat)
  | write (content : List Byte)
  | atomic (fn : Nat) (operand comparand : W64)
  deriving DecidableEq, Repr

/-- A request over the Floholt fabric, with the incarnation it carries (R419). -/
structure RemoteRequest where
  incarnation : BitVec 16
  pa : Nat
  op : RemoteOp
  deriving DecidableEq, Repr

/-- Who waits for a page walk (R265): a granule of a task's extent, or an engine. -/
inductive Walker where
  | granule (task : TaskKey) (extent granule : Nat)
  | engine (node : NodeRef)
  | unit (die id : Nat)
  deriving DecidableEq, Repr

/-- A page walk in progress (R265): it carries the space and the GEN current when it began. -/
structure Walk where
  die : Nat
  space : Nat
  gen : Nat
  va : W64
  forWhom : Walker
  deriving DecidableEq, Repr

/-- Kinds of access in a fault record (R272 ACCESS). -/
inductive AccessKind where
  | load | store | atomic | engineRead | engineWrite
  deriving DecidableEq, Repr

/-- The contents of a fault record (R272); `source` is byte 13, `sourceKind` byte 15, `slog` the side-log entry. -/
structure FaultInfo where
  core : Nat
  va : W64
  space : Nat
  gen : Nat
  protect : Bool
  access : AccessKind
  source : Nat
  task : Nat
  sourceKind : Nat
  launch : Nat
  slog : W32
  deriving DecidableEq, Repr

/-- An element of the graph that a MARK walk visits (R432). -/
inductive Element where
  | site (k : SiteKey)
  | node (n : NodeRef)
  deriving DecidableEq, Repr

/-- A MARK walk in progress (R432, R433). -/
structure MarkWalk where
  launch : Nat
  sample : Nat
  hop : Nat
  place : Element
  out : Option Nat
  deriving DecidableEq, Repr

/-- Where an uncorrectable error lies (R451): a read of HBM4E or LPDDR data by a launch finds it first with `dram`, and each later read with
`dramAgain`. -/
inductive ErrorPlace where
  | launchState (launch : Nat)
  | l1Word (core line word : Nat)
  | dram (pa : Nat) (launch : Nat)
  | dramAgain (pa : Nat) (launch : Nat)
  | leaf (core : Nat)
  deriving DecidableEq, Repr

/-- The rows of the opcode table: the instructions; then the steps that the machine itself puts on its agenda; then the other steps.
(Lean's compiler builds values of the first 245 constructors only, so the order matters to it, and to nothing else.) -/
inductive Instr where
  /-- NOP (R153): Retires with no effect. -/
  | nop (o : Operands)
  /-- XJ (R150): Closes the block and exits through its single exit-table target. -/
  | xj (o : Operands)
  /-- XSEL (R150): Tests bit 0 of up to three sources in order and takes the first true exit, or the last exit as the else case. -/
  | xsel (o : Operands)
  /-- XIDX (R150): Exits through the table slot given by an unsigned index, or through the last exit when the index is out of range or the source is not data. -/
  | xidx (o : Operands)
  /-- XCALL (R151): Pushes the exit-1 target onto the task call stack and exits to exit 0. -/
  | xcall (o : Operands)
  /-- XRET (R151): Pops the call stack and continues there as a new block entry. -/
  | xret (o : Operands)
  /-- WAIT (R152): Retires if a token bound to the task is buffered, and otherwise puts the task into the WAIT state. -/
  | wait (o : Operands)
  /-- YIELD (R153): Moves the round-robin position so that the other ready tasks issue first. -/
  | yield (o : Operands)
  /-- DONE (R154): Ends the task once its producers and gather, scatter and intersect commands have completed and its side log has drained. -/
  | done (o : Operands)
  /-- TBIND (R155): Binds a route tag to the executing task, or traps. -/
  | tbind (o : Operands)
  /-- TUNBIND (R155): Removes the task's binding of a route tag. -/
  | tunbind (o : Operands)
  /-- ADD (R158): 64-bit signed add, with optional saturation. -/
  | add (o : Operands)
  /-- SUB (R158): 64-bit signed subtract, with optional saturation. -/
  | sub (o : Operands)
  /-- MUL (R158): 64-bit signed multiply, low result, with optional saturation. -/
  | mul (o : Operands)
  /-- MULH (R158): High 64 bits of the signed 128-bit product. -/
  | mulh (o : Operands)
  /-- MULHU (R158): High 64 bits of the unsigned 128-bit product. -/
  | mulhu (o : Operands)
  /-- DIV (R159): Signed division truncating towards zero; traps DIVZERO on a zero data divisor. -/
  | div (o : Operands)
  /-- DIVU (R159): Unsigned division; traps DIVZERO on a zero divisor. -/
  | divu (o : Operands)
  /-- REM (R159): Signed remainder, taking the sign of the dividend. -/
  | rem (o : Operands)
  /-- REMU (R159): Unsigned remainder. -/
  | remu (o : Operands)
  /-- AND (R158): Bitwise AND. -/
  | and (o : Operands)
  /-- OR (R158): Bitwise OR. -/
  | or (o : Operands)
  /-- XOR (R158): Bitwise XOR. -/
  | xor (o : Operands)
  /-- ANDN (R158): a AND NOT b. -/
  | andn (o : Operands)
  /-- SHL (R158): Logical shift left by b mod 64. -/
  | shl (o : Operands)
  /-- SHR (R158): Logical shift right by b mod 64. -/
  | shr (o : Operands)
  /-- SAR (R158): Arithmetic shift right by b mod 64. -/
  | sar (o : Operands)
  /-- ROL (R158): Rotate left by b mod 64. -/
  | rol (o : Operands)
  /-- CLZ (R158): Counts the leading zero bits. -/
  | clz (o : Operands)
  /-- CTZ (R158): Counts the trailing zero bits. -/
  | ctz (o : Operands)
  /-- POPC (R158): Counts the one bits. -/
  | popc (o : Operands)
  /-- MIN (R158): Signed minimum. -/
  | min (o : Operands)
  /-- MAX (R158): Signed maximum. -/
  | max (o : Operands)
  /-- MINU (R158): Unsigned minimum. -/
  | minu (o : Operands)
  /-- MAXU (R158): Unsigned maximum. -/
  | maxu (o : Operands)
  /-- ABS (R158): Absolute value, with optional saturation. -/
  | abs (o : Operands)
  /-- SEL (R158): Selects a or b on bit 0 of c. -/
  | sel (o : Operands)
  /-- MOV (R158): Copies a source to the destination. -/
  | mov (o : Operands)
  /-- BFX (R160): Extracts a zero-extended bit field. -/
  | bfx (o : Operands)
  /-- BFI (R160): Inserts a bit field. -/
  | bfi (o : Operands)
  /-- LEA (R158): Computes a + b scaled by a power of two, without an address check. -/
  | lea (o : Operands)
  /-- CMP (R161): Writes 1 or 0 according to a signed or unsigned compare. -/
  | cmp (o : Operands)
  /-- PCMP (R161): Writes all ones to a predicate when both sources are data and the condition holds, and all zeros otherwise. -/
  | pcmp (o : Operands)
  /-- PAND (R162): Bitwise predicate AND, written only in the selected bits. -/
  | pand (o : Operands)
  /-- POR (R162): Bitwise predicate OR, written only in the selected bits. -/
  | por (o : Operands)
  /-- PXOR (R162): Bitwise predicate XOR, written only in the selected bits. -/
  | pxor (o : Operands)
  /-- PNOT (R162): Bitwise predicate NOT, written only in the selected bits. -/
  | pnot (o : Operands)
  /-- PMOV (R162): Predicate move, written only in the selected bits. -/
  | pmov (o : Operands)
  /-- VADD (R168): Typed lane-wise add. -/
  | vadd (ty : VType) (o : Operands)
  /-- VSUB (R168): Typed lane-wise subtract. -/
  | vsub (ty : VType) (o : Operands)
  /-- VMUL (R168): Typed lane-wise multiply. -/
  | vmul (ty : VType) (o : Operands)
  /-- VFMA (R168): Typed lane-wise fused multiply-add with one rounding. -/
  | vfma (ty : VType) (o : Operands)
  /-- VMIN (R168): Typed lane-wise minimum. -/
  | vmin (ty : VType) (o : Operands)
  /-- VMAX (R168): Typed lane-wise maximum. -/
  | vmax (ty : VType) (o : Operands)
  /-- VABS (R168): Typed lane-wise absolute value. -/
  | vabs (ty : VType) (o : Operands)
  /-- VNEG (R168): Typed lane-wise negation. -/
  | vneg (ty : VType) (o : Operands)
  /-- VCMP (R170): Writes predicate bits from a lane-wise compare. -/
  | vcmp (ty : VType) (o : Operands)
  /-- VSEL (R168): Selects whole lanes from a or b on bit 0 of the lane of c. -/
  | vsel (ty : VType) (o : Operands)
  /-- VDIV (R168): FP32 or BF16 lane-wise divide. -/
  | vdiv (ty : VType) (o : Operands)
  /-- VSQRT (R168): FP32 or BF16 lane-wise square root. -/
  | vsqrt (ty : VType) (o : Operands)
  /-- VDOT4 (R169): Adds a four-way INT8 dot product into INT32 lanes. -/
  | vdot4 (ty : VType) (o : Operands)
  /-- VSHL (R169): Integer lane shift left, or arithmetic right for a negative count. -/
  | vshl (ty : VType) (o : Operands)
  /-- VSHR (R169): Integer lane logical shift right, or left for a negative count. -/
  | vshr (ty : VType) (o : Operands)
  /-- VAND (R169): Bitwise AND on 32-bit lanes. -/
  | vand (ty : VType) (o : Operands)
  /-- VOR (R169): Bitwise OR on 32-bit lanes. -/
  | vor (ty : VType) (o : Operands)
  /-- VXOR (R169): Bitwise XOR on 32-bit lanes. -/
  | vxor (ty : VType) (o : Operands)
  /-- VCVT (R172): Converts the elements of one part between formats. -/
  | vcvt (fd fs : Fmt) (o : Operands)
  /-- VMOV (R175): Moves lanes together with their marks. -/
  | vmov (o : Operands)
  /-- VBCAST (R175): Broadcasts one indexed lane to every lane. -/
  | vbcast (o : Operands)
  /-- VINS (R175): Inserts a scalar into lane k. -/
  | vins (o : Operands)
  /-- VEXT (R175): Extracts lane k as a sign-extended scalar. -/
  | vext (o : Operands)
  /-- VSHUF (R175): Permutes lanes by an index vector. -/
  | vshuf (o : Operands)
  /-- VCOMP (R175): Compresses the active lanes towards lane 0. -/
  | vcomp (o : Operands)
  /-- VEXP (R175): Expands consecutive lanes into the active lanes. -/
  | vexp (o : Operands)
  /-- VIOTA (R175): Writes the arithmetic sequence a + i × b. -/
  | viota (o : Operands)
  /-- VRED (R176): Reduces the active data lanes to a scalar by a fixed pairwise tree. -/
  | vred (o : Operands)
  /-- VSCAN (R177): Inclusive or exclusive prefix scan in lane order. -/
  | vscan (o : Operands)
  /-- VPOPC (R175): Counts the one bits of each lane. -/
  | vpopc (o : Operands)
  /-- VPFX (R177): Exclusive prefix sum of the lane popcounts. -/
  | vpfx (o : Operands)
  /-- VAMAX (R177): Largest magnitude over the active data lanes, rounded up to BF16. -/
  | vamax (o : Operands)
  /-- SEND (R181): Places a token built from a source in an output channel's send buffer. -/
  | send (o : Operands)
  /-- SENDN (R180): Sends a null token, scalar or vector. -/
  | sendn (o : Operands)
  /-- SENDE (R180): Sends an END control token carrying a count. -/
  | sende (o : Operands)
  /-- PEEK (R180): Reads the head token of a channel without consuming it. -/
  | peek (o : Operands)
  /-- DROP (R180): Consumes the head token of a channel and discards it. -/
  | drop (o : Operands)
  /-- TKIND (R180): Reads the header of the head token without consuming it. -/
  | tkind (o : Operands)
  /-- QSET (R183): Sets a rectangle of tile-predicate bits. -/
  | qset (o : Operands)
  /-- QCLR (R183): Clears a rectangle of tile-predicate bits. -/
  | qclr (o : Operands)
  /-- QTEST (R183): Writes one tile-predicate bit to every bit of a predicate. -/
  | qtest (o : Operands)
  /-- QZERO (R183): Clears a tile predicate. -/
  | qzero (o : Operands)
  /-- LDB (R222): Loads a sign-extended byte. -/
  | ldb (o : Operands)
  /-- LDBU (R222): Loads a zero-extended byte. -/
  | ldbu (o : Operands)
  /-- LDH (R222): Loads a sign-extended halfword. -/
  | ldh (o : Operands)
  /-- LDHU (R222): Loads a zero-extended halfword. -/
  | ldhu (o : Operands)
  /-- LDW (R222): Loads a sign-extended word. -/
  | ldw (o : Operands)
  /-- LDWU (R222): Loads a zero-extended word. -/
  | ldwu (o : Operands)
  /-- LDD (R222): Loads a doubleword. -/
  | ldd (o : Operands)
  /-- STB (R222): Stores a byte. -/
  | stb (o : Operands)
  /-- STH (R222): Stores a halfword. -/
  | sth (o : Operands)
  /-- STW (R222): Stores a word. -/
  | stw (o : Operands)
  /-- STD (R222): Stores a doubleword. -/
  | std (o : Operands)
  /-- LDV (R223): Loads 64 contiguous lanes. -/
  | ldv (o : Operands)
  /-- STV (R223): Stores 64 contiguous lanes. -/
  | stv (o : Operands)
  /-- LDVS (R223): Strided vector load. -/
  | ldvs (o : Operands)
  /-- STVS (R223): Strided vector store. -/
  | stvs (o : Operands)
  /-- LDVX (R223): Indexed vector load. -/
  | ldvx (o : Operands)
  /-- STVX (R223): Indexed vector store. -/
  | stvx (o : Operands)
  /-- PREF (R225): Prefetches lines into the L1 or into their home tiles, with no visible effect. -/
  | pref (o : Operands)
  /-- AMOADD (R226): Atomic 64-bit add returning the old value. -/
  | amoadd (o : Operands)
  /-- AMOADDF (R226): Atomic FP32 add returning the old value. -/
  | amoaddf (o : Operands)
  /-- AMOMIN (R226): Atomic signed minimum. -/
  | amomin (o : Operands)
  /-- AMOMAX (R226): Atomic signed maximum. -/
  | amomax (o : Operands)
  /-- AMOMINU (R226): Atomic unsigned minimum. -/
  | amominu (o : Operands)
  /-- AMOMAXU (R226): Atomic unsigned maximum. -/
  | amomaxu (o : Operands)
  /-- AMOAND (R226): Atomic AND. -/
  | amoand (o : Operands)
  /-- AMOOR (R226): Atomic OR. -/
  | amoor (o : Operands)
  /-- AMOXOR (R226): Atomic XOR. -/
  | amoxor (o : Operands)
  /-- AMOSWAP (R226): Atomic swap. -/
  | amoswap (o : Operands)
  /-- AMOCAS (R226): Atomic compare-and-swap. -/
  | amocas (o : Operands)
  /-- BKADD (R228): Bank ALU 64-bit add. -/
  | bkadd (o : Operands)
  /-- BKADDF (R228): Bank ALU FP32 add. -/
  | bkaddf (o : Operands)
  /-- BKMAX (R228): Bank ALU signed maximum. -/
  | bkmax (o : Operands)
  /-- BKAXPY (R228): Bank ALU fused FP32 multiply-add into memory. -/
  | bkaxpy (o : Operands)
  /-- BKCNT (R228): Bank ALU saturating 32-bit count. -/
  | bkcnt (o : Operands)
  /-- BIND (R231): Fills a region-table entry binding a range to a sync word, and sets RIDX. -/
  | bind (o : Operands)
  /-- UNBIND (R232): Frees a region-table entry. -/
  | unbind (o : Operands)
  /-- ACQ (R233): Performs an acquiring atomic on a sync word at its home, checks LOST, and invalidates the bound regions. -/
  | acq (o : Operands)
  /-- REL (R233): Waits for the stores to the bound regions, then release-writes the sync word. -/
  | rel (o : Operands)
  /-- INVR (R234): Invalidates the clean non-owned copies in a range. -/
  | invr (o : Operands)
  /-- INVA (R234): Invalidates every clean non-owned copy in the L1. -/
  | inva (o : Operands)
  /-- WBR (R234): Writes back the owned words in a range. -/
  | wbr (o : Operands)
  /-- FENCE (R235): Orders the task's accesses as an access of the given ordering and scope. -/
  | fence (o : Operands)
  /-- WAITA (R236): Reads a word and retires when the condition holds, and otherwise waits. -/
  | waita (o : Operands)
  /-- BARA (R240): Records the task's arrival in the current barrier generation. -/
  | bara (o : Operands)
  /-- BARW (R240): Waits for a barrier generation to complete and returns its status. -/
  | barw (o : Operands)
  /-- BARAW (R240): Arrives, then waits on the same generation. -/
  | baraw (o : Operands)
  /-- BARM (R240): Joins or leaves the membership of a barrier group. -/
  | barm (o : Operands)
  /-- BARQ (R241): Reads the state of a barrier group. -/
  | barq (o : Operands)
  /-- MCFG (R325): Queues a slab mode and density configuration. -/
  | mcfg (o : Operands)
  /-- MVCFG (R325): Queues a slab verdict predicate and threshold. -/
  | mvcfg (o : Operands)
  /-- MTKCFG (R325): Queues the binding of a slab monitor to a top-k node. -/
  | mtkcfg (o : Operands)
  /-- MMA (R321): Dense tile multiply-accumulate command, optionally verdict-class. -/
  | mma (o : Operands)
  /-- MMAB (R323): Block-scaled HXF4 tile command. -/
  | mmab (o : Operands)
  /-- MMAS (R321): Bitmap-sparse tile command. -/
  | mmas (o : Operands)
  /-- MMAN (R321): Row-budget sparse tile command. -/
  | mman (o : Operands)
  /-- MREL (R325): Forces an accumulator release after the earlier commands. -/
  | mrel (o : Operands)
  /-- MTHR (R326): Raises a top-k node's threshold from a task. -/
  | mthr (o : Operands)
  /-- MRPR (R327): Reads a slab's row progress. -/
  | mrpr (o : Operands)
  /-- MSTAT (R327): Reads the status word of a slab, accumulator or top-k node. -/
  | mstat (o : Operands)
  /-- VVRD (R329): Decodes released lanes into verdicts, values or a count. -/
  | vvrd (o : Operands)
  /-- VTOPK (R330): Ranks candidate lanes by value and column. -/
  | vtopk (o : Operands)
  /-- VBND (R331): Computes the bound-monitor width w per lane. -/
  | vbnd (o : Operands)
  /-- CPHEAD (R351): Starts a copy-channel walk or fills its head register. -/
  | cphead (o : Operands)
  /-- CPSTAT (R352): Reads the channel word. -/
  | cpstat (o : Operands)
  /-- CPSTOP (R352): Stops a channel at its next sector boundary and returns it to IDLE. -/
  | cpstop (o : Operands)
  /-- XBINIT (R347): Initialises a transaction barrier. -/
  | xbinit (o : Operands)
  /-- XBEXP (R347): Adds expected sectors to a transaction barrier, optionally arriving in the same step. -/
  | xbexp (o : Operands)
  /-- XBARV (R347): Arrives at a transaction barrier. -/
  | xbarv (o : Operands)
  /-- XBWAIT (R353): Waits for a phase change or FAULT, then acquires. -/
  | xbwait (o : Operands)
  /-- XBTEST (R350): Reads half of a transaction barrier without acquiring. -/
  | xbtest (o : Operands)
  /-- GTHR (R355): Gathers indexed elements and sends them as tokens. -/
  | gthr (o : Operands)
  /-- SCTR (R357): Scatters value lanes to indexed elements. -/
  | sctr (o : Operands)
  /-- ISECT (R358): Intersects two bitmap words and sends the gather indices. -/
  | isect (o : Operands)
  /-- WMCLASS (R383): Declares a working-memory class. -/
  | wmclass (o : Operands)
  /-- WMADD (R385): Asserts an element, or buffers the assertion for a firing. -/
  | wmadd (o : Operands)
  /-- WMDEL (R385): Retracts an element, or buffers the retraction. -/
  | wmdel (o : Operands)
  /-- WMUPD (R385): Modifies an element, or buffers the modification. -/
  | wmupd (o : Operands)
  /-- WMGET (R386): Reads a word or the address of an element. -/
  | wmget (o : Operands)
  /-- NETLD (R386): Loads a match network and re-asserts the live elements. -/
  | netld (o : Operands)
  /-- AGRND (R378): Requests a selection round. -/
  | agrnd (o : Operands)
  /-- AGNEXT (R387): Takes the next firing of the round. -/
  | agnext (o : Operands)
  /-- AGDONE (R387): Closes a taken firing. -/
  | agdone (o : Operands)
  /-- SCGET (R388): Reads a valid score entry. -/
  | scget (o : Operands)
  /-- SCPUT (R388): Writes a score entry. -/
  | scput (o : Operands)
  /-- TRAP (R415): Traps with cause TRAP and a detail value. -/
  | trap (o : Operands)
  /-- ERET (R415): Leaves the Handler state and re-executes or skips the trapped word. -/
  | eret (o : Operands)
  /-- SYSRD (R414): Reads a system register. -/
  | sysrd (o : Operands)
  /-- SYSWR (R414): Writes a system register according to its access code. -/
  | syswr (o : Operands)
  /-- HALT (R414): Stops the controller until reset and raises a RAS event. -/
  | halt (o : Operands)
  /-- IDLE (R416): Waits for an EVENTS or LEVENTS bit to be set. -/
  | idle (o : Operands)
  /-- LQSEND (R417): Reserves a slot, writes a child launch packet and publishes the tail. -/
  | lqsend (o : Operands)
  /-- LQWAIT (R417): Waits for the task's earlier children to complete. -/
  | lqwait (o : Operands)
  /-- CFGPUSH (R416): Wakes a region's sites and sends its graph image. -/
  | cfgpush (o : Operands)
  /-- PREEMPT (R416): Pre-empts a launch and its gang. -/
  | preempt (o : Operands)
  /-- GENBUMP (R270): Increments a space's generation across every translator. -/
  | genbump (o : Operands)
  /-- SPFLUSH (R270): Removes every TLB and page-list entry of a space. -/
  | spflush (o : Operands)
  /-- SITECFG (R133): A site keeps a task-entry or token-node configuration packet. -/
  | sitecfg (pkt : PacketAt)
  /-- CODE (R37): A site writes instruction words into its instruction store. -/
  | code (pkt : PacketAt)
  /-- ROUTE (R135): A site installs the route of an output channel. -/
  | route (pkt : PacketAt)
  /-- NODEMAP (R429): A site installs node-map entries. -/
  | nodemap (pkt : PacketAt)
  /-- NODECFG (R136): A site forwards an engine-node configuration to its node. -/
  | nodecfg (pkt : PacketAt)
  /-- LSDATA (R37): A site writes initial local-store bytes. -/
  | lsdata (pkt : PacketAt)
  /-- CFG_END (R39): A site forwards END and reports installed. -/
  | cfgEnd (pkt : PacketAt)
  /-- PACKET_FORWARD (R38): A site forwards a configuration packet addressed to another site south or east. -/
  | packetForward (pkt : PacketAt)
  /-- SITE_WAKE (R138): Power-gated sites finish waking after 72 cycles. -/
  | siteWake (launch region : Nat)
  /-- DISPATCH (R39): Once every site and node has reported, the extent tables are written and the ready tasks are dispatched. -/
  | dispatch (launch region : Nat)
  /-- GRANULE_REFILL (R267): The hardware task scheduler fills or refills a page-list granule entry and releases the waiting access. -/
  | granuleRefill (task : TaskKey) (extent granule : Nat)
  /-- TOKEN_ARRIVAL (R125): A receiver accepts a token into a free slot, or refuses it for parity. -/
  | tokenArrival (src : Sender) (parityBad : Bool)
  /-- PRODUCER_COMPLETE (R121): A long-latency producer or engine query fills its destination register. -/
  | producerComplete (agent : Agent) (id : Nat)
  /-- TASK_RETIRE (R49): DONE completes, and the task releases its bindings and barrier memberships. -/
  | taskRetire (task : TaskKey)
  /-- REGION_RETIRE (R50): A region retires once its tasks, buffers and engine nodes are empty, discarding stray tokens. -/
  | regionRetire (launch region : Nat)
  /-- LAUNCH_COMPLETE (R51): Performs the atomic completion-signal update once the regions and children are done. -/
  | launchComplete (launch : Nat)
  /-- PREEMPT_SAVE (R280): Once every site and engine has halted, the launch state is saved and its resources are freed. -/
  | preemptSave (launch : Nat)
  /-- ENGINE_HALT (R55): An engine node of a pre-empted region halts at its own boundary. -/
  | engineHalt (node : NodeRef)
  /-- LAUNCH_RESUME (R282): Reinstalls the image, restores the save area and dispatches the saved tasks. -/
  | launchResume (launch : Nat)
  /-- COMMAND_LINK_MESSAGE (R403): A 64-byte message arrives on a command link and sets an event bit. -/
  | commandLinkMessage (toLeaf : Bool) (leaf : Nat)
  /-- REG (R199): The home records a core as owner of words, revoking any other owner. -/
  | reg (core line : Nat) (mask : W32)
  /-- REGACK (R198): The L1 learns that its registration is recorded. -/
  | regack (core line : Nat) (mask : W32)
  /-- RDREQ (R200): The home serves a read miss, forwarding to owners as needed. -/
  | rdreq (core : Nat) (line : LineRead)
  /-- DATA (R198): The L1 fills a line, keeping its own dirty bytes. -/
  | data (core line : Nat) (content : LinePart)
  /-- FWD (R200): An owner returns the current bytes of words, or refuses. -/
  | fwd (owner line : Nat) (mask : W32) (req : Nat)
  /-- FWDDATA (R200): The home merges forwarded dirty bytes. -/
  | fwddata (owner line : Nat) (mask : W32) (content : LineData) (bytes : W128) (req : Nat)
  /-- REFUSE (R200): The home waits for the owner's write-back instead. -/
  | refuse (owner line : Nat) (mask : W32) (req : Nat)
  /-- REVOKE (R198): An owner writes back words and gives up their ownership. -/
  | revoke (owner line : Nat) (mask : W32)
  /-- WB (R199): The home merges written-back bytes and clears the owner. -/
  | wb (core line : Nat) (content : LineData) (bytes : W128) (mask : W32)
  /-- WBACK (R198): The L1 frees its write-back buffer. -/
  | wback (core line : Nat) (mask : W32)
  /-- WAITA_TIMEOUT (R237): A waiting WAITA wakes 2,048 cycles after its last read. -/
  | waitaTimeout (task : TaskKey)
  /-- HOST_ANSWER (R210): The host's answer grants a half Exclusive or completes a back-invalidate, releasing the waiting REG or read. -/
  | hostAnswer (half : Nat)
  /-- HOST_HALF_TAKE (R212): A host CXL.mem request takes a half, and the home records the host as owner. -/
  | hostHalfTake (half : Nat)
  /-- HOST_WRITE (R212): A host write is performed at the home after revoking the device owners. -/
  | hostWrite (pa : Nat) (content : List Byte)
  /-- WALK_RESPONSE (R270): A page walk completes and fills the translator, or is discarded as stale or space gone. -/
  | walkResponse (walk : Walk)
  /-- FAULT_RECORD (R272): A fault record is written into the core's fault ring, and the faulting access is held. -/
  | faultRecord (fault : FaultInfo)
  /-- END_TOKEN (R291): An accumulator node counts an END token and discards any other token. -/
  | endToken (core acc : Nat) (token : Token)
  /-- TOPK_CANDIDATE (R337): A top-k node offers the lanes of a data token and raises θ, sending THRESH. -/
  | topkCandidate (core topk input : Nat) (token : Token)
  /-- THRESH (R307): A slab monitor takes a threshold update, or discards it when idle. -/
  | thresh (core slab : Nat) (theta : W32)
  /-- START_REQUEST (R337): A top-k node answers a verdict command's start request with THRESH. -/
  | startRequest (core topk slabCore slab : Nat)
  /-- SCORER_PACKET_WRITE (R375): The match engine writes a scorer launch packet into its queue, retrying on FULL. -/
  | scorerPacketWrite (core entry : Nat)
  /-- SIG_CHANGE (R376): A scorer completion turns its score entry VALID and tests the waiting partial matches. -/
  | sigChange (core entry : Nat)
  /-- MARK_HOP (R432): A MARK writes a path record and moves to the producer of the last arrival. -/
  | markHop (walk : MarkWalk)
  /-- TRAINING_COMPLETE (R445): A training step finishes with pass or fail. -/
  | trainingComplete (unit code : Nat) (pass : Bool)
  /-- DBGTOKEN_VERIFIED (R442): Verification ends with the token accepted or refused. -/
  | dbgtokenVerified (pa : Nat)
  /-- QUOTE_DONE (R449): The quote is written and QSTAT shows done. -/
  | quoteDone (pa : Nat)
  /-- HOTNESS_CROSSING (R278): A hotness counter crosses its threshold, and a notification is written or dropped. -/
  | hotnessCrossing (die : Nat) (space : Nat) (window : Nat)
  /-- LINK_FAILED (R126): Eight parity refusals in a row fail the link and kill the launch with LINK. -/
  | linkFailed (src : Sender)
  /-- CARD_BEGIN (R345): A job card begins once its dependence edges are satisfied. -/
  | cardBegin (core card : Nat)
  /-- SIDE_LOG_DRAIN (R276): A side-log entry is performed as its original access. -/
  | sideLogDrain (core : Nat) (entry : Nat)
  /-- HOST_SNOOP (R211): The proxy revokes the device owners of a half, answers the host and drops the half. -/
  | hostSnoop (half : Nat)
  /-- BACK_INVALIDATE (R211): The proxy serves a host back-invalidate of a half. -/
  | backInvalidate (half : Nat)
  /-- FABRIC_REQUEST (R418): A request from another package is performed at its home. -/
  | fabricRequest (req : RemoteRequest)
  /-- UNCORRECTABLE_ERROR (R451): An uncorrectable error is contained by killing or taking elements out of service. -/
  | uncorrectableError (place : ErrorPlace)
  /-- STEER_NODE_FIRE (R129): A steer node routes a data token by its selector. -/
  | steerNodeFire (site : SiteKey)
  /-- MERGE_NODE_FIRE (R129): A merge node forwards a token in arrival or sequence order. -/
  | mergeNodeFire (site : SiteKey)
  /-- CONVERSION_NODE_FIRE (R72): A conversion node converts a diverted token and returns it. -/
  | conversionNodeFire (site : SiteKey)
  /-- AGING_PREEMPT (R411): After 64 µs pending, lower-priority resident launches are pre-empted. -/
  | agingPreempt (launch : Nat)
  /-- LAUNCH_PACKET_TAKE (R409): The global core takes and checks a queue's head packet and advances HEAD. -/
  | launchPacketTake (queue : Nat)
  /-- CLTX (R403): A global-block write of dword 7 sends a command to a leaf, consuming a permit. -/
  | cltx (leaf : Nat) (w : W64)
  /-- CLRX (R401): A global-block read of dword 7 takes the oldest leaf report and returns a permit. -/
  | clrx
  /-- LEAF_CLTX (R402): A leaf-block write of dword 7 sends a report to the global core. -/
  | leafCltx (leaf : Nat) (w : W64)
  /-- LEAF_CLRX (R402): A leaf-block read of dword 7 takes the oldest command and returns its permit. -/
  | leafClrx (leaf : Nat)
  /-- RETIRED (R402): A read takes the oldest retired region handle and its error cause. -/
  | retired (leaf : Nat)
  /-- MONHIT (R401): A read takes the oldest watched queue whose line was written. -/
  | monhit
  /-- MONSET_WATCH (R406): Starts watching a queue's control-block line. -/
  | monsetWatch (queue : Nat)
  /-- MONSET_UNWATCH (R406): Stops watching a queue's control-block line. -/
  | monsetUnwatch (queue : Nat)
  /-- CEFLUSH (R401): Writes back a queue's entry-cache entry and drops it. -/
  | ceflush (queue : Nat)
  /-- GLOBAL_TIMER_EXPIRY (R401): TIMER runs out and sets EVENTS bit 2. -/
  | globalTimerExpiry
  /-- CXL_PORT_DOWN (R422): A CXL port goes down, faulting its windows and setting EVENTS bit 4. -/
  | cxlPortDown (die : Nat)
  /-- FLOHOLT_PORT_DOWN (R418): A Floholt port goes down, is cleared from every route mask, and sets EVENTS bit 3. -/
  | floholtPortDown (port : Nat)
  /-- REMOTE_REFUSAL (R420): A refused or failed remote access faults REMOTE_UNREACHABLE, and the node's windows go STALE. -/
  | remoteRefusal (node : Nat)
  /-- OWNER_LOSS (R207): A core leaves service, and its dirty words become unregistered and set LOST. -/
  | ownerLoss (core : Nat)
  /-- FLTRES_RETRY (R274): Refills the translation and performs the held or logged accesses. -/
  | fltresRetry (core index : Nat)
  /-- FLTRES_KILL (R274): Kills the launch with PAGE and discards its held accesses. -/
  | fltresKill (core index : Nat)
  /-- HOTCLR (R278): Clears the hotness entry of a window. -/
  | hotclr (die : Nat) (w : W64)
  /-- STREAM_ELEMENT (R193): A stream program reads an element at its home and sends it as a token. -/
  | streamElement (die slot : Nat)
  /-- CONFIG_AT_HEAD (R315): A queued slab configuration takes effect on reaching the head. -/
  | configAtHead (core slab : Nat)
  /-- SLAB_COMMAND_START (R321): A tile command at the head binds its accumulator nodes and begins. -/
  | slabCommandStart (core slab : Nat)
  /-- SLAB_GROUP (R286): A slab adds one K-group to its live sub-tiles. -/
  | slabGroup (core slab : Nat)
  /-- ACCUMULATOR_RELEASE (R292): An accumulator node emits its rows as tokens and an END, then clears. -/
  | accumulatorRelease (core acc : Nat)
  /-- TOPK_END (R308): A top-k node counts END and, at its count, releases values and columns. -/
  | topkEnd (core topk : Nat)
  /-- RAMP_WINDOW (R310): A 3,600-cycle window ends and the ramp limiter resets its count. -/
  | rampWindow (core : Nat)
  /-- RECORD_FETCH (R339): A copy channel reads a transfer record and proceeds, ends or stops. -/
  | recordFetch (core chan : Nat)
  /-- SECTOR_ISSUE (R341): A copy channel issues a record's sectors in run order. -/
  | sectorIssue (core chan : Nat)
  /-- SECTOR_LAND (R342): A sector's registration is acknowledged and decrements the barrier's SECT. -/
  | sectorLand (core chan : Nat)
  /-- RECORD_FINISH (R342): A record completes and the channel clears OWN with a release. -/
  | recordFinish (core chan : Nat)
  /-- FOLLOW_ON_OFFER (R334): A record's follow-on command is offered to its slab and accepted or stops the channel. -/
  | followOnOffer (core chan : Nat)
  /-- GATHER_DELIVERY (R355): Merged gather elements are sent as tokens in list order. -/
  | gatherDelivery (die id : Nat)
  /-- SCATTER_WRITE (R357): A scatter element is written at its home. -/
  | scatterWrite (die id : Nat)
  /-- ISECT_RESULT (R358): The intersect unit sends its index tokens once both words are read. -/
  | isectResult (die id : Nat)
  /-- DELTA_PROPAGATE (R371): The match engine propagates one delta through the network completely. -/
  | deltaPropagate (core : Nat)
  /-- SELECTION_ROUND (R379): Orders the conflict set, admits firings and increments ROUND. -/
  | selectionRound (core : Nat)
  /-- HALTCTL_HALT (R435): Halts a launch directly. -/
  | haltctlHalt (launch : Nat)
  /-- HALTCTL_RESUME (R435): Resumes a halted launch. -/
  | haltctlResume (launch : Nat)
  /-- DBGDATA (R436): A write changes a halted task's selected register as an instruction would. -/
  | dbgdata (w : W64)
  /-- MARKINJ (R432): Injects a MARK token at an element of a launch. -/
  | markinj (w : W64)
  /-- TRCSEL (R438): Selects the traced core and arms recording. -/
  | trcsel (w : W64)
  /-- TRCSTAT_TRIGGER (R438): Writing bit 1 triggers the trace. -/
  | trcstatTrigger
  /-- TRACE_STOP (R438): Recording stops TRCPOST cycles after the trigger. -/
  | traceStop
  /-- TRCDUMP (R440): Writes the trace header and rows to memory. -/
  | trcdump (w : W64)
  /-- DBGTOKEN (R442): Starts verification of a debug token. -/
  | dbgtoken (w : W64)
  /-- COLD_START (R443): Power-on or a cold-start request begins fuse sensing and training. -/
  | coldStart
  /-- WARM_START (R444): Resets the cores and engines while keeping memory and links, then reboots. -/
  | warmStart
  /-- TRN_RESET (R445): Runs a unit's power-up and reset sequence. -/
  | trnReset (unit : Nat)
  /-- LANETEST (R445): Tests HBM lanes and repairs them with spares. -/
  | lanetest (unit : Nat)
  /-- WCK (R445): Aligns the LPDDR write clock. -/
  | wck (unit : Nat)
  /-- CATRAIN (R445): Trains the command/address path. -/
  | catrain (unit : Nat)
  /-- RDTRAIN (R445): Trains read deskew and reference voltage. -/
  | rdtrain (unit : Nat)
  /-- WRTRAIN (R445): Trains write deskew and reference voltage. -/
  | wrtrain (unit : Nat)
  /-- EQ (R445): Equalises a Floholt port. -/
  | eq (unit : Nat)
  /-- DESKEW (R445): Deskews the lanes of a Floholt port. -/
  | deskew (unit : Nat)
  /-- FLITLOCK (R445): Aligns Floholt flits. -/
  | flitlock (unit : Nat)
  /-- LTSSM (R445): Trains a CXL port to L0. -/
  | ltssm (unit : Nat)
  /-- SAVE (R445): Saves the training results to the retained store. -/
  | save (unit : Nat)
  /-- RESTORE (R445): Loads and checks the saved training results. -/
  | restore (unit : Nat)
  /-- ONLINE (R445): Opens a unit for traffic and sets its READY bit. -/
  | online (unit : Nat)
  /-- FIRMWARE_LOAD (R446): After SRAM clear, loads and verifies the firmware image and enters it. -/
  | firmwareLoad
  /-- RCVGO (R447): Verifies the recovery buffer image and boots from it. -/
  | rcvgo (w : W64)
  /-- MEASEXT (R448): Extends M5–M7 with a digest. -/
  | measext (w : W64)
  /-- QUOTE (R449): Starts a signed quote over a nonce. -/
  | quote (w : W64)
  /-- RASINJ (R456): Injects a RAS event of a given kind. -/
  | rasinj (w : W64)
  /-- LOCKSTEP_MISMATCH (R451): Both scheduler cores halt and run the ROM self-check. -/
  | lockstepMismatch
  /-- SELF_CHECK_DONE (R451): A passing core continues at the recovery entry, or the event is fatal. -/
  | selfCheckDone (pass0 pass2 : Bool)
  /-- CLKSTEP (R453): Changes the package core clock. -/
  | clkstep (w : W64)
  /-- THERMAL_STEP (R455): At 100 °C, lowers CLKSTEP one step every 100 µs until below 95 °C. -/
  | thermalStep
  /-- THERMAL_SHUTDOWN (R455): At 115 °C, stops every clock until a cold start. -/
  | thermalShutdown
  /-- REGISTER_WRITE (R5): A write to a register with no behaviour of its own sets its field according to its access code. -/
  | registerWrite (addr : W32) (w : W64)
  /-- LEAF_TIMER_EXPIRY (R402): A leaf controller's timer runs out and sets LEVENTS bit 3, waking an IDLE on that leaf. -/
  | leafTimerExpiry (leaf : Nat)
  deriving DecidableEq, Repr

end Sys2Proof
end

