-- ==== Sys2Proof/WellFormed.lean ====
section
/-! DEFINITION. Which operands each instruction accepts (R88 to R108 and the instruction chapters): the decode-time checks.

`opSpec` is the manual's own tables, one row for each major and function.  A word that breaks its row traps ILLOP (R108).
The steps of the device carry no operands and are always well-formed. -/

namespace Sys2Proof

/-- Which spaces a source field accepts, whether NEG and ABS may be set on it, and whether a lane may be broadcast (R91, R92). `pq` accepts the
special registers 48 to 63 only (R162), and `zero` a field that is all zero, which a form that does not read it has (R92, R350). -/
structure Accept where
  s : Bool := false
  v : Bool := false
  c : Bool := false
  x : Bool := false
  lit : Bool := false
  na : Bool := false
  bc : Bool := false
  pq : Bool := false
  zero : Bool := false
  deriving DecidableEq, Repr

/-- What a field of a word may hold for one instruction. -/
inductive FieldSpec where
  | unread
  | src (acc : Accept)
  | word (ok : Bool)
  | optLit (bound : Nat)
  deriving DecidableEq, Repr

/-- The three fields' specifications. -/
structure Shape where
  a : FieldSpec := .unread
  b : FieldSpec := .unread
  c : FieldSpec := .unread
  deriving DecidableEq, Repr

/-- MOD classes (R98). -/
inductive ModClass where
  | arith | cmp | mem | exit | plain | eng
  deriving DecidableEq, Repr

/-- Destination classes an instruction accepts (R90, R104); `sMax` bounds the scalar index. -/
structure Dsts where
  s : Bool := false
  v : Bool := false
  p : Bool := false
  q : Bool := false
  o : Bool := false
  none : Bool := false
  sMax : Nat := 63
  deriving DecidableEq, Repr

/-- One row of the opcode map: MOD class, destinations, allowed MOD values, and the fields (which may depend on MOD and on the
control word in field C).  `predA` marks the classes whose predicate is field A's PN and PI (R99), `tile` the tile commands (R102). -/
structure OpSpec where
  cls : ModClass
  dsts : Dsts
  modOk : Mod → Bool
  shape : Mod → W32 → Shape
  predA : Bool := false
  tile : Bool := false

namespace Acc
/-- Scalar, channel, special and literal (R142, R215), without NEG and ABS. -/
def sclx : FieldSpec := .src { s := true, c := true, x := true, lit := true }
/-- The same with NEG and ABS (R158, R161). -/
def sclxN : FieldSpec := .src { s := true, c := true, x := true, lit := true, na := true }
/-- Scalar or literal (R142). -/
def sl : FieldSpec := .src { s := true, lit := true }
/-- Scalar, special or literal (R142, R215, R325, R383). -/
def sxl : FieldSpec := .src { s := true, x := true, lit := true }
/-- Scalar, predicate or tile predicate register, or literal (R162). -/
def spl : FieldSpec := .src { s := true, pq := true, lit := true }
/-- Any space, for a field of a vector instruction (R163). -/
def any : FieldSpec := .src { s := true, v := true, c := true, x := true, lit := true, bc := true }
/-- The same with NEG and ABS (R168, R169). -/
def anyN : FieldSpec := .src { s := true, v := true, c := true, x := true, lit := true, na := true, bc := true }
/-- Any space but a literal, which VCVT does not take in field A: with LS 01 the word is illegal (R171). -/
def reg : FieldSpec := .src { s := true, v := true, c := true, x := true, bc := true }
/-- The same with NEG and ABS (R171). -/
def regN : FieldSpec := .src { s := true, v := true, c := true, x := true, na := true, bc := true }
/-- A field x of R175: scalar, special, channel or literal; a channel source of a vector instruction takes BC (R92). -/
def sclxB : FieldSpec := .src { s := true, c := true, x := true, lit := true, bc := true }
/-- A vector register or a channel (R175, R328). -/
def vc : FieldSpec := .src { v := true, c := true, bc := true }
/-- A vector register or a channel, without BC (R215, R349). -/
def vcPlain : FieldSpec := .src { v := true, c := true }
/-- A vector register or a channel, or a field that is not read (R350). -/
def vcZero : FieldSpec := .src { v := true, c := true, zero := true }
/-- A vector register (R317, R350, R383, R414). -/
def v : FieldSpec := .src { v := true }
/-- An input channel (R180). -/
def c : FieldSpec := .src { c := true }
end Acc

open FieldSpec in
/-- A row whose fields do not depend on MOD or the control word. -/
def row (cls : ModClass) (dsts : Dsts) (modOk : Mod → Bool) (a b c : FieldSpec) (predA tile : Bool := false) : OpSpec :=
  { cls, dsts, modOk, shape := fun _ _ => { a, b, c }, predA, tile }

/-- Arithmetic MOD without rounding (R99); SAT only where allowed. -/
def noRound (sat : Bool) : Mod → Bool
  | .arith r s _ => r == .rne && (sat || !s)
  | _ => false

/-- Arithmetic MOD with rounding; SAT only where allowed. -/
def rounds (sat : Bool) : Mod → Bool
  | .arith _ s _ => sat || !s
  | _ => false

/-- Any MOD of the class. -/
def anyMod : Mod → Bool := fun _ => true

/-- Plain MOD equal to zero (R149, R414). -/
def zeroMod : Mod → Bool
  | .plain p => p.neg == false && p.idx == 0
  | _ => false

/-- Exit MOD with n - 1 in a range (R149). -/
def exits (lo hi : Nat) : Mod → Bool
  | .exit n => lo ≤ n.val + 1 && n.val + 1 ≤ hi
  | _ => false

/-- Memory MOD with orderings and scopes allowed by R219. -/
def memMod (ok : MemOrder → Scope → Bool) : Mod → Bool
  | .mem o s _ => ok o s
  | _ => false

/-- Engine-command MOD with the flags allowed (R313, R349, R382). -/
def engMod (f98 f97 f96 : Bool) : Mod → Bool
  | .eng a b c => (f98 || !a) && (f97 || !b) && (f96 || !c)
  | _ => false

/-- Memory MOD of loads (R219). -/
def modLoad : Mod → Bool := memMod fun o _ => o == .rlx || o == .acq
/-- Memory MOD of stores (R219). -/
def modStore : Mod → Bool := memMod fun o _ => o == .rlx || o == .rel
/-- Memory MOD of atomics and bank operations (R219). -/
def modAny : Mod → Bool := memMod fun _ _ => true
/-- Memory MOD of BIND, UNBIND, ACQ, REL, INVR, INVA, WBR, BARM and BARQ (R219). -/
def modNone : Mod → Bool := memMod fun o s => o == .rlx && s == .task

/-- Destination sets that recur in the map. -/
def dNone : Dsts := { none := true }
def dSON : Dsts := { s := true, o := true, none := true }
def dVON : Dsts := { v := true, o := true, none := true }
def dSN : Dsts := { s := true, none := true }
def dS : Dsts := { s := true }
def dV : Dsts := { v := true }
def dVN : Dsts := { v := true, none := true }
def dPQN : Dsts := { p := true, q := true, none := true }

/-- Major 0x00 (R149). -/
def specControl : List OpSpec :=
  [ row .plain dNone anyMod .unread .unread .unread,
    row .exit dNone (exits 1 1) .unread .unread .unread,
    { cls := .exit, dsts := dNone, modOk := exits 2 4,
      shape := fun m _ => match m with
        | .exit n => { a := Acc.sclx, b := if n.val ≥ 2 then Acc.sclx else .unread, c := if n.val ≥ 3 then Acc.sclx else .unread }
        | _ => {} },
    row .exit dNone (exits 1 8) Acc.sclx .unread .unread,
    row .exit dNone (exits 2 2) .unread .unread .unread,
    row .plain dNone zeroMod .unread .unread .unread,
    row .plain dNone anyMod .unread .unread .unread,
    row .plain dNone anyMod .unread .unread .unread,
    row .plain dNone zeroMod .unread .unread .unread,
    row .plain dNone anyMod Acc.sl .unread .unread,
    row .plain dNone anyMod Acc.sl .unread .unread ]

/-- A two-source row of major 0x01 (R158). -/
def alu2 (sat na : Bool) : OpSpec :=
  row .arith dSON (noRound sat) (if na then Acc.sclxN else Acc.sclx) (if na then Acc.sclxN else Acc.sclx) .unread

/-- A one-source row of major 0x01 (R158). -/
def alu1 (sat na : Bool) : OpSpec :=
  row .arith dSON (noRound sat) (if na then Acc.sclxN else Acc.sclx) .unread .unread

/-- Major 0x01 (R158). -/
def specScalar : List OpSpec :=
  [ alu2 true true, alu2 true true, alu2 true true, alu2 false true, alu2 false false,
    alu2 false true, alu2 false false, alu2 false true, alu2 false false,
    alu2 false false, alu2 false false, alu2 false false, alu2 false false,
    alu2 false false, alu2 false false, alu2 false false, alu2 false false,
    alu1 false false, alu1 false false, alu1 false false,
    alu2 false true, alu2 false true, alu2 false false, alu2 false false,
    alu1 true true,
    row .arith dSON (noRound false) Acc.sclxN Acc.sclxN Acc.sclx,
    alu1 false true,
    alu2 false false,
    row .arith dSON (noRound false) Acc.sclx Acc.sclx Acc.sclx,
    row .arith dSON (noRound false) Acc.sclx Acc.sclx Acc.sclx ]

/-- Major 0x02 (R161, R162). -/
def specPredicate : List OpSpec :=
  [ row .cmp dSN anyMod Acc.sclxN Acc.sclxN .unread,
    row .cmp dPQN anyMod Acc.sclxN Acc.sclxN .unread,
    row .plain dPQN anyMod Acc.spl Acc.spl .unread,
    row .plain dPQN anyMod Acc.spl Acc.spl .unread,
    row .plain dPQN anyMod Acc.spl Acc.spl .unread,
    row .plain dPQN anyMod Acc.spl .unread .unread,
    row .plain dPQN anyMod Acc.spl .unread .unread ]

/-- Whether a major of the vector group computes in floating point. -/
def VType.isFloat : VType → Bool
  | .f32 => true
  | .bf16 => true
  | _ => false

/-- A row of the shared vector table: `r` it rounds in floating point, `st` it saturates in integer form (R167 to R169). -/
def vrow (ty : VType) (r st : Bool) (a b c : FieldSpec) : OpSpec :=
  row .arith dVON (if ty.isFloat then (if r then rounds false else noRound false) else noRound st) a b c

/-- Conditions of VCMP: ltu to geu only for integers (R170). -/
def vcmpMod (ty : VType) : Mod → Bool
  | .cmp c _ => !ty.isFloat || (c == .eq || c == .ne || c == .lt || c == .le || c == .gt || c == .ge)
  | _ => false

/-- Majors 0x20 to 0x23 (R105, R168, R169); `none` is a combination marked "no". -/
def specVector (ty : VType) : List (Option OpSpec) :=
  let f := ty.isFloat
  let i8 := ty == .i8
  [ some (vrow ty true true Acc.anyN Acc.anyN .unread),
    some (vrow ty true true Acc.anyN Acc.anyN .unread),
    some (vrow ty true true Acc.anyN Acc.anyN .unread),
    some (vrow ty true true Acc.anyN Acc.anyN Acc.anyN),
    some (vrow ty false false Acc.anyN Acc.anyN .unread),
    some (vrow ty false false Acc.anyN Acc.anyN .unread),
    some (vrow ty false true Acc.any .unread .unread),
    some (vrow ty false true Acc.any .unread .unread),
    some (row .cmp { p := true, none := true } (vcmpMod ty) Acc.anyN Acc.anyN .unread),
    some (vrow ty false false Acc.any Acc.any Acc.any),
    if f then some (vrow ty true false Acc.anyN Acc.anyN .unread) else none,
    if f then some (vrow ty true false Acc.anyN .unread .unread) else none,
    if i8 then some (vrow ty false true Acc.any Acc.any Acc.any) else none,
    if f then none else some (vrow ty false false Acc.any Acc.any .unread),
    if f then none else some (vrow ty false false Acc.any Acc.any .unread),
    if f then none else some (vrow ty false false Acc.any Acc.any .unread),
    if f then none else some (vrow ty false false Acc.any Acc.any .unread),
    if f then none else some (vrow ty false false Acc.any Acc.any .unread) ]

/-- Elements per 32-bit lane (R59, R171). -/
def Fmt.perLane : Fmt → Nat
  | .bf16 => 2
  | .e4m3 => 4
  | .e5m2 => 4
  | .hxf4 => 4
  | .int8 => 4
  | _ => 1

/-- The pairs between which conversion is defined (R70). -/
def Fmt.converts (fs fd : Fmt) : Bool :=
  match fs, fd with
  | .hxf4, _ => false
  | _, .hxf4 => false
  | .idx, d => d == .idx || d == .int32
  | s, .idx => s == .int32
  | _, _ => true

/-- Number of parts of a VCVT (R171). -/
def Fmt.parts (fs fd : Fmt) : Nat :=
  max (fd.perLane / fs.perLane) (fs.perLane / fd.perLane)

/-- Major 0x24 (R171). -/
def specConvert (fd fs : Fmt) : Option OpSpec :=
  if Fmt.converts fs fd then
    some (row .arith dVON (rounds true) (if fs == .idx then Acc.reg else Acc.regN) (.optLit (Fmt.parts fs fd)) .unread)
  else none

/-- TYPE of a control word of VRED, VSCAN or VAMAX (R173). -/
def cwType (w : W32) : Nat := field w 0 3
/-- OP of a control word (R173). -/
def cwOp (w : W32) : Nat := field w 4 3
/-- EXCL of a control word (R173). -/
def cwExcl (w : W32) : Bool := bit w 8
/-- Reserved bits of a control word are zero (R173). -/
def cwReserved (w : W32) : Bool := field w 9 23 == 0 && !bit w 7 && !bit w 3

/-- Allowed control words of VRED (R174). -/
def vredWord (w : W32) : Bool :=
  cwReserved w && !cwExcl w &&
    (((cwType w == 1 || cwType w == 2) && cwOp w ≤ 2) || ((cwType w == 0 || cwType w == 6) && cwOp w ≤ 5))
/-- Allowed control words of VSCAN (R174). -/
def vscanWord (w : W32) : Bool :=
  cwReserved w && ((cwType w == 1 && cwOp w ≤ 2) || (cwType w == 0 && cwOp w ≤ 5))
/-- Allowed control words of VAMAX (R174). -/
def vamaxWord (w : W32) : Bool :=
  cwReserved w && !cwExcl w && cwOp w == 0 && (1 ≤ cwType w && cwType w ≤ 4)

/-- MOD of VRED and VSCAN: rounding only with an FP add, SAT only with an integer add (R173). -/
def redMod (w : W32) : Mod → Bool
  | .arith r s _ =>
      let fp := cwType w == 1 || cwType w == 2
      (r == .rne || (fp && cwOp w == 0)) && (!s || (!fp && cwOp w == 0))
  | _ => false

/-- Major 0x25 (R173 to R175). -/
def specMove : List OpSpec :=
  let v := Acc.vc
  let x := Acc.sclxB
  [ row .arith dVON (noRound false) Acc.any .unread .unread,
    row .arith dVON (noRound false) v x .unread,
    row .arith dVN (noRound false) x x .unread,
    row .arith dSON (noRound false) v x .unread,
    row .arith dVON (noRound false) v v .unread,
    row .arith dVON (noRound false) v .unread .unread,
    row .arith dVON (noRound false) v .unread .unread,
    row .arith dVON (noRound false) x x .unread,
    { cls := .arith, dsts := dSON, modOk := rounds true, shape := fun m w => { a := v, c := .word (vredWord w && redMod w m) } },
    { cls := .arith, dsts := dVON, modOk := rounds true, shape := fun m w => { a := v, c := .word (vscanWord w && redMod w m) } },
    row .arith dVON (noRound false) v .unread .unread,
    row .arith dVON (noRound false) v .unread .unread,
    { cls := .arith, dsts := dSON, modOk := noRound false, shape := fun _ w => { a := v, c := .word (vamaxWord w) } } ]

/-- SQ of a send word (R179). -/
def swSeq (w : W32) : Bool := bit w 8
/-- VEC of a send word (R179). -/
def swVec (w : W32) : Bool := bit w 9
/-- Reserved bits of a send word (R179). -/
def swReserved (w : W32) : Bool := field w 10 22 == 0 && !bit w 3

/-- Major 0x26 (R179, R180). BC on an input channel in field A of SEND is accepted (DESIGN CHOICE, log 136: R92 allows it on a channel source of a
vector instruction, and does not say whether SEND is one). -/
def specToken : List OpSpec :=
  let seqB := fun (w : W32) => if swSeq w then Acc.sclx else FieldSpec.unread
  [ { cls := .plain, dsts := dNone, modOk := anyMod,
      shape := fun _ w => { a := Acc.any, b := seqB w, c := .word (swReserved w && !swVec w) } },
    { cls := .plain, dsts := dNone, modOk := anyMod, shape := fun _ w => { b := seqB w, c := .word (swReserved w) } },
    { cls := .plain, dsts := dNone, modOk := anyMod,
      shape := fun _ w => { a := Acc.sclx, b := seqB w, c := .word (swReserved w && !swVec w && field w 0 3 == 0) } },
    row .plain { s := true, v := true } anyMod Acc.c .unread .unread,
    row .plain dNone anyMod Acc.c .unread .unread,
    row .plain dS anyMod Acc.c .unread .unread ]

/-- Major 0x27 (R183). DST 0xFF, no result, is refused here, where the DST column names only predicate registers (DESIGN CHOICE, log 130). -/
def specTile : List OpSpec :=
  [ row .plain { q := true } anyMod Acc.sclx .unread .unread,
    row .plain { q := true } anyMod Acc.sclx .unread .unread,
    row .plain { p := true } anyMod Acc.sclx Acc.sclx .unread,
    row .plain { q := true } anyMod .unread .unread .unread ]

/-- A row of a memory major (R215, R219). -/
def mrow (d : Dsts) (m : Mod → Bool) (a b c : FieldSpec) : OpSpec := row .mem d m a b c true

/-- Major 0x40 (R222). -/
def specScalarMem : List OpSpec :=
  let ld := mrow dSN modLoad Acc.sxl Acc.sclx .unread
  let st := mrow dNone modStore Acc.sxl Acc.sclx Acc.sclx
  [ld, ld, ld, ld, ld, ld, ld, st, st, st, st]

/-- Format word of a vector load: only a tag; strided and indexed loads take 32-bit tags only (R111, R223). -/
def loadWord (any : Bool) (w : W32) : Bool :=
  field w 3 29 == 0 && (any || field w 0 3 == 0 || field w 0 3 == 1 || field w 0 3 == 7)

/-- Store data of a vector store (R215). -/
def storeVec : FieldSpec := .src { s := true, v := true, c := true, x := true, lit := true }

/-- Major 0x41 (R223, R225). -/
def specVectorMem : List OpSpec :=
  let ld := fun (b : FieldSpec) (anyTag : Bool) =>
    ({ cls := .mem, dsts := dVN, modOk := modLoad, predA := true,
       shape := fun _ w => { a := Acc.sxl, b := b, c := .word (loadWord anyTag w) } } : OpSpec)
  let st := fun (b : FieldSpec) => mrow dNone modStore Acc.sxl b storeVec
  [ ld Acc.sclx true, st Acc.sclx, ld Acc.sclx false, st Acc.sclx, ld Acc.vcPlain false, st Acc.vcPlain,
    mrow dNone (memMod fun o s => o == .rlx && (s == .core || s == .die)) Acc.sxl Acc.sclx .unread ]

/-- Majors 0x42 and 0x43 (R226, R228). -/
def specAtomic : List OpSpec := List.replicate 11 (mrow dSN modAny Acc.sxl Acc.sclx Acc.sclx)
def specBank : List OpSpec := List.replicate 5 (mrow dSN modAny Acc.sxl Acc.sclx Acc.sclx)

/-- Major 0x44 (R230, R236). -/
def specSync : List OpSpec :=
  [ mrow dSN modNone Acc.sxl Acc.sclx Acc.sclx,
    mrow dNone modNone Acc.sclx .unread .unread,
    { cls := .mem, dsts := dSN, modOk := modNone, predA := true,
      shape := fun _ w => { a := Acc.sxl, b := if field w 0 2 == 0 then .unread else Acc.sclx, c := .word (field w 2 30 == 0) } },
    { cls := .mem, dsts := dSN, modOk := modNone, predA := true,
      shape := fun _ w => { a := Acc.sxl, b := Acc.sclx, c := .word (field w 1 31 == 0) } },
    mrow dNone modNone Acc.sxl Acc.sclx .unread,
    mrow dNone modNone .unread .unread .unread,
    mrow dNone modNone Acc.sxl Acc.sclx .unread,
    mrow dNone (memMod fun o _ => o != .rlx) .unread .unread .unread,
    { cls := .mem, dsts := dSN, modOk := modLoad, predA := true,
      shape := fun _ w => { a := Acc.sxl, b := Acc.sclx, c := .word (field w 5 27 == 0 && field w 0 4 ≤ 9) } } ]

/-- Major 0x45 (R219, R238, R240). -/
def specBarrier : List OpSpec :=
  [ mrow dSN modStore Acc.sxl .unread .unread,
    mrow dS modLoad Acc.sxl Acc.sclx .unread,
    mrow dS modAny Acc.sxl .unread .unread,
    mrow dNone modNone Acc.sxl Acc.sclx .unread,
    mrow dSN modNone Acc.sxl .unread .unread ]

/-- A row of an engine-command major. -/
def erow (d : Dsts) (m : Mod → Bool) (a b c : FieldSpec) : OpSpec := row .eng d m a b c true

/-- Major 0x60 (R313, R317, R325). MVCFG's field C is read for GE only, which the instruction itself checks. -/
def specMatrix : List OpSpec :=
  let x := Acc.sxl
  let z := engMod false false false
  let tile := fun (vd : Bool) => row .eng dSN (engMod vd true true) Acc.v .unread .unread true true
  [ erow dNone z x x .unread, erow dNone z x x x, erow dNone z x x .unread,
    tile true, tile true, tile true, tile true,
    erow dNone z x .unread .unread, erow dNone z x x .unread,
    erow dSN z x .unread .unread, erow dSN z x .unread .unread ]

/-- Major 0x61 (R328 to R331). DST 0xFF is refused for VTOPK and VBND and accepted for VVRD, whose DST may be of any space (DESIGN CHOICE, log 130). VVRD's field C is read for GE only, which the instruction itself checks. -/
def specVerdict : List OpSpec :=
  [ row .plain { v := true, s := true, p := true, none := true } anyMod Acc.vc Acc.sxl Acc.sxl,
    row .plain dV anyMod Acc.vc Acc.vc .unread,
    row .plain dV anyMod Acc.vc Acc.vc Acc.sl ]

/-- Major 0x70 (R349, R350). Index vectors that are read only under SRC = 1 are checked by the instruction itself. -/
def specCopy : List OpSpec :=
  let x := Acc.sxl
  let z := engMod false false false
  let f := engMod false false true
  [ erow dNone z Acc.v .unread .unread, erow dS z x .unread .unread, erow dSN z x .unread .unread,
    erow dNone z x x .unread, erow dNone f x x .unread, erow dNone z x x .unread,
    erow dS z x x .unread, erow dS z x x .unread,
    erow dSN f Acc.v Acc.vcZero .unread,
    erow dSN z Acc.v Acc.vcPlain Acc.vcZero,
    erow dSN f Acc.v .unread .unread ]

/-- Major 0x78 (R382, R383). -/
def specMatch : List OpSpec :=
  let x := Acc.sxl
  let z := engMod false false false
  let fh := fun (d : Dsts) (a : FieldSpec) =>
    ({ cls := .eng, dsts := d, modOk := engMod false false true, predA := true,
       shape := fun m _ => { a := a, b := x, c := match m with | .eng _ _ true => x | _ => .unread } } : OpSpec)
  [ erow dNone z x x x, fh dSN Acc.v, fh dSN x, fh dSN Acc.v,
    erow dS z x x x, erow dSN z x x .unread, erow dSN z Acc.v .unread .unread,
    erow { s := true, sMax := 48 } z .unread x .unread, erow dNone z x x .unread,
    erow dS z Acc.v x .unread, erow dNone z Acc.v x x ]

/-- Major 0x80 (R414). -/
def specSystem : List OpSpec :=
  let x := Acc.sxl
  [ row .plain dNone anyMod x .unread .unread, row .plain dNone zeroMod x .unread .unread,
    row .plain dS anyMod x .unread .unread, row .plain dNone anyMod x x .unread,
    row .plain dNone zeroMod .unread .unread .unread, row .plain dSN anyMod .unread .unread .unread,
    row .plain dS anyMod Acc.v x .unread, row .plain dS anyMod .unread .unread .unread,
    row .plain dSN anyMod x x .unread, row .plain dSN anyMod x .unread .unread,
    row .plain dSN anyMod x .unread .unread, row .plain dNone anyMod x .unread .unread ]

/-- The code of a format tag (R59). -/
def Fmt.ofCode : Nat → Fmt
  | 0 => .int32 | 1 => .fp32 | 2 => .bf16 | 3 => .e4m3 | 4 => .e5m2 | 5 => .hxf4 | 6 => .int8 | _ => .idx

/-- The format tag's code (R59). -/
def Fmt.code : Fmt → Nat
  | .int32 => 0 | .fp32 => 1 | .bf16 => 2 | .e4m3 => 3 | .e5m2 => 4 | .hxf4 => 5 | .int8 => 6 | .idx => 7

/-- The opcode map (R104, R105): the row of a major and function, or none where a word is no instruction (R108). -/
def opSpec (maj fn : Nat) : Option OpSpec :=
  match maj with
  | 0x00 => specControl[fn]?
  | 0x01 => specScalar[fn]?
  | 0x02 => specPredicate[fn]?
  | 0x20 => (specVector .f32)[fn]?.join
  | 0x21 => (specVector .bf16)[fn]?.join
  | 0x22 => (specVector .i32)[fn]?.join
  | 0x23 => (specVector .i8)[fn]?.join
  | 0x24 => if fn < 64 then specConvert (Fmt.ofCode (fn / 8)) (Fmt.ofCode (fn % 8)) else none
  | 0x25 => specMove[fn]?
  | 0x26 => specToken[fn]?
  | 0x27 => specTile[fn]?
  | 0x40 => specScalarMem[fn]?
  | 0x41 => specVectorMem[fn]?
  | 0x42 => specAtomic[fn]?
  | 0x43 => specBank[fn]?
  | 0x44 => specSync[fn]?
  | 0x45 => specBarrier[fn]?
  | 0x60 => specMatrix[fn]?
  | 0x61 => specVerdict[fn]?
  | 0x70 => specCopy[fn]?
  | 0x78 => specMatch[fn]?
  | 0x80 => specSystem[fn]?
  | _ => none

/-- The MOD class of a MOD value. -/
def Mod.cls : Mod → ModClass
  | .arith .. => .arith
  | .cmp .. => .cmp
  | .mem .. => .mem
  | .exit .. => .exit
  | .plain .. => .plain
  | .eng .. => .eng

/-- A destination lies in the instruction's set, and p0 is never one (R90). -/
def Dsts.has (d : Dsts) : Dst → Bool
  | .s i => d.s && i.val ≤ d.sMax
  | .v _ => d.v
  | .p i => d.p && i.val ≠ 0
  | .q _ => d.q
  | .o _ => d.o
  | .none => d.none

/-- A source in register form obeys R91 and R92. `tq` is the tile flag of R102: LANE other than 0 without BC is accepted only with TQ = 1, so in a
tile instruction with TQ = 0 it traps ILLOP (DESIGN CHOICE, log 129: R92 exempts "the tile instructions of R102" and does not name TQ). -/
def Accept.ok (acc : Accept) (predA tq : Bool) (x : Src) : Bool :=
  (match x.reg with | .s _ => acc.s || (acc.zero && x == { reg := .s 0 }) | .v _ => acc.v | .c _ => acc.c
                    | .x i => acc.x || (acc.pq && (match i with | .p _ => true | .q _ => true | _ => false))) &&
  (acc.na || (!x.neg && !x.abs)) &&
  (!x.bc || (acc.bc && (match x.reg with | .v _ => true | .c _ => true | _ => false))) &&
  (x.bc || tq || x.lane == 0) &&
  (predA || (!x.pn && x.pi == 0)) &&
  (!x.fet || (match x.reg with | .x _ => false | _ => true))

/-- A field obeys its specification. -/
def FieldSpec.ok (sp : FieldSpec) (predA tq : Bool) (f : Field) : Bool :=
  match sp, f with
  | .unread, .unread => true
  | .src acc, .lit _ => acc.lit
  | .src acc, .src x => acc.ok predA tq x
  | .word k, .word _ => k
  | .optLit _, .unread => true
  | .optLit n, .lit w => w.toNat < n
  | _, _ => false

/-- The field is a literal. -/
def Field.isLit : Field → Bool
  | .lit _ => true
  | _ => false

/-- The raw control word of field C, as the shape of a row reads it. -/
def Field.raw : Field → W32
  | .lit w => w
  | .word w => w
  | _ => 0

/-- The tile flag TQ (R102). -/
def Mod.tq : Mod → Bool
  | .eng _ _ f => f
  | _ => false

/-- The operands obey a row of the opcode map. -/
def OpSpec.ok (sp : OpSpec) (o : Operands) : Bool :=
  let sh := sp.shape o.mod o.c.raw
  let tq := sp.tile && o.mod.tq
  o.mod.cls == sp.cls && sp.modOk o.mod && sp.dsts.has o.dst &&
  sh.a.ok sp.predA tq o.a && sh.b.ok false false o.b && sh.c.ok false false o.c &&
  !(o.a.isLit && o.b.isLit) && !(o.a.isLit && o.c.isLit) && !(o.b.isLit && o.c.isLit)

/-- The major of a vector type (R105). -/
def VType.major : VType → Nat
  | .f32 => 0x20 | .bf16 => 0x21 | .i32 => 0x22 | .i8 => 0x23

/-- Major and function of an instruction (R104, R105); none for a step of the device. -/
def Instr.head : Instr → Option (Nat × Nat)
  | .nop _ => some (0x00, 0x00)
  | .xj _ => some (0x00, 0x01)
  | .xsel _ => some (0x00, 0x02)
  | .xidx _ => some (0x00, 0x03)
  | .xcall _ => some (0x00, 0x04)
  | .xret _ => some (0x00, 0x05)
  | .wait _ => some (0x00, 0x06)
  | .yield _ => some (0x00, 0x07)
  | .done _ => some (0x00, 0x08)
  | .tbind _ => some (0x00, 0x09)
  | .tunbind _ => some (0x00, 0x0a)
  | .add _ => some (0x01, 0x00)
  | .sub _ => some (0x01, 0x01)
  | .mul _ => some (0x01, 0x02)
  | .mulh _ => some (0x01, 0x03)
  | .mulhu _ => some (0x01, 0x04)
  | .div _ => some (0x01, 0x05)
  | .divu _ => some (0x01, 0x06)
  | .rem _ => some (0x01, 0x07)
  | .remu _ => some (0x01, 0x08)
  | .and _ => some (0x01, 0x09)
  | .or _ => some (0x01, 0x0a)
  | .xor _ => some (0x01, 0x0b)
  | .andn _ => some (0x01, 0x0c)
  | .shl _ => some (0x01, 0x0d)
  | .shr _ => some (0x01, 0x0e)
  | .sar _ => some (0x01, 0x0f)
  | .rol _ => some (0x01, 0x10)
  | .clz _ => some (0x01, 0x11)
  | .ctz _ => some (0x01, 0x12)
  | .popc _ => some (0x01, 0x13)
  | .min _ => some (0x01, 0x14)
  | .max _ => some (0x01, 0x15)
  | .minu _ => some (0x01, 0x16)
  | .maxu _ => some (0x01, 0x17)
  | .abs _ => some (0x01, 0x18)
  | .sel _ => some (0x01, 0x19)
  | .mov _ => some (0x01, 0x1a)
  | .bfx _ => some (0x01, 0x1b)
  | .bfi _ => some (0x01, 0x1c)
  | .lea _ => some (0x01, 0x1d)
  | .cmp _ => some (0x02, 0x00)
  | .pcmp _ => some (0x02, 0x01)
  | .pand _ => some (0x02, 0x02)
  | .por _ => some (0x02, 0x03)
  | .pxor _ => some (0x02, 0x04)
  | .pnot _ => some (0x02, 0x05)
  | .pmov _ => some (0x02, 0x06)
  | .vadd ty _ => some (ty.major, 0x00)
  | .vsub ty _ => some (ty.major, 0x01)
  | .vmul ty _ => some (ty.major, 0x02)
  | .vfma ty _ => some (ty.major, 0x03)
  | .vmin ty _ => some (ty.major, 0x04)
  | .vmax ty _ => some (ty.major, 0x05)
  | .vabs ty _ => some (ty.major, 0x06)
  | .vneg ty _ => some (ty.major, 0x07)
  | .vcmp ty _ => some (ty.major, 0x08)
  | .vsel ty _ => some (ty.major, 0x09)
  | .vdiv ty _ => some (ty.major, 0x0a)
  | .vsqrt ty _ => some (ty.major, 0x0b)
  | .vdot4 ty _ => some (ty.major, 0x0c)
  | .vshl ty _ => some (ty.major, 0x0d)
  | .vshr ty _ => some (ty.major, 0x0e)
  | .vand ty _ => some (ty.major, 0x0f)
  | .vor ty _ => some (ty.major, 0x10)
  | .vxor ty _ => some (ty.major, 0x11)
  | .vcvt fd fs _ => some (0x24, fd.code * 8 + fs.code)
  | .vmov _ => some (0x25, 0x00)
  | .vbcast _ => some (0x25, 0x01)
  | .vins _ => some (0x25, 0x02)
  | .vext _ => some (0x25, 0x03)
  | .vshuf _ => some (0x25, 0x04)
  | .vcomp _ => some (0x25, 0x05)
  | .vexp _ => some (0x25, 0x06)
  | .viota _ => some (0x25, 0x07)
  | .vred _ => some (0x25, 0x08)
  | .vscan _ => some (0x25, 0x09)
  | .vpopc _ => some (0x25, 0x0a)
  | .vpfx _ => some (0x25, 0x0b)
  | .vamax _ => some (0x25, 0x0c)
  | .send _ => some (0x26, 0x00)
  | .sendn _ => some (0x26, 0x01)
  | .sende _ => some (0x26, 0x02)
  | .peek _ => some (0x26, 0x03)
  | .drop _ => some (0x26, 0x04)
  | .tkind _ => some (0x26, 0x05)
  | .qset _ => some (0x27, 0x00)
  | .qclr _ => some (0x27, 0x01)
  | .qtest _ => some (0x27, 0x02)
  | .qzero _ => some (0x27, 0x03)
  | .ldb _ => some (0x40, 0x00)
  | .ldbu _ => some (0x40, 0x01)
  | .ldh _ => some (0x40, 0x02)
  | .ldhu _ => some (0x40, 0x03)
  | .ldw _ => some (0x40, 0x04)
  | .ldwu _ => some (0x40, 0x05)
  | .ldd _ => some (0x40, 0x06)
  | .stb _ => some (0x40, 0x07)
  | .sth _ => some (0x40, 0x08)
  | .stw _ => some (0x40, 0x09)
  | .std _ => some (0x40, 0x0a)
  | .ldv _ => some (0x41, 0x00)
  | .stv _ => some (0x41, 0x01)
  | .ldvs _ => some (0x41, 0x02)
  | .stvs _ => some (0x41, 0x03)
  | .ldvx _ => some (0x41, 0x04)
  | .stvx _ => some (0x41, 0x05)
  | .pref _ => some (0x41, 0x06)
  | .amoadd _ => some (0x42, 0x00)
  | .amoaddf _ => some (0x42, 0x01)
  | .amomin _ => some (0x42, 0x02)
  | .amomax _ => some (0x42, 0x03)
  | .amominu _ => some (0x42, 0x04)
  | .amomaxu _ => some (0x42, 0x05)
  | .amoand _ => some (0x42, 0x06)
  | .amoor _ => some (0x42, 0x07)
  | .amoxor _ => some (0x42, 0x08)
  | .amoswap _ => some (0x42, 0x09)
  | .amocas _ => some (0x42, 0x0a)
  | .bkadd _ => some (0x43, 0x00)
  | .bkaddf _ => some (0x43, 0x01)
  | .bkmax _ => some (0x43, 0x02)
  | .bkaxpy _ => some (0x43, 0x03)
  | .bkcnt _ => some (0x43, 0x04)
  | .bind _ => some (0x44, 0x00)
  | .unbind _ => some (0x44, 0x01)
  | .acq _ => some (0x44, 0x02)
  | .rel _ => some (0x44, 0x03)
  | .invr _ => some (0x44, 0x04)
  | .inva _ => some (0x44, 0x05)
  | .wbr _ => some (0x44, 0x06)
  | .fence _ => some (0x44, 0x07)
  | .waita _ => some (0x44, 0x08)
  | .bara _ => some (0x45, 0x00)
  | .barw _ => some (0x45, 0x01)
  | .baraw _ => some (0x45, 0x02)
  | .barm _ => some (0x45, 0x03)
  | .barq _ => some (0x45, 0x04)
  | .mcfg _ => some (0x60, 0x00)
  | .mvcfg _ => some (0x60, 0x01)
  | .mtkcfg _ => some (0x60, 0x02)
  | .mma _ => some (0x60, 0x03)
  | .mmab _ => some (0x60, 0x04)
  | .mmas _ => some (0x60, 0x05)
  | .mman _ => some (0x60, 0x06)
  | .mrel _ => some (0x60, 0x07)
  | .mthr _ => some (0x60, 0x08)
  | .mrpr _ => some (0x60, 0x09)
  | .mstat _ => some (0x60, 0x0a)
  | .vvrd _ => some (0x61, 0x00)
  | .vtopk _ => some (0x61, 0x01)
  | .vbnd _ => some (0x61, 0x02)
  | .cphead _ => some (0x70, 0x00)
  | .cpstat _ => some (0x70, 0x01)
  | .cpstop _ => some (0x70, 0x02)
  | .xbinit _ => some (0x70, 0x03)
  | .xbexp _ => some (0x70, 0x04)
  | .xbarv _ => some (0x70, 0x05)
  | .xbwait _ => some (0x70, 0x06)
  | .xbtest _ => some (0x70, 0x07)
  | .gthr _ => some (0x70, 0x08)
  | .sctr _ => some (0x70, 0x09)
  | .isect _ => some (0x70, 0x0a)
  | .wmclass _ => some (0x78, 0x00)
  | .wmadd _ => some (0x78, 0x01)
  | .wmdel _ => some (0x78, 0x02)
  | .wmupd _ => some (0x78, 0x03)
  | .wmget _ => some (0x78, 0x04)
  | .netld _ => some (0x78, 0x05)
  | .agrnd _ => some (0x78, 0x06)
  | .agnext _ => some (0x78, 0x07)
  | .agdone _ => some (0x78, 0x08)
  | .scget _ => some (0x78, 0x09)
  | .scput _ => some (0x78, 0x0a)
  | .trap _ => some (0x80, 0x00)
  | .eret _ => some (0x80, 0x01)
  | .sysrd _ => some (0x80, 0x02)
  | .syswr _ => some (0x80, 0x03)
  | .halt _ => some (0x80, 0x04)
  | .idle _ => some (0x80, 0x05)
  | .lqsend _ => some (0x80, 0x06)
  | .lqwait _ => some (0x80, 0x07)
  | .cfgpush _ => some (0x80, 0x08)
  | .preempt _ => some (0x80, 0x09)
  | .genbump _ => some (0x80, 0x0a)
  | .spflush _ => some (0x80, 0x0b)
  | .sitecfg _ => none
  | .code _ => none
  | .route _ => none
  | .nodemap _ => none
  | .nodecfg _ => none
  | .lsdata _ => none
  | .cfgEnd _ => none
  | .packetForward _ => none
  | .siteWake _ _ => none
  | .dispatch _ _ => none
  | .granuleRefill _ _ _ => none
  | .tokenArrival _ _ => none
  | .linkFailed _ => none
  | .steerNodeFire _ => none
  | .mergeNodeFire _ => none
  | .conversionNodeFire _ => none
  | .producerComplete _ _ => none
  | .taskRetire _ => none
  | .regionRetire _ _ => none
  | .launchComplete _ => none
  | .preemptSave _ => none
  | .engineHalt _ => none
  | .launchResume _ => none
  | .agingPreempt _ => none
  | .launchPacketTake _ => none
  | .commandLinkMessage _ _ => none
  | .cltx _ _ => none
  | .clrx => none
  | .leafCltx _ _ => none
  | .leafClrx _ => none
  | .retired _ => none
  | .monhit => none
  | .monsetWatch _ => none
  | .monsetUnwatch _ => none
  | .ceflush _ => none
  | .globalTimerExpiry => none
  | .reg _ _ _ => none
  | .regack _ _ _ => none
  | .rdreq _ _ => none
  | .data _ _ _ => none
  | .fwd _ _ _ _ => none
  | .fwddata _ _ _ _ _ _ => none
  | .refuse _ _ _ _ => none
  | .revoke _ _ _ => none
  | .wb _ _ _ _ _ => none
  | .wback _ _ _ => none
  | .waitaTimeout _ => none
  | .hostSnoop _ => none
  | .backInvalidate _ => none
  | .hostHalfTake _ => none
  | .hostWrite _ _ => none
  | .hostAnswer _ => none
  | .cxlPortDown _ => none
  | .floholtPortDown _ => none
  | .fabricRequest _ => none
  | .remoteRefusal _ => none
  | .ownerLoss _ => none
  | .walkResponse _ => none
  | .faultRecord _ => none
  | .fltresRetry _ _ => none
  | .fltresKill _ _ => none
  | .sideLogDrain _ _ => none
  | .hotnessCrossing _ _ _ => none
  | .hotclr _ _ => none
  | .streamElement _ _ => none
  | .configAtHead _ _ => none
  | .slabCommandStart _ _ => none
  | .slabGroup _ _ => none
  | .endToken _ _ _ => none
  | .accumulatorRelease _ _ => none
  | .topkCandidate _ _ _ _ => none
  | .topkEnd _ _ => none
  | .startRequest _ _ _ _ => none
  | .thresh _ _ _ => none
  | .rampWindow _ => none
  | .recordFetch _ _ => none
  | .sectorIssue _ _ => none
  | .sectorLand _ _ => none
  | .recordFinish _ _ => none
  | .followOnOffer _ _ => none
  | .cardBegin _ _ => none
  | .gatherDelivery _ _ => none
  | .scatterWrite _ _ => none
  | .isectResult _ _ => none
  | .deltaPropagate _ => none
  | .scorerPacketWrite _ _ => none
  | .sigChange _ _ => none
  | .selectionRound _ => none
  | .haltctlHalt _ => none
  | .haltctlResume _ => none
  | .dbgdata _ => none
  | .markinj _ => none
  | .markHop _ => none
  | .trcsel _ => none
  | .trcstatTrigger => none
  | .traceStop => none
  | .trcdump _ => none
  | .dbgtoken _ => none
  | .dbgtokenVerified _ => none
  | .coldStart => none
  | .warmStart => none
  | .trnReset _ => none
  | .lanetest _ => none
  | .wck _ => none
  | .catrain _ => none
  | .rdtrain _ => none
  | .wrtrain _ => none
  | .eq _ => none
  | .deskew _ => none
  | .flitlock _ => none
  | .ltssm _ => none
  | .save _ => none
  | .restore _ => none
  | .online _ => none
  | .trainingComplete _ _ _ => none
  | .firmwareLoad => none
  | .rcvgo _ => none
  | .measext _ => none
  | .quote _ => none
  | .quoteDone _ => none
  | .rasinj _ => none
  | .uncorrectableError _ => none
  | .lockstepMismatch => none
  | .selfCheckDone _ _ => none
  | .clkstep _ => none
  | .thermalStep => none
  | .thermalShutdown => none
  | .registerWrite _ _ => none
  | .leafTimerExpiry _ => none

/-- The operands of an instruction; none for a step of the device. -/
def Instr.operands : Instr → Option Operands
  | .nop o => some o
  | .xj o => some o
  | .xsel o => some o
  | .xidx o => some o
  | .xcall o => some o
  | .xret o => some o
  | .wait o => some o
  | .yield o => some o
  | .done o => some o
  | .tbind o => some o
  | .tunbind o => some o
  | .add o => some o
  | .sub o => some o
  | .mul o => some o
  | .mulh o => some o
  | .mulhu o => some o
  | .div o => some o
  | .divu o => some o
  | .rem o => some o
  | .remu o => some o
  | .and o => some o
  | .or o => some o
  | .xor o => some o
  | .andn o => some o
  | .shl o => some o
  | .shr o => some o
  | .sar o => some o
  | .rol o => some o
  | .clz o => some o
  | .ctz o => some o
  | .popc o => some o
  | .min o => some o
  | .max o => some o
  | .minu o => some o
  | .maxu o => some o
  | .abs o => some o
  | .sel o => some o
  | .mov o => some o
  | .bfx o => some o
  | .bfi o => some o
  | .lea o => some o
  | .cmp o => some o
  | .pcmp o => some o
  | .pand o => some o
  | .por o => some o
  | .pxor o => some o
  | .pnot o => some o
  | .pmov o => some o
  | .vadd _ o => some o
  | .vsub _ o => some o
  | .vmul _ o => some o
  | .vfma _ o => some o
  | .vmin _ o => some o
  | .vmax _ o => some o
  | .vabs _ o => some o
  | .vneg _ o => some o
  | .vcmp _ o => some o
  | .vsel _ o => some o
  | .vdiv _ o => some o
  | .vsqrt _ o => some o
  | .vdot4 _ o => some o
  | .vshl _ o => some o
  | .vshr _ o => some o
  | .vand _ o => some o
  | .vor _ o => some o
  | .vxor _ o => some o
  | .vcvt _ _ o => some o
  | .vmov o => some o
  | .vbcast o => some o
  | .vins o => some o
  | .vext o => some o
  | .vshuf o => some o
  | .vcomp o => some o
  | .vexp o => some o
  | .viota o => some o
  | .vred o => some o
  | .vscan o => some o
  | .vpopc o => some o
  | .vpfx o => some o
  | .vamax o => some o
  | .send o => some o
  | .sendn o => some o
  | .sende o => some o
  | .peek o => some o
  | .drop o => some o
  | .tkind o => some o
  | .qset o => some o
  | .qclr o => some o
  | .qtest o => some o
  | .qzero o => some o
  | .ldb o => some o
  | .ldbu o => some o
  | .ldh o => some o
  | .ldhu o => some o
  | .ldw o => some o
  | .ldwu o => some o
  | .ldd o => some o
  | .stb o => some o
  | .sth o => some o
  | .stw o => some o
  | .std o => some o
  | .ldv o => some o
  | .stv o => some o
  | .ldvs o => some o
  | .stvs o => some o
  | .ldvx o => some o
  | .stvx o => some o
  | .pref o => some o
  | .amoadd o => some o
  | .amoaddf o => some o
  | .amomin o => some o
  | .amomax o => some o
  | .amominu o => some o
  | .amomaxu o => some o
  | .amoand o => some o
  | .amoor o => some o
  | .amoxor o => some o
  | .amoswap o => some o
  | .amocas o => some o
  | .bkadd o => some o
  | .bkaddf o => some o
  | .bkmax o => some o
  | .bkaxpy o => some o
  | .bkcnt o => some o
  | .bind o => some o
  | .unbind o => some o
  | .acq o => some o
  | .rel o => some o
  | .invr o => some o
  | .inva o => some o
  | .wbr o => some o
  | .fence o => some o
  | .waita o => some o
  | .bara o => some o
  | .barw o => some o
  | .baraw o => some o
  | .barm o => some o
  | .barq o => some o
  | .mcfg o => some o
  | .mvcfg o => some o
  | .mtkcfg o => some o
  | .mma o => some o
  | .mmab o => some o
  | .mmas o => some o
  | .mman o => some o
  | .mrel o => some o
  | .mthr o => some o
  | .mrpr o => some o
  | .mstat o => some o
  | .vvrd o => some o
  | .vtopk o => some o
  | .vbnd o => some o
  | .cphead o => some o
  | .cpstat o => some o
  | .cpstop o => some o
  | .xbinit o => some o
  | .xbexp o => some o
  | .xbarv o => some o
  | .xbwait o => some o
  | .xbtest o => some o
  | .gthr o => some o
  | .sctr o => some o
  | .isect o => some o
  | .wmclass o => some o
  | .wmadd o => some o
  | .wmdel o => some o
  | .wmupd o => some o
  | .wmget o => some o
  | .netld o => some o
  | .agrnd o => some o
  | .agnext o => some o
  | .agdone o => some o
  | .scget o => some o
  | .scput o => some o
  | .trap o => some o
  | .eret o => some o
  | .sysrd o => some o
  | .syswr o => some o
  | .halt o => some o
  | .idle o => some o
  | .lqsend o => some o
  | .lqwait o => some o
  | .cfgpush o => some o
  | .preempt o => some o
  | .genbump o => some o
  | .spflush o => some o
  | .sitecfg _ => none
  | .code _ => none
  | .route _ => none
  | .nodemap _ => none
  | .nodecfg _ => none
  | .lsdata _ => none
  | .cfgEnd _ => none
  | .packetForward _ => none
  | .siteWake _ _ => none
  | .dispatch _ _ => none
  | .granuleRefill _ _ _ => none
  | .tokenArrival _ _ => none
  | .linkFailed _ => none
  | .steerNodeFire _ => none
  | .mergeNodeFire _ => none
  | .conversionNodeFire _ => none
  | .producerComplete _ _ => none
  | .taskRetire _ => none
  | .regionRetire _ _ => none
  | .launchComplete _ => none
  | .preemptSave _ => none
  | .engineHalt _ => none
  | .launchResume _ => none
  | .agingPreempt _ => none
  | .launchPacketTake _ => none
  | .commandLinkMessage _ _ => none
  | .cltx _ _ => none
  | .clrx => none
  | .leafCltx _ _ => none
  | .leafClrx _ => none
  | .retired _ => none
  | .monhit => none
  | .monsetWatch _ => none
  | .monsetUnwatch _ => none
  | .ceflush _ => none
  | .globalTimerExpiry => none
  | .reg _ _ _ => none
  | .regack _ _ _ => none
  | .rdreq _ _ => none
  | .data _ _ _ => none
  | .fwd _ _ _ _ => none
  | .fwddata _ _ _ _ _ _ => none
  | .refuse _ _ _ _ => none
  | .revoke _ _ _ => none
  | .wb _ _ _ _ _ => none
  | .wback _ _ _ => none
  | .waitaTimeout _ => none
  | .hostSnoop _ => none
  | .backInvalidate _ => none
  | .hostHalfTake _ => none
  | .hostWrite _ _ => none
  | .hostAnswer _ => none
  | .cxlPortDown _ => none
  | .floholtPortDown _ => none
  | .fabricRequest _ => none
  | .remoteRefusal _ => none
  | .ownerLoss _ => none
  | .walkResponse _ => none
  | .faultRecord _ => none
  | .fltresRetry _ _ => none
  | .fltresKill _ _ => none
  | .sideLogDrain _ _ => none
  | .hotnessCrossing _ _ _ => none
  | .hotclr _ _ => none
  | .streamElement _ _ => none
  | .configAtHead _ _ => none
  | .slabCommandStart _ _ => none
  | .slabGroup _ _ => none
  | .endToken _ _ _ => none
  | .accumulatorRelease _ _ => none
  | .topkCandidate _ _ _ _ => none
  | .topkEnd _ _ => none
  | .startRequest _ _ _ _ => none
  | .thresh _ _ _ => none
  | .rampWindow _ => none
  | .recordFetch _ _ => none
  | .sectorIssue _ _ => none
  | .sectorLand _ _ => none
  | .recordFinish _ _ => none
  | .followOnOffer _ _ => none
  | .cardBegin _ _ => none
  | .gatherDelivery _ _ => none
  | .scatterWrite _ _ => none
  | .isectResult _ _ => none
  | .deltaPropagate _ => none
  | .scorerPacketWrite _ _ => none
  | .sigChange _ _ => none
  | .selectionRound _ => none
  | .haltctlHalt _ => none
  | .haltctlResume _ => none
  | .dbgdata _ => none
  | .markinj _ => none
  | .markHop _ => none
  | .trcsel _ => none
  | .trcstatTrigger => none
  | .traceStop => none
  | .trcdump _ => none
  | .dbgtoken _ => none
  | .dbgtokenVerified _ => none
  | .coldStart => none
  | .warmStart => none
  | .trnReset _ => none
  | .lanetest _ => none
  | .wck _ => none
  | .catrain _ => none
  | .rdtrain _ => none
  | .wrtrain _ => none
  | .eq _ => none
  | .deskew _ => none
  | .flitlock _ => none
  | .ltssm _ => none
  | .save _ => none
  | .restore _ => none
  | .online _ => none
  | .trainingComplete _ _ _ => none
  | .firmwareLoad => none
  | .rcvgo _ => none
  | .measext _ => none
  | .quote _ => none
  | .quoteDone _ => none
  | .rasinj _ => none
  | .uncorrectableError _ => none
  | .lockstepMismatch => none
  | .selfCheckDone _ _ => none
  | .clkstep _ => none
  | .thermalStep => none
  | .thermalShutdown => none
  | .registerWrite _ _ => none
  | .leafTimerExpiry _ => none

/-- An instruction is well-formed when its operands obey its row of the opcode map; every step of the device is. -/
def Instr.wf (i : Instr) : Bool :=
  match i.head, i.operands with
  | some (maj, fn), some o =>
    match opSpec maj fn with
    | some sp => sp.ok o
    | none => false
  | _, _ => true

/-- An instruction that a word of the instruction store can hold. -/
def Instr.isWord (i : Instr) : Bool := i.head.isSome

end Sys2Proof
end

