-- ==== Sys2Proof/Decode.lean ====
section
/-! DEFINITION. The decoder, total on any 128-bit word, and the encoder, both written from the tables of R88 to R102. -/

namespace Sys2Proof

/-- The fields of an instruction word (R88). -/
structure Raw where
  maj : BitVec 8
  fn : BitVec 6
  ls : BitVec 2
  dst : BitVec 8
  mod : BitVec 8
  c : W32
  b : W32
  a : W32
  deriving DecidableEq, Repr

/-- The fields of a word (R88). -/
def unpack (w : W128) : Raw :=
  { maj := bits w 120 8, fn := bits w 114 6, ls := bits w 112 2, dst := bits w 104 8, mod := bits w 96 8,
    c := bits w 64 32, b := bits w 32 32, a := bits w 0 32 }

/-- The word of the fields (R88). -/
def pack (r : Raw) : W128 :=
  r.maj ++ r.fn ++ r.ls ++ r.dst ++ r.mod ++ r.c ++ r.b ++ r.a

/-- Why a word is no instruction (R108). -/
inductive DecodeError where
  | opcode
  | mod
  | destination
  | field
  | literal
  | operands
  deriving DecidableEq, Repr

/-- The rounding mode of a code 0 to 4 (R68). -/
def Rounding.ofCode : Nat → Option Rounding
  | 0 => some .rne | 1 => some .rtz | 2 => some .rup | 3 => some .rdn | 4 => some .rna | _ => none

/-- The code of a rounding mode (R68). -/
def Rounding.code : Rounding → Nat
  | .rne => 0 | .rtz => 1 | .rup => 2 | .rdn => 3 | .rna => 4

/-- The condition of a code 0 to 9 (R98). -/
def Cond.ofCode : Nat → Option Cond
  | 0 => some .eq | 1 => some .ne | 2 => some .lt | 3 => some .le | 4 => some .gt | 5 => some .ge
  | 6 => some .ltu | 7 => some .leu | 8 => some .gtu | 9 => some .geu | _ => none

/-- The code of a condition (R98). -/
def Cond.code : Cond → Nat
  | .eq => 0 | .ne => 1 | .lt => 2 | .le => 3 | .gt => 4 | .ge => 5 | .ltu => 6 | .leu => 7 | .gtu => 8 | .geu => 9

/-- The ordering of a code (R98). -/
def MemOrder.ofCode : Nat → MemOrder
  | 0 => .rlx | 1 => .acq | 2 => .rel | _ => .acqrel

/-- The code of an ordering (R98). -/
def MemOrder.code : MemOrder → Nat
  | .rlx => 0 | .acq => 1 | .rel => 2 | .acqrel => 3

/-- The scope of a code (R98). -/
def Scope.ofCode : Nat → Scope
  | 0 => .task | 1 => .site | 2 => .region | 3 => .core | 4 => .die | 5 => .package | 6 => .fabric | _ => .system

/-- The code of a scope (R98). -/
def Scope.code : Scope → Nat
  | .task => 0 | .site => 1 | .region => 2 | .core => 3 | .die => 4 | .package => 5 | .fabric => 6 | .system => 7

/-- The predicate of bits [99:96] (R98). -/
def Pred.ofBits (m : BitVec 8) : Pred := { neg := bit m 3, idx := (bits m 0 3).toFin }

/-- Bits [99:96] of a predicate (R98). -/
def Pred.bits4 (p : Pred) : BitVec 4 := BitVec.ofBool p.neg ++ BitVec.ofFin (w := 3) p.idx

/-- The MOD byte of a class (R98); none where a bit that is zero for the class is set, or a code is illegal. -/
def Mod.parse (cls : ModClass) (m : BitVec 8) : Option Mod :=
  match cls with
  | .arith => (Rounding.ofCode (field m 5 3)).map fun r => .arith r (bit m 4) (Pred.ofBits m)
  | .cmp => (Cond.ofCode (field m 4 4)).map fun c => .cmp c (Pred.ofBits m)
  | .mem => some (.mem (MemOrder.ofCode (field m 6 2)) (Scope.ofCode (field m 3 3)) (bits m 0 3).toFin)
  | .exit => if field m 3 5 = 0 then some (.exit (bits m 0 3).toFin) else none
  | .plain => if field m 4 4 = 0 then some (.plain (Pred.ofBits m)) else none
  | .eng => if field m 3 5 = 0 then some (.eng (bit m 2) (bit m 1) (bit m 0)) else none

/-- The MOD byte (R98). -/
def Mod.pack : Mod → BitVec 8
  | .arith r s p => BitVec.ofNat 3 r.code ++ BitVec.ofBool s ++ p.bits4
  | .cmp c p => BitVec.ofNat 4 c.code ++ p.bits4
  | .mem o s e => BitVec.ofNat 2 o.code ++ BitVec.ofNat 3 s.code ++ BitVec.ofFin (w := 3) e
  | .exit n => 0#5 ++ BitVec.ofFin (w := 3) n
  | .plain p => 0#4 ++ p.bits4
  | .eng a b c => 0#5 ++ BitVec.ofBool a ++ BitVec.ofBool b ++ BitVec.ofBool c

/-- The destination of a DST byte (R90). -/
def Dst.parse (d : BitVec 8) : Option Dst :=
  match field d 6 2 with
  | 0 => some (.s (bits d 0 6).toFin)
  | 1 => if bit d 5 then Option.none else some (.v (bits d 0 5).toFin)
  | 2 =>
    if field d 3 3 = 0 then some (.p (bits d 0 3).toFin)
    else if field d 3 3 = 2 then some (.q (bits d 0 3).toFin) else Option.none
  | _ =>
    if field d 4 2 = 0 then some (.o (bits d 0 4).toFin)
    else if field d 0 6 = 63 then some .none else Option.none

/-- The DST byte (R90). -/
def Dst.pack : Dst → BitVec 8
  | .s i => 0#2 ++ BitVec.ofFin (w := 6) i
  | .v i => 2#3 ++ BitVec.ofFin (w := 5) i
  | .p i => 0x10#5 ++ BitVec.ofFin (w := 3) i
  | .q i => 0x12#5 ++ BitVec.ofFin (w := 3) i
  | .o i => 0xC#4 ++ BitVec.ofFin (w := 4) i
  | .none => 0xFF#8

/-- The special register of an index (R95). -/
def Special.ofIndex (i : BitVec 6) : Option Special :=
  match i.toNat with
  | 0 => some .taskid | 1 => some .sitex | 2 => some .sitey | 3 => some .coreid | 4 => some .dieid | 5 => some .time
  | 6 => some .rowprog | 7 => some .trapcause | 8 => some .trapaddr | 9 => some .trapword | 10 => some .exithist
  | 11 => some .launchid
  | _ =>
    if field i 3 3 = 6 then some (.p (bits i 0 3).toFin)
    else if field i 3 3 = 7 then some (.q (bits i 0 3).toFin) else none

/-- The index of a special register (R95). -/
def Special.index : Special → BitVec 6
  | .taskid => 0 | .sitex => 1 | .sitey => 2 | .coreid => 3 | .dieid => 4 | .time => 5
  | .rowprog => 6 | .trapcause => 7 | .trapaddr => 8 | .trapword => 9 | .exithist => 10 | .launchid => 11
  | .p i => 6#3 ++ BitVec.ofFin (w := 3) i
  | .q i => 7#3 ++ BitVec.ofFin (w := 3) i

/-- SPACE and INDEX of a source (R91, R92). -/
def RegName.parse (w : BitVec 8) : Option RegName :=
  match field w 6 2 with
  | 0 => some (.s (bits w 0 6).toFin)
  | 1 => if bit w 5 then none else some (.v (bits w 0 5).toFin)
  | 2 => if bit w 5 then none else some (.c (bits w 0 5).toFin)
  | _ => (Special.ofIndex (bits w 0 6)).map .x

/-- SPACE and INDEX of a source (R91). -/
def RegName.pack : RegName → BitVec 8
  | .s i => 0#2 ++ BitVec.ofFin (w := 6) i
  | .v i => 2#3 ++ BitVec.ofFin (w := 5) i
  | .c i => 4#3 ++ BitVec.ofFin (w := 5) i
  | .x i => 3#2 ++ i.index

/-- A source in register form (R91); none where a reserved bit is set or the register does not exist. -/
def Src.parse (w : W32) : Option Src :=
  if field w 0 10 = 0 then
    (RegName.parse (bits w 24 8)).map fun r =>
      { reg := r, fet := bit w 23, neg := bit w 22, abs := bit w 21, bc := bit w 20,
        lane := (bits w 14 6).toFin, pn := bit w 13, pi := (bits w 10 3).toFin }
  else none

/-- The register form of a source (R91). -/
def Src.pack (x : Src) : W32 :=
  x.reg.pack ++ BitVec.ofBool x.fet ++ BitVec.ofBool x.neg ++ BitVec.ofBool x.abs ++ BitVec.ofBool x.bc ++
    BitVec.ofFin (w := 6) x.lane ++ BitVec.ofBool x.pn ++ BitVec.ofFin (w := 3) x.pi ++ 0#10

/-- A field of a word under its specification; `lit` says whether LS names it (R94). -/
def FieldSpec.parse (sp : FieldSpec) (lit : Bool) (w : W32) : Option Field :=
  match sp, lit with
  | .unread, false => if w = 0 then some .unread else none
  | .unread, true => none
  | .src _, true => some (.lit w)
  | .src _, false => (Src.parse w).map .src
  | .word _, false => some (.word w)
  | .word _, true => none
  | .optLit _, true => some (.lit w)
  | .optLit _, false => if w = 0 then some .unread else none

/-- The bits of a field. -/
def Field.pack : Field → W32
  | .unread => 0
  | .lit w => w
  | .src x => x.pack
  | .word w => w

/-- The shared vector functions in FN order (R105). -/
def vectorInstrs (ty : VType) (o : Operands) : List Instr :=
  [.vadd ty o, .vsub ty o, .vmul ty o, .vfma ty o, .vmin ty o, .vmax ty o, .vabs ty o, .vneg ty o, .vcmp ty o, .vsel ty o, .vdiv ty o, .vsqrt ty o, .vdot4 ty o, .vshl ty o, .vshr ty o, .vand ty o, .vor ty o, .vxor ty o]

/-- The instruction of a major and function with given operands (R104, R105). -/
def buildInstr (maj fn : Nat) (o : Operands) : Option Instr :=
  match maj with
  | 0x00 => [.nop o, .xj o, .xsel o, .xidx o, .xcall o, .xret o, .wait o, .yield o, .done o, .tbind o, .tunbind o][fn]?
  | 0x01 => [.add o, .sub o, .mul o, .mulh o, .mulhu o, .div o, .divu o, .rem o, .remu o, .and o, .or o, .xor o, .andn o, .shl o, .shr o, .sar o, .rol o, .clz o, .ctz o, .popc o, .min o, .max o, .minu o, .maxu o, .abs o, .sel o, .mov o, .bfx o, .bfi o, .lea o][fn]?
  | 0x02 => [.cmp o, .pcmp o, .pand o, .por o, .pxor o, .pnot o, .pmov o][fn]?
  | 0x25 => [.vmov o, .vbcast o, .vins o, .vext o, .vshuf o, .vcomp o, .vexp o, .viota o, .vred o, .vscan o, .vpopc o, .vpfx o, .vamax o][fn]?
  | 0x26 => [.send o, .sendn o, .sende o, .peek o, .drop o, .tkind o][fn]?
  | 0x27 => [.qset o, .qclr o, .qtest o, .qzero o][fn]?
  | 0x40 => [.ldb o, .ldbu o, .ldh o, .ldhu o, .ldw o, .ldwu o, .ldd o, .stb o, .sth o, .stw o, .std o][fn]?
  | 0x41 => [.ldv o, .stv o, .ldvs o, .stvs o, .ldvx o, .stvx o, .pref o][fn]?
  | 0x42 => [.amoadd o, .amoaddf o, .amomin o, .amomax o, .amominu o, .amomaxu o, .amoand o, .amoor o, .amoxor o, .amoswap o, .amocas o][fn]?
  | 0x43 => [.bkadd o, .bkaddf o, .bkmax o, .bkaxpy o, .bkcnt o][fn]?
  | 0x44 => [.bind o, .unbind o, .acq o, .rel o, .invr o, .inva o, .wbr o, .fence o, .waita o][fn]?
  | 0x45 => [.bara o, .barw o, .baraw o, .barm o, .barq o][fn]?
  | 0x60 => [.mcfg o, .mvcfg o, .mtkcfg o, .mma o, .mmab o, .mmas o, .mman o, .mrel o, .mthr o, .mrpr o, .mstat o][fn]?
  | 0x61 => [.vvrd o, .vtopk o, .vbnd o][fn]?
  | 0x70 => [.cphead o, .cpstat o, .cpstop o, .xbinit o, .xbexp o, .xbarv o, .xbwait o, .xbtest o, .gthr o, .sctr o, .isect o][fn]?
  | 0x78 => [.wmclass o, .wmadd o, .wmdel o, .wmupd o, .wmget o, .netld o, .agrnd o, .agnext o, .agdone o, .scget o, .scput o][fn]?
  | 0x80 => [.trap o, .eret o, .sysrd o, .syswr o, .halt o, .idle o, .lqsend o, .lqwait o, .cfgpush o, .preempt o, .genbump o, .spflush o][fn]?
  | 0x20 => (vectorInstrs .f32 o)[fn]?
  | 0x21 => (vectorInstrs .bf16 o)[fn]?
  | 0x22 => (vectorInstrs .i32 o)[fn]?
  | 0x23 => (vectorInstrs .i8 o)[fn]?
  | 0x24 => some (.vcvt (Fmt.ofCode (fn / 8)) (Fmt.ofCode (fn % 8)) o)
  | _ => none

/-- The operands of a word under its row of the opcode map (R108). -/
def OpSpec.parse (sp : OpSpec) (r : Raw) : Except DecodeError Operands :=
  match Mod.parse sp.cls r.mod with
  | none => .error .mod
  | some m =>
    match Dst.parse r.dst with
    | none => .error .destination
    | some d =>
      let sh := sp.shape m r.c
      match sh.a.parse (r.ls == 1) r.a, sh.b.parse (r.ls == 2) r.b, sh.c.parse (r.ls == 3) r.c with
      | some a, some b, some c =>
        let o : Operands := { dst := d, mod := m, a := a, b := b, c := c }
        if sp.ok o then .ok o else .error .operands
      | _, _, _ => .error .field

/-- The decoder: the instruction of a word, or why it is none (R104 to R108). -/
def decode (w : W128) : Except DecodeError Instr :=
  let r := unpack w
  match opSpec r.maj.toNat r.fn.toNat with
  | none => .error .opcode
  | some sp =>
    match sp.parse r with
    | .error e => .error e
    | .ok o =>
      match buildInstr r.maj.toNat r.fn.toNat o with
      | none => .error .opcode
      | some i => .ok i

/-- LS of a set of operands (R88). -/
def Operands.ls (o : Operands) : BitVec 2 :=
  if o.a.isLit then 1 else if o.b.isLit then 2 else if o.c.isLit then 3 else 0

/-- The encoder: the word of an instruction; a step of the device has no word and encodes to zero. -/
def encode (i : Instr) : W128 :=
  match i.head, i.operands with
  | some (maj, fn), some o =>
    pack { maj := BitVec.ofNat 8 maj, fn := BitVec.ofNat 6 fn, ls := o.ls, dst := o.dst.pack, mod := o.mod.pack,
           c := o.c.pack, b := o.b.pack, a := o.a.pack }
  | _, _ => 0

/-- The 16 bytes of a word in an instruction store image, byte 0 first (R89). -/
def wordBytes (w : W128) : List Byte := (List.range 16).map fun k => bits w (8 * k) 8

/-- A word from its bytes, byte 0 first; bytes beyond the sixteenth are ignored and missing ones read as zero (R89). -/
def bytesWord (bs : List Byte) : W128 :=
  (bs.take 16).zipIdx.foldl (fun w (b, k) => w ||| (b.setWidth 128 <<< (8 * k))) 0

/-- The decoder on bytes: an instruction is 16 bytes (R89). -/
def decodeBytes (bs : List Byte) : Except DecodeError Instr := decode (bytesWord bs)

/-- The instruction of a word of `nbits` bits, numbered from the least significant bit; bits above are zero. -/
def decodeTableWord (nbits w : Nat) : Option Instr :=
  match decode (BitVec.ofNat 128 (w % 2 ^ nbits)) with
  | .ok i => some i
  | .error _ => none

end Sys2Proof
end

