-- ==== Sys2Proof/Machine/Num.lean ====
section
/-! DEFINITION. Number formats (R59 to R77): exact values, the rounding modes, and conversion.

A finite value is a sign, a magnitude and a power of two, exact; results are rounded once, by the named helpers of R69. -/

namespace Sys2Proof.Machine

/-- A value: (−1)^neg × m × 2^e, an infinity, or NaN. Zero keeps its sign (R61). -/
inductive Val where
  | fin (neg : Bool) (m : Nat) (e : Int)
  | inf (neg : Bool)
  | nan
  deriving DecidableEq, Repr

/-- An IEEE binary format: fraction bits, exponent bits, and bias (R61). -/
structure FloatFormat where
  frac : Nat
  ebits : Nat
  bias : Int
  deriving DecidableEq, Repr

/-- FP32 (R61). -/
def fp32 : FloatFormat := { frac := 23, ebits := 8, bias := 127 }
/-- BF16 (R61). -/
def bf16 : FloatFormat := { frac := 7, ebits := 8, bias := 127 }

/-- Exponent of the least significant bit of a subnormal. -/
def FloatFormat.eminOf (f : FloatFormat) : Int := 1 - f.bias - f.frac

/-- The value of a bit pattern of an IEEE format (R61). -/
def FloatFormat.value (f : FloatFormat) (bitsOf : Nat) : Val :=
  let frac := bitsOf % 2 ^ f.frac
  let ex := bitsOf / 2 ^ f.frac % 2 ^ f.ebits
  let neg := bitsOf / 2 ^ (f.frac + f.ebits) % 2 = 1
  if ex = 2 ^ f.ebits - 1 then (if frac = 0 then .inf neg else .nan)
  else if ex = 0 then .fin neg frac f.eminOf
  else .fin neg (2 ^ f.frac + frac) (f.eminOf + (ex - 1 : Nat))

/-- Number of significant bits of a natural number. -/
def bitLength (m : Nat) : Nat := if m = 0 then 0 else m.log2 + 1

/-- Whether the discarded part rounds the magnitude up (R68): `half2` compares twice the remainder with the unit (0 less, 1 equal,
2 greater), `exact` says the remainder is zero. -/
def roundsUp (mode : Rounding) (neg odd exact : Bool) (half2 : Nat) : Bool :=
  match mode with
  | .rne => half2 = 2 || (half2 = 1 && odd)
  | .rtz => false
  | .rup => !exact && !neg
  | .rdn => !exact && neg
  | .rna => half2 ≥ 1

/-- `m` × 2^(−shift), rounded to an integer magnitude in a mode (R68). -/
def roundShift (mode : Rounding) (neg : Bool) (m shift : Nat) : Nat :=
  if shift = 0 then m
  else
    let q := m / 2 ^ shift
    let r := m % 2 ^ shift
    let half := 2 ^ (shift - 1)
    let half2 := if r < half then 0 else if r = half then 1 else 2
    if roundsUp mode neg (q % 2 = 1) (r = 0) half2 then q + 1 else q

/-- A finite value rounded to `prec` significant bits with no exponent below `emin`, and no upper limit (R69 RoundUnbounded). -/
def roundTo (prec : Nat) (emin : Int) (mode : Rounding) (neg : Bool) (m : Nat) (e : Int) : Nat × Int :=
  let target := max (e + bitLength m - prec) emin
  let r := if target ≤ e then m * 2 ^ (e - target).toNat else roundShift mode neg m (target - e).toNat
  if r = 2 ^ prec then (r / 2, target + 1) else (r, target)

/-- The bit pattern of a format from sign, exponent field and fraction. -/
def FloatFormat.pattern (f : FloatFormat) (neg : Bool) (ex frac : Nat) : Nat :=
  (if neg then 2 ^ (f.frac + f.ebits) else 0) + ex * 2 ^ f.frac + frac

/-- The canonical NaN (R62). -/
def FloatFormat.nanPattern (f : FloatFormat) : Nat := f.pattern false (2 ^ f.ebits - 1) (2 ^ (f.frac - 1))

/-- RoundFP32 and RoundBF16 (R69): IEEE rounding with overflow by mode. -/
def FloatFormat.round (f : FloatFormat) (mode : Rounding) : Val → Nat
  | .nan => f.nanPattern
  | .inf neg => f.pattern neg (2 ^ f.ebits - 1) 0
  | .fin neg m e =>
    if m = 0 then f.pattern neg 0 0
    else
      let (r, re) := roundTo (f.frac + 1) f.eminOf mode neg m e
      let top := 2 ^ f.ebits - 1
      if r < 2 ^ f.frac then f.pattern neg 0 r
      else
        let ex := (re - f.eminOf).toNat + 1
        if ex ≥ top then
          let toInf := match mode with
            | .rne => true
            | .rna => true
            | .rtz => false
            | .rup => !neg
            | .rdn => neg
          if toInf then f.pattern neg top 0 else f.pattern neg (top - 1) (2 ^ f.frac - 1)
        else f.pattern neg ex (r - 2 ^ f.frac)

/-- A signed integer as a value. -/
def Val.ofInt (i : Int) : Val := .fin (i < 0) i.natAbs 0

/-- Negation (R91 NEG). -/
def Val.neg : Val → Val
  | .fin n m e => .fin (!n) m e
  | .inf n => .inf (!n)
  | .nan => .nan

/-- Absolute value (R91 ABS). -/
def Val.abs : Val → Val
  | .fin _ m e => .fin false m e
  | .inf _ => .inf false
  | .nan => .nan

/-- The exact sum of two finite signed magnitudes, at their lesser exponent. -/
def addFin (mode : Rounding) (n1 : Bool) (m1 : Nat) (e1 : Int) (n2 : Bool) (m2 : Nat) (e2 : Int) : Val :=
  let e := min e1 e2
  let a : Int := m1 * 2 ^ (e1 - e).toNat
  let b : Int := m2 * 2 ^ (e2 - e).toNat
  let s := (if n1 then -a else a) + (if n2 then -b else b)
  if s = 0 then
    .fin (if m1 = 0 ∧ m2 = 0 then (if n1 = n2 then n1 else mode == .rdn) else mode == .rdn) 0 0
  else .fin (s < 0) s.natAbs e

/-- The exact sum (R168); ∞ − ∞ is NaN. The mode gives an exact zero its IEEE sign. -/
def Val.add (mode : Rounding) : Val → Val → Val
  | .nan, _ => .nan
  | _, .nan => .nan
  | .inf a, .inf b => if a = b then .inf a else .nan
  | .inf a, _ => .inf a
  | _, .inf b => .inf b
  | .fin n1 m1 e1, .fin n2 m2 e2 => addFin mode n1 m1 e1 n2 m2 e2

/-- The exact product (R168); ∞ × 0 is NaN. -/
def Val.mul : Val → Val → Val
  | .nan, _ => .nan
  | _, .nan => .nan
  | .inf a, .inf b => .inf (a != b)
  | .inf a, .fin n m _ => if m = 0 then .nan else .inf (a != n)
  | .fin n m _, .inf b => if m = 0 then .nan else .inf (n != b)
  | .fin n1 m1 e1, .fin n2 m2 e2 => .fin (n1 != n2) (m1 * m2) (e1 + e2)

/-- The quotient, exact up to a sticky last bit far below any rounding position (R168 VDIV). -/
def Val.div : Val → Val → Val
  | .nan, _ => .nan
  | _, .nan => .nan
  | .inf _, .inf _ => .nan
  | .inf a, .fin n _ _ => .inf (a != n)
  | .fin n _ _, .inf b => .fin (n != b) 0 0
  | .fin n1 m1 e1, .fin n2 m2 e2 =>
    if m2 = 0 then (if m1 = 0 then .nan else .inf (n1 != n2))
    else
      let k := bitLength m2 + 32
      let q := m1 * 2 ^ k / m2
      let r := m1 * 2 ^ k % m2
      .fin (n1 != n2) (2 * q + (if r = 0 then 0 else 1)) (e1 - e2 - k - 1)

/-- Integer square root by binary digits, from bit `b` downwards. -/
def isqrtFrom (n : Nat) : Nat → Nat → Nat
  | 0, acc => acc
  | b + 1, acc =>
    let t := acc + 2 ^ b
    isqrtFrom n b (if t * t ≤ n then t else acc)

/-- The square root, exact up to a sticky last bit (R168 VSQRT). -/
def Val.sqrt : Val → Val
  | .nan => .nan
  | .inf n => if n then .nan else .inf false
  | .fin n m e =>
    if m = 0 then .fin n 0 0
    else if n then .nan
    else
      let odd := e % 2 ≠ 0
      let m1 := (if odd then 2 * m else m) * 2 ^ 64
      let e1 := (if odd then e - 1 else e) - 64
      let r := isqrtFrom m1 (bitLength m1 / 2 + 1) 0
      .fin false (2 * r + (if r * r = m1 then 0 else 1)) (e1 / 2 - 1)

/-- The order of two values, −0 equal to +0: less, equal, greater, or none for NaN. -/
def Val.cmp : Val → Val → Option Ordering
  | .nan, _ => none
  | _, .nan => none
  | .inf a, .inf b => some (if a = b then .eq else if a then .lt else .gt)
  | .inf a, _ => some (if a then .lt else .gt)
  | _, .inf b => some (if b then .gt else .lt)
  | .fin n1 m1 e1, .fin n2 m2 e2 =>
    let e := min e1 e2
    let a : Int := m1 * 2 ^ (e1 - e).toNat
    let b : Int := m2 * 2 ^ (e2 - e).toNat
    some (compare (if n1 then -a else a) (if n2 then -b else b))

/-- The sign bit of a value. -/
def Val.isNeg : Val → Bool
  | .fin n _ _ => n
  | .inf n => n
  | .nan => false

/-- NaN. -/
def Val.isNan : Val → Bool
  | .nan => true
  | _ => false

/-- The lesser value, −0 below +0; NaN if either is NaN (R168 VMIN). -/
def Val.minV (a b : Val) : Val :=
  match Val.cmp a b with
  | none => .nan
  | some .lt => a
  | some .gt => b
  | some .eq => if a.isNeg then a else b

/-- The greater value, +0 above −0; NaN if either is NaN (R168 VMAX). -/
def Val.maxV (a b : Val) : Val :=
  match Val.cmp a b with
  | none => .nan
  | some .gt => a
  | some .lt => b
  | some .eq => if a.isNeg then b else a

/-- A condition between floating-point values (R170): NaN is false for every condition but ne. -/
def Val.holds (c : Cond) (a b : Val) : Bool :=
  match c, Val.cmp a b with
  | .ne, none => true
  | _, none => false
  | .eq, some o => o == .eq
  | .ne, some o => o != .eq
  | .lt, some o => o == .lt
  | .le, some o => o != .gt
  | .gt, some o => o == .gt
  | .ge, some o => o != .lt
  | _, some _ => false

/-- The abandoned pattern (R62, R305): bits [31:20] are 0x7FD. -/
def isAbandoned (w : W32) : Bool := field w 20 12 == 0x7FD

/-- An FP32 pattern as a value. -/
def f32Val (w : W32) : Val := fp32.value w.toNat
/-- A BF16 pattern as a value. -/
def bf16Val (h : BitVec 16) : Val := bf16.value h.toNat
/-- RoundFP32 (R69). -/
def roundF32 (mode : Rounding) (v : Val) : W32 := BitVec.ofNat 32 (fp32.round mode v)
/-- RoundBF16 (R69). -/
def roundBF16 (mode : Rounding) (v : Val) : BitVec 16 := BitVec.ofNat 16 (bf16.round mode v)

/-- The value of an E4M3 code (R64): every code is finite. -/
def e4m3Val (c : Byte) : Val :=
  let m := field c 0 3
  let e := field c 3 4
  if e = 0 then .fin (bit c 7) m (-9) else .fin (bit c 7) (8 + m) ((e : Int) - 10)

/-- The value of an E5M2 code (R64): every code is finite. -/
def e5m2Val (c : Byte) : Val :=
  let m := field c 0 2
  let e := field c 2 5
  if e = 0 then .fin (bit c 7) m (-16) else .fin (bit c 7) (4 + m) ((e : Int) - 17)

/-- Twice the value of an E2M1 code (R64, R65); code 0x8 decodes as +0. -/
def e2m1Twice (c : BitVec 4) : Int :=
  let m := field c 0 1
  let e := field c 1 2
  let a : Int := if e = 0 then m else (2 + m) * 2 ^ (e - 1)
  if bit c 3 then -a else a

/-- The value of an E3M5 block scale times 2^7 (R64, R66); code 0xFF is the NaN scale. -/
def e3m5Scaled (c : Byte) : Option Nat :=
  let m := field c 0 5
  let e := field c 5 3
  if c = 0xFF then none else some (if e = 0 then m else (32 + m) * 2 ^ (e - 1))

/-- The value of an element pattern of a format (R59 to R66); an HXF4 byte has none and reads as zero. -/
def Fmt.value (f : Fmt) (x : W32) : Val :=
  match f with
  | .int32 => Val.ofInt x.toInt
  | .fp32 => f32Val x
  | .bf16 => bf16Val (bits x 0 16)
  | .e4m3 => e4m3Val (bits x 0 8)
  | .e5m2 => e5m2Val (bits x 0 8)
  | .hxf4 => .fin false 0 0
  | .int8 => Val.ofInt (bits x 0 8).toInt
  | .idx => Val.ofInt x.toNat

/-- The result of converting one element: a pattern or an error code (R71). -/
abbrev Conv := Except (BitVec 4) W32

/-- A finite value rounded to an integer in a mode. -/
def roundInt (mode : Rounding) (neg : Bool) (m : Nat) (e : Int) : Int :=
  let r : Nat := if e ≥ 0 then m * 2 ^ e.toNat else roundShift mode neg m (-e).toNat
  if neg then -(r : Int) else r

/-- Into an integer format with bounds (R71). -/
def convInt (lo hi : Int) (mode : Rounding) (sat : Bool) : Val → Except (BitVec 4) Int
  | .nan => .error 1
  | .inf neg => if sat then .ok (if neg then lo else hi) else .error 4
  | .fin neg m e =>
    let r := roundInt mode neg m e
    if r > hi then (if sat then .ok hi else .error 4)
    else if r < lo then (if sat then .ok lo else .error 4)
    else .ok r

/-- Into E4M3 or E5M2 (R71): `frac` fraction bits, `emin` the exponent of the least code; the code of the magnitude is then
its exponent field and fraction in one number, 0x7F being the largest. Zero keeps its sign (R67). -/
def convNarrow (frac : Nat) (emin : Int) (mode : Rounding) (sat : Bool) : Val → Except (BitVec 4) W32
  | .nan => .error 1
  | .inf neg => if sat then .ok (if neg then 0xFF else 0x7F) else .error 4
  | .fin neg m e =>
    let (r, re) := if m = 0 then (0, emin) else roundTo (frac + 1) emin mode neg m e
    let code := if r < 2 ^ frac then r else ((re - emin).toNat + 1) * 2 ^ frac + (r - 2 ^ frac)
    let sign := if neg then 0x80 else 0
    if code > 0x7F then (if sat then .ok (BitVec.ofNat 32 (sign + 0x7F)) else .error 4)
    else .ok (BitVec.ofNat 32 (sign + code))

/-- Conversion of one element from `fs` to `fd` (R71), for the pairs of R70; the abandoned pattern is the caller's. -/
def convert (fs fd : Fmt) (mode : Rounding) (sat : Bool) (x : W32) : Conv :=
  let v := Fmt.value fs x
  match fd with
  | .fp32 => .ok (roundF32 mode v)
  | .bf16 => .ok ((roundBF16 mode v).setWidth 32)
  | .int32 => (convInt (-2 ^ 31) (2 ^ 31 - 1) mode sat v).map (BitVec.ofInt 32)
  | .int8 => (convInt (-128) 127 mode sat v).map fun i => (BitVec.ofInt 8 i).setWidth 32
  | .e4m3 => convNarrow 3 (-9) mode sat v
  | .e5m2 => convNarrow 2 (-16) mode sat v
  | .idx => if fs == .int32 && x.msb then .error 6 else .ok x
  | .hxf4 => .ok x

/-- The width of an element of a format (R59). -/
def Fmt.elemBits (f : Fmt) : Nat := 32 / f.perLane

/-- Element `j` of a lane (R60). -/
def laneElem (f : Fmt) (w : W32) (j : Nat) : W32 :=
  match f.perLane with
  | 1 => w
  | 2 => (bits w (16 * j) 16).setWidth 32
  | _ => (bits w (8 * j) 8).setWidth 32

/-- A lane from its elements, lowest first (R60). -/
def laneOf (f : Fmt) (es : List W32) : W32 :=
  let w := Fmt.elemBits f
  (es.zipIdx.take f.perLane).foldl (fun acc (x, j) => acc ||| ((x &&& BitVec.ofNat 32 (2 ^ w - 1)) <<< (w * j))) 0

end Sys2Proof.Machine
end

