-- ==== Sys2Proof/Machine/State.lean ====
section
/-! DEFINITION. The state of one HX7 package, as plain data: every piece of state the manual names, and the model's own few fields.

Sparse arrays are association lists with rising keys (`Table`); a key that is absent reads as the stated default. -/

namespace Sys2Proof.Machine

/-- A sparse array: keys strictly rising; an absent key reads as a default given where it is read. -/
abbrev Table (α : Type) := List (Nat × α)

/-- Bytes at addresses: strictly rising, no entry equal to the byte an unlisted address reads as (zero, log 4). -/
abbrev Memory := List Host.Cell

/-! ### Registers (R86, R119) -/

/-- The contents of a scalar register, with its kind (R86): a null holds zero, an error its code (R144). -/
inductive Scalar where
  | data (w : W64)
  | null
  | err (code : BitVec 4)
  deriving DecidableEq, Repr

/-- A scalar register and its full bit (R119). -/
structure SReg where
  val : Scalar
  full : Bool
  deriving DecidableEq, Repr

/-- A vector register and its full bit (R119). -/
structure VReg where
  lanes : Vector Lane 64
  full : Bool
  deriving DecidableEq, Repr

/-- A predicate or tile-predicate register and its full bit (R119). -/
structure PReg where
  val : W64
  full : Bool
  deriving DecidableEq, Repr

/-- The register files of a task (R119); a controller uses `s`, `p` and `q` (R107). -/
structure Regs where
  s : Vector SReg 64
  v : Vector VReg 32
  p : Vector PReg 8
  q : Vector PReg 8
  deriving DecidableEq, Repr

/-- The trap state (R140): TRAPCAUSE, TRAPADDR, TRAPWORD and the saved block-word count. -/
structure TrapState where
  cause : W32
  addr : Nat
  word : W128
  count : Nat
  deriving DecidableEq, Repr

/-- A task of a launch by its logical place (R29): region of the launch, site in the region, slot. It stays valid when the launch is
pre-empted and placed elsewhere. -/
structure TaskRef where
  launch : Nat
  region : Nat
  x : Nat
  y : Nat
  slot : Nat
  deriving DecidableEq, Repr

/-! ### Long-latency producers (R121) -/

/-- What a producer writes when it completes. -/
inductive Fill where
  | scalar (i : Fin 64) (x : Scalar)
  | vector (i : Fin 32) (ls : Vector Lane 64)
  | nothing
  deriving DecidableEq, Repr

/-- One access of a load: `lane` of the destination, virtual address, `bytes` wide, and its bytes if it is performed already. -/
structure LoadPiece where
  lane : Nat
  va : W64
  bytes : Nat
  got : Option (List Byte)
  deriving DecidableEq, Repr

/-- Where a load's value goes and how it is widened (R222, R223). -/
inductive LoadInto where
  | scalar (i : Fin 64) (signed : Bool)
  | vector (i : Fin 32) (old : Vector Lane 64)
  | discard
  deriving DecidableEq, Repr

/-- What a producer still waits for; `performed` is an access, or a barrier query, whose result is known (R244), and `delta` a result of the
match node of the region that a command's delta must have reached memory for (R256). -/
inductive ProducerState where
  | ready (f : Fill)
  | performed (f : Fill)
  | load (into : LoadInto) (pieces : List LoadPiece) (scope : Scope) (evict : Nat)
  | heldAtomic (maj fn : Nat) (dst : Fin 64) (va : W64) (b c : W64) (scope : Scope) (evict : Nat)
  | writeBack (lines : List Nat)
  | barrier (group : Nat) (gang : Bool) (gen : W32) (dst : Fin 64)
  | transaction (va : W64) (phase : BitVec 4) (dst : Fin 64)
  | children (ids : List Nat) (dst : Fin 64)
  | engine (dst : Dst)
  | delta (node : Nat) (f : Fill)
  deriving DecidableEq, Repr

/-- A producer that has issued and not completed; `acq` holds later accesses until then (R220, R243), and `held` says that its access
met a page fault that the leaf has not resolved, so that the task holds (R273). -/
structure Producer where
  id : Nat
  state : ProducerState
  acq : Option Scope
  held : Bool
  deriving DecidableEq, Repr

/-! ### Instruction streams -/

/-- What every instruction stream has, a task's or a controller's (R101, R119, R140, R151, R397). `stepOver` says that a word
breakpoint has already halted the stream before the word at `pc` (R435, log 15). -/
structure Thread where
  regs : Regs
  pc : Nat
  stepOver : Bool
  blockCount : Nat
  exitHist : BitVec 30
  callStack : List Nat
  trap : TrapState
  handler : Bool
  rowProg : W32
  producers : List Producer
  nextProducer : Nat
  deriving DecidableEq, Repr

/-- The four ways a task waits (R32). -/
inductive WaitOn where
  | register (d : Dst)
  | channel (c : Nat)
  | wait
  | waita (line : Nat) (entry : Bool)
  deriving DecidableEq, Repr

/-- States of a task slot (R123); the Handler state is Ready or Waiting with `Thread.handler` set. -/
inductive Slot where
  | absent
  | installed
  | ready
  | waiting (w : WaitOn)
  | done
  | retired
  deriving DecidableEq, Repr

/-- A declared operand range (R134). -/
structure RangeDecl where
  mode : BitVec 2
  ba : Bool
  la : Bool
  barg : Nat
  larg : Nat
  baseLo : W32
  baseHi : W32
  len : W32
  deriving DecidableEq, Repr

/-- An extent-table entry with its page list: the 64-bit granule entries, in the layout of R266 (log 122); an absent one is zero, with F = 0. -/
structure Extent where
  vbase : W64
  len : Nat
  mode : BitVec 2
  space : Nat
  granules : Table W64
  deriving DecidableEq, Repr

/-- A child launch that a task created (R46, R47), by its place in the queue rings: 2^64 times its queue, and its count there. -/
structure Child where
  id : Nat
  complete : Bool
  error : Bool
  deriving DecidableEq, Repr

/-- A task (R25, R119, R133). `lastChan` is the input channel it last consumed a token from, 32 before any, and `lastArrive` that token's
arrival (R431). -/
structure Task where
  thread : Thread
  slot : Slot
  start : Nat
  startReady : Bool
  hv : Bool
  handlerAt : Nat
  tags : List (BitVec 10)
  ranges : List RangeDecl
  nrange : Nat
  parts : List Nat
  extents : List Extent
  children : List Child
  lastChan : Nat
  lastArrive : W64
  deriving DecidableEq, Repr

/-! ### Sites (R13, R119 to R138) -/

/-- An input channel: up to 4 token slots, oldest first (R124), each with its arrival time (R431). -/
structure InChan where
  slots : List (Token × W64)
  deriving DecidableEq, Repr

/-- An output channel: send buffer of 2 slots, route word, NEXTSEQ, and the input recorded for its last
firing with the arrival and firing times (R124, R135, R178, R431). -/
structure OutChan where
  send : List Token
  route : Option W32
  nextSeq : BitVec 12
  fired : Bool
  lastInput : Nat
  lastArrive : W64
  lastFire : W64
  lastTask : Nat
  lastWord : Nat
  deriving DecidableEq, Repr

/-- Null modes of a token node (R85). -/
inductive NullMode where
  | absorb | pass | identity
  deriving DecidableEq, Repr

/-- A site configured as a token node (R129, R137). -/
inductive TokenNode where
  | steer (inp sel outA outB : Nat)
  | merge (inputs : List Nat) (inOrder : Bool) (out : Nat)
  | conv (fs fd : Fmt) (rnd : Rounding) (sat : Bool) (nulls : NullMode)
  deriving DecidableEq, Repr

/-- The region that a site or engine node belongs to (R27, R29). -/
structure Owner where
  launch : Nat
  region : Nat
  x : Nat
  y : Nat
  deriving DecidableEq, Repr

/-- The input of a top-k node that has sent a token away for conversion, and to which the result returns (R83). -/
structure Diversion where
  core : Nat
  topk : Nat
  input : Nat
  deriving DecidableEq, Repr

/-- A site (R13). `diversions` says, for each token in c0 of a conversion node, oldest first, which input diverted it, and none for a token
that was routed there (R83, R137). `blocked` lists the senders whose token has found an input channel full, and `granted` the place in the
round-robin order of the sender whose token each channel accepted last (R125). -/
structure Site where
  owner : Option Owner
  awake : Bool
  installed : Bool
  istore : Table W128
  localStore : Memory
  tasks : Table Task
  lastIssued : Nat
  bindings : List (BitVec 10 × Nat)
  chans : Vector InChan 32
  outs : Vector OutChan 16
  node : Option TokenNode
  mergeNext : Option (BitVec 12)
  mergeArrivals : List Nat
  diversions : List (Option Diversion)
  blocked : List (Nat × Sender)
  granted : Table Nat
  nodeMap : List (List W32)
  deriving DecidableEq, Repr

/-! ### L1, side log and faults of a core (R189, R275) -/

/-- A line of an L1: for each word owned or a clean copy, for each byte dirty and valid, the eviction priority (R189), the step
that used the line last, and for each owned word the launch that stored it last (R208, log 48). -/
structure L1Line where
  owned : W32
  clean : W32
  dirty : W128
  valid : W128
  content : LineData
  prio : Nat
  used : Nat
  lids : Table Nat
  deriving DecidableEq, Repr

/-- A side-log entry (R275): the operation, its bytes from `va` upwards with those that it does not write left out, its ordering, scope and
eviction priority; `maj` 0 is a store. `also` lists the tasks whose acquires have put the entry before their later accesses (R249). -/
structure LogEntry where
  id : Nat
  task : TaskRef
  space : Nat
  gen : Nat
  va : W64
  content : List (Option Byte)
  maj : Nat
  fn : Nat
  operand : W64
  comparand : W64
  ord : MemOrder
  scope : Scope
  evict : Nat
  also : List TaskRef
  deriving DecidableEq, Repr

/-- Who wrote: a task, or an engine node for a launch (R195). -/
inductive Writer where
  | task (r : TaskRef)
  | node (launch : Nat) (n : NodeRef)
  deriving DecidableEq, Repr

/-- A registration that this core has sent and whose REGACK has not arrived (R196). `who` lists those whose stores it registers, also the stores
that needed no message of their own, and the tasks whose acquires have put it before their later accesses (R204, R249); `lost` when it
could not reach its host (R420). -/
structure RegOut where
  who : List Writer
  line : Nat
  mask : W32
  lost : Bool
  deriving DecidableEq, Repr

/-- A fault record written to a core's ring and not yet resolved (R272). -/
structure FaultEntry where
  index : Nat
  info : FaultInfo
  deriving DecidableEq, Repr

/-! ### Matrix engine (R284 to R327) -/

/-- Consumer predicates of a verdict-class accumulation (R301). -/
inductive Verdict where
  | sign | ge | topk
  deriving DecidableEq, Repr

/-- A slab's configuration (R315, R325). -/
structure SlabCfg where
  mode : Nat
  dcode : Nat
  pred : Option Verdict
  theta : W32
  topk : Option NodeRef
  deriving DecidableEq, Repr

/-- The four tile commands (R317). -/
inductive TileForm where
  | mma | mmab | mmas | mman
  deriving DecidableEq, Repr

/-- A tile command (R318, R321): descriptor lanes 0 to 15, the mask read at issue, the issuing task, whether a copy channel offered it
(R334), the producer it fills, its job card, and the step at which the slab accepted it. -/
structure TileCmd where
  form : TileForm
  fin : Bool
  vd : Bool
  lanes : List W32
  mask : W64
  issuer : TaskRef
  follow : Bool
  producer : Option Nat
  card : Nat
  order : Nat
  deriving DecidableEq, Repr

/-- What a slab's queue holds (R315). -/
inductive SlabCmd where
  | mcfg (mode dcode : Nat)
  | mvcfg (v : Verdict) (theta : W32)
  | mtkcfg (node : NodeRef)
  | tile (c : TileCmd)
  deriving DecidableEq, Repr

/-- An element decided by the bound monitor (R303): its verdict and the sum at the group that decided it. -/
structure Decision where
  verdict : Bool
  partialSum : W32
  deriving DecidableEq, Repr

/-- The executing tile command (R321). `decided` is keyed by 256 * row + column; `dead` holds the 16-column sub-blocks that
receive no further group (R304, R336), `skipped` those that have skipped one, and `costs` the distinct costs of the rows that the present
group has added (R299, R300). -/
structure SlabExec where
  cmd : TileCmd
  groups : Nat
  next : Nat
  band : Nat
  theta : W32
  thetaKnown : Bool
  decided : Table Decision
  dead : List Nat
  skipped : List Nat
  costs : List Nat
  gdone : Nat
  held : Bool
  wasHeld : Bool
  deriving DecidableEq, Repr

/-- A slab (R294, R295). `stopped` says that it could not reach memory, or that its space was gone: it runs no further command (R271, R420). -/
structure Slab where
  owner : Option (Owner × Nat)
  cfg : SlabCfg
  accepted : SlabCfg
  queue : List SlabCmd
  exec : Option SlabExec
  rowProg : W32
  halted : Bool
  stopped : Bool
  lastInput : Nat
  lastArrive : W64
  lastFire : W64
  deriving DecidableEq, Repr

/-- Status of an accumulator element (R287, R300): none, or the error code its lane is released with. -/
inductive Status where
  | none | invalid | nanin | scale | rowBad
  deriving DecidableEq, Repr

/-- Band scales that a release applies to the sums of an MMAB (R289, R323): A's for the node's rows, B's for each 64 columns. -/
structure Bands where
  a : BitVec 16
  b : List (BitVec 16)
  deriving DecidableEq, Repr

/-- An accumulator node (R290 to R292). `forced` holds, for each MREL not yet served, the step at which it came (R293); `endSeq` is the tag of the last END
(R78), `rowBase` the tile row that the node's first row holds (R290), and `cols` the columns that the round's commands have (R336). Sums, statuses and abandoned patterns are keyed by 256 * row + column. -/
structure Acc where
  owner : Option (Owner × Nat)
  ends : Nat
  int : Bool
  route : W32
  sums : Table W32
  status : Table Status
  abandoned : Table W32
  written : W32
  bands : Option Bands
  rowBase : Nat
  rows : Nat
  chunks : Nat
  cols : Nat
  endCount : Nat
  endSeq : Option (BitVec 12)
  items : W32
  bound : Option (Nat × Nat)
  forced : List Nat
  releasing : Bool
  out : List Token
  lastInput : Nat
  lastArrive : W64
  lastFire : W64
  deriving DecidableEq, Repr

/-- A candidate of a top-k node (R306). -/
structure Candidate where
  value : W32
  column : W32
  deriving DecidableEq, Repr

/-- A top-k node (R306 to R308, R326); `floor` is the θ that MTHR set, `away` the inputs whose head is being converted (R83). -/
structure TopK where
  owner : Option (Owner × Nat)
  k : Nat
  ends : Nat
  route : W32
  offsets : List W32
  held : List Candidate
  floor : W32
  endCount : Nat
  endSeq : Option (BitVec 12)
  slabs : List (Nat × Nat)
  away : List Nat
  out : List Token
  lastInput : Nat
  lastArrive : W64
  lastFire : W64
  deriving DecidableEq, Repr

/-! ### Copy channels and cards (R333 to R345) -/

/-- States of a copy channel (R339), coded 0 to 5 in this order. -/
inductive ChanState where
  | idle | fetch | copy | finish | held | stopped
  deriving DecidableEq, Repr

/-- What CPHEAD puts in a head register (R340, R334): the first record, the issuing task, and its tile predicates. -/
structure Head where
  addr : W64
  issuer : TaskRef
  tiles : Vector W64 8
  deriving DecidableEq, Repr

/-- A transfer record as read (R333). -/
structure Record where
  next : W64
  ctl : W64
  bar : W64
  shape : W64
  src : W64
  dst : W64
  srcStr : W64
  dstStr : W64
  cmd : List W32
  deriving DecidableEq, Repr

/-- A copy channel (R339 to R343): the walk in progress, the position within the record's runs and sectors, and the sectors written and
not yet registered, each with its words. `failing` is the error with which it will stop once its record's barrier can be reached (R343), and
`page` an address of the page on whose fault it holds (R273). -/
structure CopyChan where
  owner : Option (Owner × Nat)
  state : ChanState
  cur : Option Head
  head : Option Head
  record : Option Record
  run : Nat
  sector : Nat
  issued : Nat
  flight : List (List (Nat × W32))
  stopReq : Bool
  card : Nat
  began : Bool
  offered : Bool
  failing : Option Nat
  page : Option W64
  halted : Bool
  lastArrive : W64
  lastFire : W64
  deriving DecidableEq, Repr

/-- A job card (R344, R345): its launch, its footprint as byte ranges read and written, each address with its space in the bits above
64, its edges, each from a card whose writes (true) or whose reads it waits for, whether it has begun, and whether its reads have all been
performed and its writes registered. -/
structure Card where
  id : Nat
  launch : Nat
  reads : List (Nat × Nat)
  writes : List (Nat × Nat)
  after : List (Nat × Bool)
  begun : Bool
  readsDone : Bool
  writesDone : Bool
  deriving DecidableEq, Repr

/-! ### Match engine (R364 to R391) -/

/-- A test of a condition (R370). -/
structure NetTest where
  attr : Nat
  cond : Nat
  var : Bool
  value : W32
  deriving DecidableEq, Repr

/-- A positive or negated condition (R370). -/
structure NetCond where
  cls : Nat
  tests : List NetTest
  deriving DecidableEq, Repr

/-- A score condition (R370). -/
structure NetScore where
  scorer : Nat
  keys : List Nat
  theta : W32
  deriving DecidableEq, Repr

/-- The conditions of a rule, of each kind (R370). -/
inductive NetItem where
  | pos (c : NetCond)
  | neg (c : NetCond)
  | score (c : NetScore)
  deriving DecidableEq, Repr

/-- A rule of the network (R370): the positive conditions whose element a firing may retract or modify, the classes that it may assert, and
its conditions in source order. -/
structure NetRule where
  rule : Nat
  salience : Int
  del : List Nat
  mod : List Nat
  adds : List Nat
  items : List NetItem
  deriving DecidableEq, Repr

/-- A working-memory element as the engine holds it (R364). -/
structure WmElem where
  cls : Nat
  uflags : Nat
  ts : Nat
  attrs : List W32
  live : Bool
  deriving DecidableEq, Repr

/-- States of a score entry that is not EMPTY (R374). -/
inductive EntryState where
  | pending | valid | dead
  deriving DecidableEq, Repr

/-- A score entry (R374): its key, its state, the θ of its condition, and whether its scorer's packet has been written (R375). Its VALUE
and SIG lie in memory only. -/
structure ScoreEntry where
  scorer : Nat
  ids : List Nat
  state : EntryState
  sent : Bool
  theta : W32
  deriving DecidableEq, Repr

/-- An instantiation: its rule and its element ids in condition order (R369). -/
structure Inst where
  rule : Nat
  elems : List Nat
  deriving DecidableEq, Repr

/-- A delta (R371); `load` is NETLD's assertion of a live element into the new network, which keeps its timestamp (R386). -/
inductive Delta where
  | assert (id : Nat) (cls uflags : Nat) (attrs : List W32)
  | retract (id : Nat)
  | modify (id : Nat) (cls uflags : Nat) (attrs : List W32)
  | load (id : Nat)
  deriving DecidableEq, Repr

/-- An admitted firing (R379, R387). -/
structure Firing where
  inst : Inst
  taken : Bool
  closed : Bool
  deltas : List Delta
  deriving DecidableEq, Repr

/-- A scorer of the node (R136 kind 5). -/
structure Scorer where
  id : Nat
  w : Nat
  h : Nat
  image : W64
  deriving DecidableEq, Repr

/-- A score condition that a partial match waits on (R373). -/
structure ScoreWait where
  inst : Inst
  cond : Nat
  entry : Nat
  deriving DecidableEq, Repr

/-- An AGRND that the engine has accepted (R378). -/
structure PendingRound where
  task : TaskRef
  producer : Option Nat
  maxAdmit : Nat
  deriving DecidableEq, Repr

/-- A NETLD under way: the task that issued it, the bytes of the image read so far, and the network once the image has been found good
(R386). -/
structure NetLoad where
  task : TaskRef
  bytes : List Byte
  net : Option (List NetRule)
  deriving DecidableEq, Repr

/-- A match engine (R364 to R391). `heldAt` is the address on whose page's fault the engine last held, `betaDue` are the places of the beta area that partial matches still have to be written to, and `loading` a
NETLD under way. `elems` holds the elements, `deltas` those not yet propagated, `known` the instantiations that stand
(in the conflict set or admitted), `passed`, `failed` and `waits` the outcomes of the score conditions that partial matches have reached,
each by its number within the rule, `scores` the score table by slot, and `parts` the configuration parts received. -/
structure Match where
  owner : Option (Owner × Nat)
  wmBase : W64
  wmCap : Nat
  betaBase : W64
  betaBytes : Nat
  scoreBase : W64
  scoreEntries : Nat
  squeue : W64
  nscorer : Nat
  scorers : List Scorer
  parts : List Nat
  classes : Table Nat
  net : List NetRule
  nextId : Nat
  freed : List Nat
  elems : Table WmElem
  tsNext : Nat
  round : Nat
  roundExists : Bool
  conflict : List Inst
  known : List Inst
  firings : List Firing
  firingRound : Nat
  deltas : List Delta
  betaDue : List Nat
  loading : Option NetLoad
  rounds : List PendingRound
  passed : List (Inst × Nat)
  failed : List (Inst × Nat)
  waits : List ScoreWait
  scores : Table ScoreEntry
  heldAt : Option W64
  halted : Bool
  lastArrive : W64
  lastFire : W64
  deriving DecidableEq, Repr

/-! ### Controllers (R397 to R403) -/

/-- A controller: its instruction stream, stores, and whether it runs (R397, R399). -/
structure Controller where
  thread : Thread
  istore : Table W128
  dataMem : Memory
  running : Bool
  idle : Bool
  deriving DecidableEq, Repr

/-- Registers of a region handle (R402). -/
structure RegionRegs where
  pos : W64
  node : W64
  lid : W64
  save : W64
  deriving DecidableEq, Repr

/-- A leaf block (R402). `rx` holds the commands that have arrived, `tx` the dwords of the next report, and `awaiting` the regions, launch and
index, that have retired and for which the leaf has not reported DONE, oldest first (R413). -/
structure LeafBlock where
  levents : W64
  retired : List W64
  awaiting : List (Nat × Nat)
  trapVec : W64
  regions : Table RegionRegs
  rx : List (List W64)
  tx : List W64
  txFlight : List (List W64)
  permits : Nat
  deriving DecidableEq, Repr

/-- A core (R12). `readsOut` lists the lines of unanswered RDREQs, each with the eviction priority of the access that caused it (R189), and `readsStale` those among them that an invalidation or a
registration has overtaken, whose DATA fills nothing (R203, log 24). `wbOut` lists the write-backs without a WBACK: line, words, and the launches that had stored the words
(R208). -/
structure Core where
  inService : Bool
  l1 : Table L1Line
  readsOut : List (Nat × Nat)
  readsStale : List Nat
  regsOut : List RegOut
  wbOut : List (Nat × W32 × Table Nat)
  sideLog : List LogEntry
  nextLog : Nat
  fltBase : W64
  fltHead : W64
  fltTail : W64
  faults : List FaultEntry
  faultQueue : List FaultInfo
  watch : List TaskKey
  slabs : Vector Slab 4
  accs : Vector Acc 16
  topks : Vector TopK 16
  chans : Vector CopyChan 2
  match_ : Match
  cards : List Card
  nextCard : Nat
  rampCfg : W64
  rampStat : W64
  rampEmpty : W64
  rampDummy : W64
  rampCount : Nat
  leaf : Controller
  block : LeafBlock
  deriving DecidableEq, Repr

/-! ### Dies: translation, hotness, stream programs, fabric units (R192, R265 to R279, R354) -/

/-- An engine TLB entry (R269), of an engine node or, with `who` none, of the die's gather, scatter and intersect unit: space, GEN, page base and log2 size, physical base, writable. -/
structure TlbEntry where
  who : Option NodeRef
  space : Nat
  gen : Nat
  vbase : Nat
  log2 : Nat
  pbase : Nat
  writable : Bool
  deriving DecidableEq, Repr

/-- A hotness entry (R277, R278). -/
structure HotEntry where
  space : Nat
  window : Nat
  deliv : Nat
  starve : Nat
  queued : Bool
  requeued : Bool
  deriving DecidableEq, Repr

/-- A stream program (R136 kind 4, R192): its configuration, levels outermost first, the element that comes next, and the tag that its
start token gave (R78). -/
structure Stream where
  owner : Option (Owner × Nat)
  fmt : Fmt
  vec : Bool
  needToken : Bool
  started : Bool
  finished : Bool
  endLevel : Option Nat
  base : W64
  route : W32
  dims : List (Nat × Int)
  next : Nat
  seq : Option (BitVec 12)
  inbox : List (Token × W64)
  out : List Token
  halted : Bool
  lastArrive : W64
  lastFire : W64
  deriving DecidableEq, Repr

/-- What a fabric-interface unit executes (R354, R357, R358). -/
inductive UnitKind where
  | gather | scatter | isect
  deriving DecidableEq, Repr

/-- A command of a fabric-interface unit (R354 to R358). `next` is the element that comes next, `gathered` the lanes of the token being
formed, `result` what ISECT has computed, and `heldAt` the address on whose page's fault the command last held. -/
structure UnitCmd where
  kind : UnitKind
  issuer : TaskRef
  lanes : List W32
  index : Option (Vector Lane 64)
  value : Option (Vector Lane 64)
  fin : Bool
  producer : Option Nat
  next : Nat
  gathered : List Lane
  done : Nat
  skipped : Nat
  unreach : Bool
  out : List Token
  result : Scalar
  heldAt : Option W64
  deriving DecidableEq, Repr

/-- An entry of a remote translation cache (R419): a 1 GiB granule of the host and fabric range, the node that its window targets, the route to
that node, and the incarnation that its requests carry. -/
structure RemoteEntry where
  granule : Nat
  node : Nat
  route : BitVec 18
  incarn : BitVec 16
  deriving DecidableEq, Repr

/-- A request that has gone out over the Floholt fabric (R418, R419): its port, the node and incarnation that it names, its address there, and
what it writes. -/
structure RemoteOut where
  port : Nat
  node : Nat
  incarn : BitVec 16
  pa : Nat
  content : List Byte
  deriving DecidableEq, Repr

/-- A die (R9), with the last request that it has sent over the fabric: the translation block of R279, TLBs, hotness table, stream programs, units and the remote translation cache. -/
structure Die where
  sptBase : W64
  walkCfg : W64
  hotDeliv : W64
  hotStarve : W64
  hotQBase : W64
  hotQHead : W64
  hotQTail : W64
  hotDrop : W64
  spaceGone : W64
  tlb : List TlbEntry
  hot : List HotEntry
  streams : Table Stream
  units : Table UnitCmd
  nextUnit : Nat
  remoteCache : List RemoteEntry
  sent : Option RemoteOut
  deriving DecidableEq, Repr

/-! ### Homes (R195 to R214) -/

/-- States of a half at a proxy tile (R210). -/
inductive Half where
  | invalid | shared | exclusive
  deriving DecidableEq, Repr

/-- A WB that a home expects from an earlier owner (R199): the words, and the bytes of them that later owners or writes have written
since, which the WB does not change (R201). -/
structure Revoking where
  core : Nat
  words : W32
  late : W128
  deriving DecidableEq, Repr

/-- The registration of a line at its home (R197, R199): owner of each word (0 to 15 cores, 16 the host), the write-backs of earlier
owners still to come, oldest first, and, for a host line, the two halves. `held` is a registration that has arrived and waits, behind which
the line's later registrations and reads wait (R199, R210); `dropping` the words of halves that the host is taking (R211, R212); `clearing`
says that every owner is revoked to free the line's entries (R191, R199). -/
structure HomeLine where
  owners : Table Nat
  revoking : List Revoking
  held : Option (Nat × W32)
  dropping : W32
  clearing : Bool
  half0 : Half
  half1 : Half
  waiting0 : Bool
  waiting1 : Bool
  deriving DecidableEq, Repr

/-- A read miss that the home is serving (R200): the words that the access needs, whether its FWDs are sent, and the words whose answers are
still expected. -/
structure HomeRead where
  req : Nat
  line : Nat
  requester : Nat
  need : W32
  started : Bool
  asked : Table W32
  deriving DecidableEq, Repr

/-! ### Launches (R25 to R58, R404 to R413) -/

/-- A region of a launch: its place and progress (R26, R27, R39, R50). `placed` says that it has a place now; `imagePa` is where its leaf
reads the image, of which `sent` packets have entered it (R34). `assigned` holds the engine nodes that its leaf has assigned to it, and
`nodes` those of them that the image has named, by their node index (R27, R136). `onDie` is the die that a gang's table
names for it (R407), `stray` says that tokens of it were discarded (R50), and `awaited` that its leaf has not yet reported DONE for it
(R413). -/
structure Region where
  die : Nat
  x0 : Nat
  y0 : Nat
  w : Nat
  h : Nat
  leaf : Nat
  handle : Nat
  image : W64
  args : W64
  assigned : List NodeRef
  nodes : Table NodeRef
  kinds : Table NodeKind
  sitesIn : Nat
  nodesIn : Nat
  installed : Bool
  dispatched : Bool
  retired : Bool
  producer : Option Nat
  placed : Bool
  imagePa : Nat
  sent : Nat
  onDie : Option Nat
  stray : Bool
  awaited : Bool
  deriving DecidableEq, Repr

/-- A region-table entry (R206): base, length and sync address. -/
structure RegionEntry where
  base : W64
  len : Nat
  sync : W64
  deriving DecidableEq, Repr

/-- A barrier group (R239 to R242). `shorts` lists the completed generations marked SHORT, newest first. -/
structure Group where
  gen : W32
  members : List TaskRef
  arrived : List TaskRef
  pending : List (TaskRef × Bool)
  short : Bool
  shorts : List W32
  completed : Nat
  deriving DecidableEq, Repr

/-- States of a launch (R33, R50 to R57, R411). -/
inductive LaunchState where
  | pending | installing | running | halting | saved | resuming | retiring | complete
  deriving DecidableEq, Repr

/-- The first error of a launch and how many it had (R408). -/
structure LaunchError where
  cause : Nat
  sub : Nat
  x : Nat
  y : Nat
  task : Nat
  count : Nat
  deriving DecidableEq, Repr

/-- What is saved of a pre-empted launch (R56, R280, R281): the engine nodes that its regions had, as (region, index, node); its sites as
(region, x, y, site); its engine nodes, each with its place in that list; the steps to come at their inputs; its side-log entries and job
cards, each with its core; its unresolved fault records, each with its region; its lost registrations; and its commands of fabric-interface
units. -/
structure SavedLaunch where
  nodes : List (Nat × Nat × NodeRef)
  sites : List (Nat × Nat × Nat × Site)
  slabs : List (Nat × Slab)
  accs : List (Nat × Acc)
  topks : List (Nat × TopK)
  chans : List (Nat × CopyChan)
  matches_ : List (Nat × Match)
  streams : List (Nat × Stream)
  inputs : List Instr
  log : List (Nat × LogEntry)
  cards : List (Nat × Card)
  faults : List (Nat × FaultInfo)
  lost : List RegOut
  units : List UnitCmd
  deriving DecidableEq, Repr

/-- A launch (R25, R46 to R58, R407, R411). `seq` is its packet's count in its queue; `started` is when it was last dispatched, `resumed`
when that was a resume; `since` is where the clock of its effective priority starts (R410), and `waits` when it last became pending. -/
structure Launch where
  state : LaunchState
  gang : Bool
  allowDeg : Bool
  prio : Nat
  space : Nat
  queue : Nat
  w : Nat
  h : Nat
  image : W64
  args : W64
  signal : W64
  errRec : W64
  parent : Nat
  seq : Nat
  childrenLive : Nat
  regions : List Region
  table : Table RegionEntry
  groups : Table Group
  gangGroups : Table Group
  error : Option LaunchError
  killed : Bool
  halted : Bool
  preempt : Bool
  preemptProducers : List (Agent × Nat)
  saved : Option SavedLaunch
  started : W64
  resumed : Option W64
  since : W64
  waits : W64
  footprint : W64
  deriving DecidableEq, Repr

/-! ### The global scheduler core and the package (R397 to R423) -/

/-- A window of the global block (R401). -/
structure Window where
  base : W64
  size : W64
  tgt : W64
  rbase : W64
  deriving DecidableEq, Repr

/-- A queue control block in the entry cache (R405). -/
structure QueueEntry where
  queue : Nat
  rbase : W64
  log2n : Nat
  prio : Nat
  space : Nat
  flags : W32
  sched : W128
  deriving DecidableEq, Repr

/-- The global block and the scheduler's own state (R401, R403 to R410). `stamps` holds, for each queue, when each of its packets not yet
taken was published. -/
structure Global where
  ctl : Controller
  active : Nat
  qtBase : W64
  qtSize : W64
  pollInt : W64
  events : W64
  timer : W64
  trapVec : W64
  nodeId : W64
  incarn : BitVec 16
  rtBase : W64
  windows : Vector Window 16
  monitored : List Nat
  hits : List Nat
  entries : List QueueEntry
  permits : Vector Nat 16
  tx : Vector (List W64) 16
  txFlight : Vector (List (List W64)) 16
  rx : List (Nat × List W64)
  lastServed : Vector Nat 8
  stamps : Table (List W64)
  nextLid : Nat
  floholtUp : BitVec 18
  cxlUp : BitVec 4
  deriving DecidableEq, Repr

/-! ### Debug, trace, bring-up and reliability (R429 to R456) -/

/-- Registers of a trained unit (R445): the step that the boot ROM has running, or 0, how often it has run it, and whether its results are in the
retained store. -/
structure TrainUnit where
  stat : W64
  cfg : W64
  step : Nat
  tries : Nat
  saved : Bool
  deriving DecidableEq, Repr

/-- Block 6 and the bring-up state (R441 to R456). `fwSlot` is the firmware slot, `retained` the check digest of the ROM's retained store,
`checking` says that both scheduler cores run the self-check (R451), and `shutdown` that every clock is stopped (R455). -/
structure Debug where
  ready : W64
  dbgEn : BitVec 8
  tokStat : W64
  deny : W64
  meas : Vector (BitVec 512) 8
  qStat : W64
  rasBase : W64
  rasHead : W64
  rasTail : W64
  rasDrop : W64
  clkStep : W64
  brkCtl : Vector W64 8
  brkLid : Vector W64 8
  brkStat : W64
  dbgSel : W64
  ringBase : W64
  ringHead : W64
  ringTail : W64
  trcSel : W64
  trcPost : W64
  trcStat : W64
  trcLeft : Nat
  trcRows : List (List (BitVec 16))
  trcFirst : W64
  trcTrigger : Nat
  train : Table TrainUnit
  rcvStat : W64
  fwSlot : List Byte
  retained : BitVec 512
  checking : Bool
  shutdown : Bool
  deriving DecidableEq, Repr

/-- One package. `clock` counts steps (it feeds the free values), `agenda` holds the steps and outside inputs to come, `cur` is the
agent whose instruction is executing, and `refusals` counts the parity refusals in a row of a sender's token (R126); `badLines` holds the
lines of HBM4E and LPDDR memory with an uncorrectable error, each with the bytes not rewritten since (R451); the rest is the manual's state. -/
structure State where
  clock : Nat
  agenda : List Instr
  cur : Agent
  time : W64
  mem : Memory
  badLines : Table W128
  homes : Table HomeLine
  regOrder : List Nat
  refusals : List (Sender × Nat)
  reads : List HomeRead
  nextReq : Nat
  sites : Table Site
  cores : Table Core
  dies : Table Die
  launches : Table Launch
  glob : Global
  dbg : Debug
  deriving DecidableEq, Repr

/-- Why the machine stops.
`reservedPhysical`: raised by a controller's access to a physical range that R187 marks reserved, which the manual says does not
exist and for which it names no trap. Safe: the model stops where the manual says nothing. -/
inductive Fault where
  | reservedPhysical (pa : Nat)
  deriving DecidableEq, Repr

/-- Why an instruction has no meaning.
`notModelled`: raised by an arm of `exec` that has no meaning. Safe: the model stops. -/
inductive Refusal where
  | notModelled (mnemonic : String)
  deriving DecidableEq, Repr

/-! ### Values at installation and at reset (R95, R120; log 5 for what the manual does not give) -/

/-- All registers zero, full and data; p0 all ones (R95, R119, R120). -/
def Regs.zero : Regs :=
  { s := Vector.replicate 64 { val := .data 0, full := true },
    v := Vector.replicate 32 { lanes := Vector.replicate 64 (.data 0), full := true },
    p := (Vector.replicate 8 { val := 0, full := true }).set 0 { val := BitVec.allOnes 64, full := true },
    q := Vector.replicate 8 { val := 0, full := true } }

/-- An instruction stream at installation, at a word index (R95, R103, R120, R151). -/
def Thread.start (pc : Nat) : Thread :=
  { regs := Regs.zero, pc := pc, stepOver := false, blockCount := 0, exitHist := 0, callStack := [],
    trap := { cause := 0, addr := 0, word := 0, count := 0 }, handler := false, rowProg := 0, producers := [], nextProducer := 0 }

/-- A task slot for which no SITECFG has come (R123). -/
def Task.absent : Task :=
  { thread := Thread.start 0, slot := .absent, start := 0, startReady := false, hv := false, handlerAt := 0, tags := [],
    ranges := [], nrange := 0, parts := [], extents := [], children := [], lastChan := 32, lastArrive := 0 }

/-- An empty input channel (R124). -/
def InChan.empty : InChan := { slots := [] }

/-- An output channel without a route, with NEXTSEQ 0 (R124, R178). -/
def OutChan.empty : OutChan :=
  { send := [], route := none, nextSeq := 0, fired := false, lastInput := 32, lastArrive := 0, lastFire := 0,
    lastTask := 0xFF, lastWord := 0xFFFF }

/-- An unconfigured, power-gated site (R120, R138). -/
def Site.gated : Site :=
  { owner := none, awake := false, installed := false, istore := [], localStore := [], tasks := [], lastIssued := 15,
    bindings := [], chans := Vector.replicate 32 InChan.empty, outs := Vector.replicate 16 OutChan.empty, node := none,
    mergeNext := none, mergeArrivals := [], diversions := [], blocked := [], granted := [], nodeMap := [] }

/-- A slab's configuration at installation: dense, no predicate, no top-k binding (R325). -/
def SlabCfg.dense : SlabCfg := { mode := 0, dcode := 0, pred := none, theta := 0, topk := none }

/-- An unassigned slab (R325). -/
def Slab.init : Slab :=
  { owner := none, cfg := SlabCfg.dense, accepted := SlabCfg.dense, queue := [], exec := none, rowProg := 0, halted := false, stopped := false,
    lastInput := 0, lastArrive := 0, lastFire := 0 }

/-- An unassigned accumulator node: every sum 0 with status NONE, nothing written (R290). -/
def Acc.init : Acc :=
  { owner := none, ends := 1, int := false, route := 0, sums := [], status := [], abandoned := [], written := 0, bands := none,
    rowBase := 0, rows := 0, chunks := 0, cols := 0, endCount := 0, endSeq := none, items := 0, bound := none, forced := [], releasing := false, out := [],
    lastInput := 0, lastArrive := 0, lastFire := 0 }

/-- The FP32 pattern of −∞, a top-k node's θ before k candidates are held (R306). -/
def negInf : W32 := 0xFF800000

/-- An unassigned top-k node (R306). -/
def TopK.init : TopK :=
  { owner := none, k := 1, ends := 1, route := 0, offsets := [0, 0, 0, 0], held := [], floor := negInf, endCount := 0, endSeq := none, slabs := [],
    away := [], out := [], lastInput := 0, lastArrive := 0, lastFire := 0 }

/-- An unassigned copy channel, IDLE (R339). -/
def CopyChan.init : CopyChan :=
  { owner := none, state := .idle, cur := none, head := none, record := none, run := 0, sector := 0, issued := 0, flight := [],
    stopReq := false, card := 0, began := false, offered := false, failing := none, page := none, halted := false, lastArrive := 0, lastFire := 0 }

/-- An unassigned match engine: TSNEXT 1 (R365), ROUND 0 (R378). -/
def Match.init : Match :=
  { owner := none, wmBase := 0, wmCap := 0, betaBase := 0, betaBytes := 0, scoreBase := 0, scoreEntries := 0, squeue := 0,
    nscorer := 0, scorers := [], parts := [], classes := [], net := [], nextId := 0, freed := [], elems := [], tsNext := 1, round := 0,
    roundExists := false, conflict := [], known := [], firings := [], firingRound := 0, deltas := [], betaDue := [], loading := none, rounds := [], passed := [],
    failed := [], waits := [], scores := [], heldAt := none, halted := false, lastArrive := 0, lastFire := 0 }

/-- A controller that does not run yet: the boot sequence fills its store and enters it (R397, R443). -/
def Controller.off : Controller :=
  { thread := Thread.start 0, istore := [], dataMem := [], running := false, idle := false }

/-- A leaf block at reset (R402). -/
def LeafBlock.reset : LeafBlock :=
  { levents := 0, retired := [], awaiting := [], trapVec := 0, regions := [], rx := [], tx := List.replicate 8 0, txFlight := [], permits := 8 }

/-- A core at reset (R311 RAMPCFG 0x10). -/
def Core.reset : Core :=
  { inService := true, l1 := [], readsOut := [], readsStale := [], regsOut := [], wbOut := [], sideLog := [], nextLog := 0, fltBase := 0, fltHead := 0,
    fltTail := 0, faults := [], faultQueue := [], watch := [], slabs := Vector.replicate 4 Slab.init,
    accs := Vector.replicate 16 Acc.init, topks := Vector.replicate 16 TopK.init, chans := Vector.replicate 2 CopyChan.init,
    match_ := Match.init, cards := [], nextCard := 0, rampCfg := 0x10, rampStat := 0, rampEmpty := 0, rampDummy := 0, rampCount := 0,
    leaf := Controller.off, block := LeafBlock.reset }

/-- A die at reset (R279). -/
def Die.reset : Die :=
  { sptBase := 0, walkCfg := 0x10, hotDeliv := 0x10000, hotStarve := 0x40000, hotQBase := 0, hotQHead := 0, hotQTail := 0,
    hotDrop := 0, spaceGone := 0, tlb := [], hot := [], streams := [], units := [], nextUnit := 0, remoteCache := [], sent := none }

/-- A line that no one owns (R197); halves of a host line are Invalid (log 5). -/
def HomeLine.unregistered : HomeLine :=
  { owners := [], revoking := [], held := none, dropping := 0, clearing := false, half0 := .invalid, half1 := .invalid, waiting0 := false, waiting1 := false }

/-- A launch number that names no launch. -/
def Launch.none : Launch :=
  { state := .complete, gang := false, allowDeg := false, prio := 0, space := 0, queue := 0, w := 0, h := 0, image := 0, args := 0,
    signal := 0, errRec := 0, parent := 0, seq := 0, childrenLive := 0, regions := [], table := [], groups := [],
    gangGroups := [], error := Option.none, killed := false, halted := false, preempt := false, preemptProducers := [],
    saved := Option.none, started := 0, resumed := Option.none, since := 0, waits := 0, footprint := 0 }

/-- The global block at reset (R401: POLLINT 0x10, eight permits for each leaf); ports are down until trained (R443). -/
def Global.reset : Global :=
  { ctl := Controller.off, active := 0, qtBase := 0, qtSize := 0, pollInt := 0x10, events := 0, timer := 0, trapVec := 0, nodeId := 0,
    incarn := Config.incarnation 0 0, rtBase := 0, windows := Vector.replicate 16 { base := 0, size := 0, tgt := 0, rbase := 0 },
    monitored := [], hits := [], entries := [], permits := Vector.replicate 16 8, tx := Vector.replicate 16 (List.replicate 8 0),
    txFlight := Vector.replicate 16 [], rx := [], lastServed := Vector.replicate 8 0, stamps := [], nextLid := 1, floholtUp := 0, cxlUp := 0 }

/-- The features that the fuses leave in force (R441): all of them in states OPEN and RETIRED, DBGFUSE in the others. -/
def fusedFeatures : BitVec 8 := if Config.lifecycle = 1 ∨ Config.lifecycle = 2 then Config.dbgFuse &&& 0x7F else 0x7F

/-- Block 6 at reset (R441, R448, R456). -/
def Debug.reset : Debug :=
  { ready := 0, dbgEn := fusedFeatures, tokStat := 0, deny := 0, meas := Vector.replicate 8 0, qStat := 0, rasBase := 0,
    rasHead := 0, rasTail := 0, rasDrop := 0, clkStep := 0, brkCtl := Vector.replicate 8 0, brkLid := Vector.replicate 8 0, brkStat := 0,
    dbgSel := 0, ringBase := 0, ringHead := 0, ringTail := 0, trcSel := 0, trcPost := 0, trcStat := 0, trcLeft := 0, trcRows := [],
    trcFirst := 0, trcTrigger := 0, train := [], rcvStat := 0, fwSlot := [], retained := 0, checking := false, shutdown := false }

/-- The machine right after power-on: nothing installed, no controller entered, and the cold start (R443) the one step to come. -/
def State.reset : State :=
  { clock := 0, agenda := [.coldStart], cur := .global, time := 0, mem := [], badLines := [], homes := [], regOrder := [], refusals := [], reads := [], nextReq := 0,
    sites := [], cores := [], dies := [], launches := [], glob := Global.reset, dbg := Debug.reset }

end Sys2Proof.Machine
end

