-- ==== Sys2Proof/Machine/Ops.lean ====
section
/-! DEFINITION. The named operations over memory, registers and the agenda, and taking a trap: what every meaning is written with. -/

namespace Sys2Proof.Machine

/-! ### Sparse tables -/

/-- The entry of a key, if it is listed. -/
def Tab.find? {α : Type} : Table α → Nat → Option α
  | [], _ => none
  | (k, v) :: r, i => if i = k then some v else if i < k then none else Tab.find? r i

/-- The entry of a key, or the default. -/
def Tab.get {α : Type} (d : α) (t : Table α) (i : Nat) : α := (Tab.find? t i).getD d

/-- The table with the entry of a key set. -/
def Tab.put {α : Type} : Table α → Nat → α → Table α
  | [], i, x => [(i, x)]
  | (k, v) :: r, i, x => if i = k then (i, x) :: r else if i < k then (i, x) :: (k, v) :: r else (k, v) :: Tab.put r i x

/-- The table without a key. -/
def Tab.del {α : Type} : Table α → Nat → Table α
  | [], _ => []
  | (k, v) :: r, i => if i = k then r else if i < k then (k, v) :: r else (k, v) :: Tab.del r i

/-! ### Bytes of memory (R1, R187; log 4) -/

/-- Reading one byte: an address that is not listed reads as zero (log 4). -/
def readByte (m : Memory) (a : Nat) : Byte := Tab.get 0 m a

/-- Writing one byte, keeping the canonical form: a zero byte is not listed. -/
def writeByte (m : Memory) (a : Nat) (b : Byte) : Memory := if b = 0 then Tab.del m a else Tab.put m a b

/-- The canonical form: addresses strictly rising, no byte listed that is zero. -/
def Memory.wf : Memory → Bool
  | [] => true
  | [(_, b)] => b != 0
  | (a, b) :: (a', b') :: r => b != 0 && decide (a < a') && Memory.wf ((a', b') :: r)

/-- `n` bytes from an address upwards. -/
def readBytes (m : Memory) : Nat → Nat → List Byte
  | _, 0 => []
  | a, n + 1 => readByte m a :: readBytes m (a + 1) n

/-- A list of bytes written from an address upwards. -/
def writeBytes (m : Memory) : Nat → List Byte → Memory
  | _, [] => m
  | a, b :: r => writeBytes (writeByte m a b) (a + 1) r

/-- The little-endian number of a list of bytes (R1). -/
def leNat : List Byte → Nat
  | [] => 0
  | b :: r => b.toNat + 256 * leNat r

/-- The `n` little-endian bytes of a number (R1). -/
def leBytes : Nat → Nat → List Byte
  | 0, _ => []
  | n + 1, x => BitVec.ofNat 8 x :: leBytes n (x / 256)

/-! ### The physical address space (R187, R188) -/

/-- What a physical address names (R187). -/
inductive PhysKind where
  | hbm (die : Nat)
  | lpddr (die : Nat)
  | bank (die idx : Nat)
  | far
  | reserved
  deriving DecidableEq, Repr

/-- The range of an address (R187); `far` is the host and fabric range. A memory unit that failed its training is reserved (R445),
which `physReady` decides. -/
def physKind (pa : Nat) : PhysKind :=
  if pa < 0xC000000000 then .hbm (pa / 0x3000000000)
  else if pa < 0x20000000000 then .reserved
  else if pa < 0x40000000000 then .lpddr ((pa - 0x20000000000) / 0x8000000000)
  else if pa < 0x80000000000 then .reserved
  else if pa < 0x80008000000 then .bank ((pa - 0x80000000000) / 0x2000000) (pa / 128 % 256)
  else if pa < 0x1000000000000 then .reserved
  else if pa < 0x10000000000000 then .far
  else .reserved

/-- The home tile of an HBM4E or LPDDR address within its die (R188). -/
def homeTile (pa : Nat) : Nat := (pa / 128 % 16) ^^^ (pa / 2048 % 16) ^^^ (pa / 32768 % 16)

/-- The die of a home (R188), for HBM4E, LPDDR and bank memory. -/
def homeDie (pa : Nat) : Nat :=
  match physKind pa with
  | .hbm d => d
  | .lpddr d => d
  | .bank d _ => d
  | _ => 0

/-- A window of the global block serves an address: the lowest that covers it (R187, R401). -/
def Window.covers (w : Window) (pa : Nat) : Bool :=
  let base := w.base.toNat / 2 ^ 30 * 2 ^ 30
  bit w.tgt 0 && decide (field w.size 0 22 ≠ 0) && decide (base ≤ pa) && decide (pa < base + field w.size 0 22 * 2 ^ 30)

/-- The home of a line as a number, so that messages between one L1 and one home keep their order (R198): its die and tile, or the proxy of
the window that serves it (R188, R210; log 71). -/
def homeNo (s : State) (line : Nat) : Nat :=
  match physKind (128 * line) with
  | .far => 64 + s.glob.windows.toList.findIdx (Window.covers · (128 * line))
  | _ => homeDie (128 * line) * 16 + homeTile (128 * line)

/-! ### Parts of the state -/

/-- A core of the package (R8, R12). -/
def coreOf (s : State) (c : Nat) : Core := Tab.get Core.reset s.cores c
/-- The state with a core replaced. -/
def setCore (s : State) (c : Nat) (x : Core) : State := { s with cores := Tab.put s.cores c x }
/-- The key of a site in the table of sites. -/
def siteKeyNat (k : SiteKey) : Nat := k.core * 64 + k.site
/-- A site (R13). -/
def siteOf (s : State) (k : SiteKey) : Site := Tab.get Site.gated s.sites (siteKeyNat k)
/-- The state with a site replaced. -/
def setSite (s : State) (k : SiteKey) (x : Site) : State := { s with sites := Tab.put s.sites (siteKeyNat k) x }
/-- A die (R9). -/
def dieOf (s : State) (d : Nat) : Die := Tab.get Die.reset s.dies d
/-- The state with a die replaced. -/
def setDie (s : State) (d : Nat) (x : Die) : State := { s with dies := Tab.put s.dies d x }
/-- A launch by its identifier. -/
def launchOf (s : State) (l : Nat) : Launch := Tab.get Launch.none s.launches l
/-- The state with a launch replaced. -/
def setLaunch (s : State) (l : Nat) (x : Launch) : State := { s with launches := Tab.put s.launches l x }
/-- The site of a task. -/
def TaskKey.siteKey (k : TaskKey) : SiteKey := { core := k.core, site := k.site }
/-- A task (R25). -/
def taskOf (s : State) (k : TaskKey) : Task := Tab.get Task.absent (siteOf s (TaskKey.siteKey k)).tasks k.slot
/-- The site with a task replaced. -/
def Site.setTask (x : Site) (slot : Nat) (t : Task) : Site := { x with tasks := Tab.put x.tasks slot t }
/-- The state with a task replaced. -/
def setTask (s : State) (k : TaskKey) (t : Task) : State :=
  setSite s (TaskKey.siteKey k) (Site.setTask (siteOf s (TaskKey.siteKey k)) k.slot t)

/-- The instruction stream of an agent. -/
def threadOf (s : State) : Agent → Thread
  | .task k => (taskOf s k).thread
  | .leaf c => (coreOf s c).leaf.thread
  | .global => s.glob.ctl.thread

/-- The state with an agent's instruction stream replaced. -/
def setThread (s : State) (a : Agent) (t : Thread) : State :=
  match a with
  | .task k => setTask s k { taskOf s k with thread := t }
  | .leaf c => setCore s c { coreOf s c with leaf := { (coreOf s c).leaf with thread := t } }
  | .global => { s with glob := { s.glob with ctl := { s.glob.ctl with thread := t } } }

/-- The executing agent's instruction stream. -/
def thread (s : State) : Thread := threadOf s s.cur
/-- The state with the executing agent's instruction stream replaced. -/
def withThread (s : State) (t : Thread) : State := setThread s s.cur t

/-- The words of an agent's instruction store: 1,024 of a site, 16,384 of a controller (R89, R397). -/
def storeWords : Agent → Nat
  | .task _ => 1024
  | _ => 16384

/-- The word at an index of an agent's instruction store; words that nothing filled hold zero (R120). -/
def wordAt (s : State) (a : Agent) (i : Nat) : W128 :=
  match a with
  | .task k => Tab.get 0 (siteOf s (TaskKey.siteKey k)).istore i
  | .leaf c => Tab.get 0 (coreOf s c).leaf.istore i
  | .global => Tab.get 0 s.glob.ctl.istore i

/-- A step appended to the agenda. -/
def push (s : State) (e : Instr) : State := { s with agenda := s.agenda ++ [e] }
/-- Steps appended to the agenda, in order. -/
def pushAll (s : State) (es : List Instr) : State := { s with agenda := s.agenda ++ es }
/-- A step appended to the agenda unless it stands there already. -/
def pushOnce (s : State) (e : Instr) : State := if s.agenda.contains e then s else push s e

/-- A step that must wait stays the next of its link (R18, R198). -/
def defer (s : State) (e : Instr) : State := { s with agenda := e :: s.agenda }

/-- The task slots of a site that hold a task, in slot order. -/
def Site.slots (x : Site) : List Nat := x.tasks.map (·.1)

/-! ### Launches and places (R26, R29) -/

/-- A region of a launch. -/
def regionOf (s : State) (l r : Nat) : Option Region := (launchOf s l).regions[r]?

/-- The launch with one region replaced. -/
def Launch.setRegion (x : Launch) (r : Nat) (g : Region) : Launch := { x with regions := x.regions.set r g }

/-- The state with one region of a launch replaced. -/
def setRegion (s : State) (l r : Nat) (g : Region) : State := setLaunch s l (Launch.setRegion (launchOf s l) r g)

/-- The physical site at logical (x, y) of a region: its place is in die-grid coordinates (R26, R402). -/
def siteAt (g : Region) (x y : Nat) : SiteKey :=
  let gx := g.x0 + x
  let gy := g.y0 + y
  { core := 4 * g.die + gx / 8 % 2 + 2 * (gy / 8 % 2), site := gy % 8 * 8 + gx % 8 }

/-- The logical coordinates of a region's sites, x before y, row by row. -/
def Region.places (g : Region) : List (Nat × Nat) :=
  (List.range g.h).flatMap fun y => (List.range g.w).map fun x => (x, y)

/-- The cores that a region covers (R26). -/
def Region.cores (g : Region) : List Nat :=
  (List.range 16).filter fun c => (Region.places g).any fun (x, y) => (siteAt g x y).core == c

/-- The logical name of a task of the machine, if its site belongs to a launch. -/
def refOf (s : State) (k : TaskKey) : Option TaskRef :=
  (siteOf s (TaskKey.siteKey k)).owner.map fun o => { launch := o.launch, region := o.region, x := o.x, y := o.y, slot := k.slot }

/-- The logical name of a task; a task of no launch has launch 0, which names none. -/
def refOr (s : State) (k : TaskKey) : TaskRef :=
  (refOf s k).getD { launch := 0, region := 0, x := 0, y := 0, slot := k.slot }

/-- Where a logically named task is now, while its launch is placed. -/
def placeOf (s : State) (r : TaskRef) : Option TaskKey :=
  match regionOf s r.launch r.region with
  | some g =>
    let k := siteAt g r.x r.y
    if g.placed then some { core := k.core, site := k.site, slot := r.slot } else none
  | none => none

/-- The launch of a task, or 0 for none. -/
def launchOfTask (s : State) (k : TaskKey) : Nat := (refOr s k).launch

/-- Whether what a launch's engine nodes have in progress may go on: placed, and neither saved nor halted (R55, R435). -/
def launchOpen (s : State) (l : Nat) : Bool := (launchOf s l).state == .running && !(launchOf s l).halted

/-- Whether a launch's engine nodes run: open, and not being pre-empted (R54, R435). Those of a killed launch run on until they are empty
(R50, R52). -/
def unitsGo (s : State) (l : Nat) : Bool := launchOpen s l && !(launchOf s l).preempt

/-- Whether a launch's tasks run: its engine nodes run, and it is not killed (R52, R54, R435). -/
def launchRuns (s : State) (l : Nat) : Bool := unitsGo s l && !(launchOf s l).killed

/-! ### Events of the controllers, and waking (R32, R401, R402) -/

/-- Whether a launch is resident: a region of it is placed. -/
def resident (a : Launch) : Bool := a.regions.any (·.placed)

/-- Sets bits of EVENTS and wakes an IDLE of the global core (R401, R416). -/
def setEvents (s : State) (mask : W64) : State :=
  { s with glob := { s.glob with events := s.glob.events ||| mask, ctl := { s.glob.ctl with idle := false } } }

/-- Sets bits of a leaf's LEVENTS and wakes an IDLE there (R402, R416). -/
def setLeafEvents (s : State) (c : Nat) (mask : W64) : State :=
  let x := coreOf s c
  setCore s c { x with block := { x.block with levents := x.block.levents ||| mask }, leaf := { x.leaf with idle := false } }

/-- A waiting task whose wake condition is one of those given becomes ready (R32). -/
def Task.wake (p : WaitOn → Bool) (t : Task) : Task :=
  match t.slot with
  | .waiting w => if p w then { t with slot := .ready } else t
  | _ => t

/-- Wakes the tasks of a site whose wait satisfies a condition of slot and wait. -/
def Site.wake (p : Nat → WaitOn → Bool) (x : Site) : Site :=
  { x with tasks := x.tasks.map fun (k, t) => (k, Task.wake (p k) t) }

/-- Wakes the tasks of one site. -/
def wakeSite (s : State) (k : SiteKey) (p : Nat → WaitOn → Bool) : State := setSite s k (Site.wake p (siteOf s k))

/-- Wakes every waiting WAITA that holds an entry for a line (R237). -/
def wakeWaita (s : State) (line : Nat) : State :=
  { s with sites := s.sites.map fun (k, x) => (k, Site.wake (fun _ w => w == .waita line true) x) }

/-- The line of a queue's control block (R404). -/
def qcbAddr (s : State) (q : Nat) : Nat := s.glob.qtBase.toNat + 64 * q

/-- The queue numbers whose blocks lie in a line (R406). -/
def queuesOfLine (s : State) (line : Nat) : List Nat :=
  ([128 * line, 128 * line + 64].filter fun a => s.glob.qtBase.toNat ≤ a).map (fun a => (a - s.glob.qtBase.toNat) / 64)
    |>.filter fun q => q < s.glob.qtSize.toNat && qcbAddr s q / 128 == line

/-! ### Lines of an L1 and their homes (R189, R197 to R200) -/

/-- A line of which nothing is held. -/
def L1Line.empty : L1Line := { owned := 0, clean := 0, dirty := 0, valid := 0, content := 0, prio := 0, used := 0, lids := [] }

/-- A core's line (R189). -/
def l1Line (x : Core) (line : Nat) : L1Line := Tab.get L1Line.empty x.l1 line

/-- The bytes of the words in a mask. -/
def wordsToBytes (m : W32) : W128 :=
  (List.range 32).foldl (fun acc w => if bit m w then acc ||| ((0xF : W128) <<< (4 * w)) else acc) 0

/-- The bits of the bytes in a mask. -/
def bytesToBits (m : W128) : LineData :=
  (List.range 128).foldl (fun acc i => if bit m i then acc ||| ((0xFF : LineData) <<< (8 * i)) else acc) 0

/-- The words of a line that the bytes from `off`, `n` of them, touch. -/
def wordsOf (off n : Nat) : W32 :=
  (List.range 32).foldl (fun acc w => if decide (4 * w < off + n) && decide (off < 4 * w + 4) && decide (0 < n)
    then acc ||| ((1 : W32) <<< w) else acc) 0

/-- One line's bytes over another's, for the bytes of a mask. -/
def mergeLine (old new : LineData) (m : W128) : LineData :=
  let b := bytesToBits m
  (old &&& ~~~b) ||| (new &&& b)

/-- Byte `i` of a line. -/
def lineByte (c : LineData) (i : Nat) : Byte := bits c (8 * i) 8

/-- A line with byte `i` set. -/
def setLineByte (c : LineData) (i : Nat) (b : Byte) : LineData :=
  (c &&& ~~~((0xFF : LineData) <<< (8 * i))) ||| ((b.setWidth 1024 : LineData) <<< (8 * i))

/-- The bytes of a line in memory. -/
def readLine (m : Memory) (line : Nat) : LineData := BitVec.ofNat 1024 (leNat (readBytes m (128 * line) 128))

/-- Bytes of a line, chosen by a mask, written to memory. -/
def writeLine (m : Memory) (line : Nat) (c : LineData) (mask : W128) : Memory :=
  (List.range 128).foldl (fun m i => if bit mask i then writeByte m (128 * line + i) (lineByte c i) else m) m

/-- Bytes of a line rewritten: what is left of an error that stands in it, and nothing once every byte is rewritten (R451). -/
def struck (bad : Table W128) (line : Nat) (m : W128) : Table W128 :=
  match Tab.find? bad line with
  | none => bad
  | some b => if b &&& ~~~m = 0 then Tab.del bad line else Tab.put bad line (b &&& ~~~m)

/-- Bytes of a line, chosen by a mask, merged at its home (R199, R200). -/
def mergeHome (s : State) (line : Nat) (c : LineData) (m : W128) : State :=
  { s with mem := writeLine s.mem line c m, badLines := struck s.badLines line m }

/-- The bytes of an L1 line that can be read: of owned words the dirty and the valid ones, and clean copies (R189). -/
def L1Line.readable (l : L1Line) : W128 :=
  (wordsToBytes l.owned &&& (l.dirty ||| l.valid)) ||| wordsToBytes l.clean

/-- The registration of a line (R197). -/
def homeLine (s : State) (line : Nat) : HomeLine := Tab.get HomeLine.unregistered s.homes line

/-- The state with a line's registration replaced; an unregistered line has no entry (R197, R199). -/
def setHomeLine (s : State) (line : Nat) (h : HomeLine) : State :=
  if h = HomeLine.unregistered then
    { s with homes := Tab.del s.homes line, regOrder := s.regOrder.filter (· != line) }
  else
    { s with homes := Tab.put s.homes line h,
             regOrder := if s.regOrder.contains line then s.regOrder else s.regOrder ++ [line] }

/-- The owner of the word that holds a byte (R195). -/
def ownerAt (s : State) (pa : Nat) : Option Nat := Tab.find? (homeLine s (pa / 128)).owners (pa % 128 / 4)

/-- A byte as its home would serve it: the owner's dirty byte, or the tile's (R200). -/
def homeByte (s : State) (pa : Nat) : Byte :=
  match ownerAt s pa with
  | some c =>
    let l := l1Line (coreOf s c) (pa / 128)
    if bit l.owned (pa % 128 / 4) && bit l.dirty (pa % 128) then lineByte l.content (pa % 128) else readByte s.mem pa
  | none => readByte s.mem pa

/-- `n` bytes as their homes would serve them. -/
def homeRead (s : State) (pa n : Nat) : List Byte := (List.range n).map fun i => homeByte s (pa + i)

/-- Whether a core's write-back of a word is on its way to the home (R198). -/
def wbComing (s : State) (c line w : Nat) : Bool :=
  s.agenda.any fun e => match e with | .wb d l _ _ m => d == c && l == line && bit m w | _ => false

/-- Whether the home must wait before it can serve a byte: its word is being revoked or taken by the host, its owner's write-back is under way
(R199, R200, R211), or the host holds it (R212). -/
def homeBusyAt (s : State) (pa : Nat) : Bool :=
  let h := homeLine s (pa / 128)
  let w := pa % 128 / 4
  h.revoking.any (fun r => bit r.words w) || bit h.dropping w ||
    (match Tab.find? h.owners w with
     | some c => c ≥ 16 || !bit (l1Line (coreOf s c) (pa / 128)).owned w || wbComing s c (pa / 128) w
     | none => false)

/-- Whether any of `n` bytes must wait at its home. -/
def homeBusy (s : State) (pa n : Nat) : Bool := (List.range n).any fun i => homeBusyAt s (pa + i)

/-- What an L1 keeps of a line whose words in a mask it has written back (R198): clean copies where all four bytes are valid. -/
def L1Line.giveUp (l : L1Line) (mask : W32) : L1Line :=
  let mine := l.owned &&& mask
  let whole := (List.range 32).foldl (fun acc w =>
    if bit mine w && field (l.dirty ||| l.valid) (4 * w) 4 == 15 then acc ||| ((1 : W32) <<< w) else acc) (0 : W32)
  { l with owned := l.owned &&& ~~~mine, clean := (l.clean &&& ~~~mine) ||| whole, dirty := l.dirty &&& ~~~wordsToBytes mine,
           valid := l.valid &&& ~~~wordsToBytes mine, lids := l.lids.filter fun (w, _) => !bit mine w }

/-- A line of a core's L1 replaced; a line of which nothing is held is dropped. -/
def Core.setLine (x : Core) (line : Nat) (l : L1Line) : Core :=
  { x with l1 := if l.owned = 0 ∧ l.clean = 0 then Tab.del x.l1 line else Tab.put x.l1 line l }

/-- Unanswered reads of the lines chosen, which something has overtaken: their DATA fills nothing (log 24). -/
def Core.overtake (x : Core) (p : Nat → Bool) : Core :=
  { x with readsStale := x.readsStale ++ (x.readsOut.map (·.1)).filter fun l => p l && !x.readsStale.contains l }

/-- Bytes written at a line's home, which the write-backs still to come from earlier owners do not change (R201). -/
def HomeLine.cover (h : HomeLine) (bytes : W128) : HomeLine :=
  { h with revoking := h.revoking.map fun r => { r with late := r.late ||| (bytes &&& wordsToBytes r.words) } }

/-- The host's words of a line (R212). -/
def hostWords (h : HomeLine) : W32 :=
  h.owners.foldl (fun m (w, o) => if o = 16 then m ||| ((1 : W32) <<< w) else m) 0

/-- A line whose owners have been revoked to free its entries, once every write-back and the host's answer have come (R199). -/
def HomeLine.cleared (h : HomeLine) : HomeLine :=
  if h.revoking.isEmpty && hostWords h == 0 then { h with clearing := false } else h

/-- The home takes back one word from its owner within one step, for a write of the hardware itself: the owner's dirty bytes are merged, which
no earlier owner's write-back changes, and it gives the word up (R199 REVOKE and WB in one, R201; log 16). An owner whose write-back is on
its way already is expected to send it. -/
def revokeWord (s : State) (line w : Nat) : State :=
  let h := homeLine s line
  match Tab.find? h.owners w with
  | none => s
  | some c =>
    let l := l1Line (coreOf s c) line
    let m : W32 := (1 : W32) <<< w
    let free := { h with owners := Tab.del h.owners w }
    if 16 ≤ c then setHomeLine s line (HomeLine.cleared free)
    else if bit l.owned w && !wbComing s c line w then
      let b := l.dirty &&& wordsToBytes m
      let s := mergeHome s line l.content b
      let s := setCore s c (Core.overtake (Core.setLine (coreOf s c) line (L1Line.giveUp l m)) (· == line))
      setHomeLine s line (HomeLine.cover free b)
    else setHomeLine s line { free with revoking := h.revoking ++ [{ core := c, words := m, late := 0 }] }

/-- The home takes back the words of a mask (log 16). -/
def revokeWords (s : State) (line : Nat) (mask : W32) : State :=
  (List.range 32).foldl (fun s w => if bit mask w then revokeWord s line w else s) s

/-- The cores that own words of a line, but one, each with its words. -/
def ownersOf (h : HomeLine) (but : Nat) : List (Nat × W32) :=
  ((List.range 16).filter (· != but)).filterMap fun c =>
    let m := h.owners.foldl (fun m (w, o) => if o = c then m ||| ((1 : W32) <<< w) else m) (0 : W32)
    if m = 0 then none else some (c, m)

/-- The home sends REVOKE to the cores that own words of a mask: the words have no owner any more, and are revoking until the write-backs
arrive (R199). -/
def sendRevokes (s : State) (line : Nat) (mask : W32) : State :=
  let h := homeLine s line
  let rs := (ownersOf h 16).filterMap fun (c, m) => if m &&& mask = 0 then none else some (c, m &&& mask)
  if rs.isEmpty then s
  else
    let h := { h with owners := h.owners.filter (fun (w, o) => !(decide (o < 16) && bit mask w)),
                      revoking := h.revoking ++ rs.map fun (c, m) => { core := c, words := m, late := 0 } }
    pushAll (setHomeLine s line h) (rs.map fun (c, m) => .revoke c line m)

/-- The lines that `n` bytes touch. -/
def linesOf (pa n : Nat) : List Nat := if n = 0 then [] else (List.range ((pa + n - 1) / 128 - pa / 128 + 1)).map (pa / 128 + ·)

/-- The words of a line that `n` bytes from `pa` touch. -/
def wordsIn (line pa n : Nat) : W32 :=
  let lo := max pa (128 * line)
  let hi := min (pa + n) (128 * line + 128)
  wordsOf (lo - 128 * line) (hi - lo)

/-- The bytes of a line that `n` bytes from `pa` touch. -/
def bytesIn (line pa n : Nat) : W128 :=
  (List.range 128).foldl (fun m i => if decide (pa ≤ 128 * line + i) && decide (128 * line + i < pa + n)
    then m ||| ((1 : W128) <<< i) else m) 0

/-! ### Writes to the queue table (R237, R405, R406, R410) -/

/-- A 64-bit count of a queue's control block, at its home. -/
def qcbCount (s : State) (q off : Nat) : Nat := leNat (homeRead s (qcbAddr s q + off) 8)

/-- The publishing times of a queue's packets that the device has not taken, after a write to its control block: one for each, from HEAD
to TAIL (R404, R410). -/
def stampQueue (s : State) (q : Nat) : State :=
  let n := (qcbCount s q 24 + 2 ^ 64 - qcbCount s q 16) % 2 ^ 64 % 65537
  let old := Tab.get [] s.glob.stamps q
  let new := (old ++ List.replicate (n - old.length) s.time).take n
  { s with glob := { s.glob with stamps := if new.isEmpty then Tab.del s.glob.stamps q else Tab.put s.glob.stamps q new } }

/-- An entry of the entry cache with the fields that its control block holds now (R405). -/
def refreshEntry (s : State) (e : QueueEntry) : QueueEntry :=
  let a := qcbAddr s e.queue
  { e with rbase := BitVec.ofNat 64 (leNat (homeRead s a 8)), log2n := leNat (homeRead s (a + 8) 1), prio := leNat (homeRead s (a + 9) 1),
           space := leNat (homeRead s (a + 10) 2), flags := BitVec.ofNat 32 (leNat (homeRead s (a + 12) 4)) }

/-- A write to a line as its home sees it: waiting WAITAs wake; the packets that it publishes get their time; and where the monitor watches
the line, its two queues are reported and their cached fields are read again (R237, R405, R406). -/
def lineTouched (s : State) (line : Nat) : State :=
  let s := wakeWaita s line
  let qs := queuesOfLine s line
  let s := qs.foldl stampQueue s
  if s.glob.monitored.contains line then
    let new := qs.filter fun q => !s.glob.hits.contains q
    let entries := s.glob.entries.map fun e => if qs.contains e.queue then refreshEntry s e else e
    setEvents { s with glob := { s.glob with hits := s.glob.hits ++ new, entries := entries } } 1
  else s

/-- Bytes written at their home, whose words no core owns: the write-backs to come do not change them, and waiters see the write (R201,
R237). -/
def homeStore (s : State) (pa : Nat) (bs : List Byte) : State :=
  let ls := linesOf pa bs.length
  let s := ls.foldl (fun s l =>
    if (homeLine s l).revoking.isEmpty then s else setHomeLine s l (HomeLine.cover (homeLine s l) (bytesIn l pa bs.length))) s
  let t : State := { s with mem := writeBytes s.mem pa bs, badLines := ls.foldl (fun t l => struck t l (bytesIn l pa bs.length)) s.badLines }
  ls.foldl lineTouched t

/-- A write performed at its home in one step: owners of the words are revoked, and the bytes are written (R199, R227; log 16). -/
def homeWrite (s : State) (pa : Nat) (bs : List Byte) : State :=
  homeStore ((linesOf pa bs.length).foldl (fun s l => revokeWords s l (wordsIn l pa bs.length)) s) pa bs

/-! ### Records: RAS and breakpoints (R435, R452) -/

/-- A RAS record in the ring at RASBASE; a full ring drops it and counts (R452). -/
def rasRecord (s : State) (kind sev die core : Nat) (cnode : W32) (launch : Nat) (addr : W64) : State :=
  let d := s.dbg
  let head := field d.rasHead 0 13
  let tail := field d.rasTail 0 13
  if (tail + 8192 - head) % 8192 = 4096 then
    { s with dbg := { d with rasDrop := if d.rasDrop = BitVec.allOnes 64 then d.rasDrop else d.rasDrop + 1 } }
  else
    let bytes := [BitVec.ofNat 8 kind, BitVec.ofNat 8 sev, BitVec.ofNat 8 die, BitVec.ofNat 8 core] ++ leBytes 4 cnode.toNat ++
      leBytes 8 launch ++ leBytes 8 addr.toNat ++ leBytes 8 s.time.toNat
    homeWrite { s with dbg := { d with rasTail := BitVec.ofNat 64 ((tail + 1) % 8192) } }
      (d.rasBase.toNat + 32 * (tail % 4096)) bytes

/-- CNODE of an element without a node-map entry (R430). -/
def noCnode : W32 := 0xFFFFF

/-- CNODE of a site: its own node-map entry (R429, R430). -/
def siteCnode (x : Site) : W32 :=
  match x.nodeMap.find? fun e => !bit (e.headD 0) 31 with
  | some e => bits (e.headD 0) 0 20 |>.setWidth 32
  | none => noCnode

/-- CNODE of engine node `idx` of the region, from the entries of the site that forwards its NODECFG (R136, R430). -/
def nodeCnode (x : Site) (idx : Nat) : W32 :=
  match x.nodeMap.find? fun e => bit (e.headD 0) 31 && field (e.headD 0) 24 4 == idx with
  | some e => bits (e.headD 0) 0 20 |>.setWidth 32
  | none => noCnode

/-- CNODE of an engine node by its owner. -/
def ownerCnode (s : State) (o : Option (Owner × Nat)) : W32 :=
  match o with
  | none => noCnode
  | some (w, idx) =>
    match regionOf s w.launch w.region with
    | some g => nodeCnode (siteOf s (siteAt g w.x w.y)) idx
    | none => noCnode

/-- The trigger of the issue trace: recording goes on for TRCPOST cycles (R438). -/
def traceTrigger (s : State) : State :=
  if bit s.dbg.trcStat 0 && !bit s.dbg.trcStat 1 then
    pushOnce { s with dbg := { s.dbg with trcStat := s.dbg.trcStat ||| 2, trcLeft := field s.dbg.trcPost 0 17,
                                          trcTrigger := s.dbg.trcRows.length } } .traceStop
  else s

/-- Whether breakpoint `b` matches an event at a node of a launch, with its argument where the event takes one (R435, R456). -/
def breakMatches (s : State) (b event : Nat) (cnode : W32) (launch : Nat) (arg : Option Nat) : Bool :=
  let c := (s.dbg.brkCtl.toList)[b]?.getD 0
  let l := (s.dbg.brkLid.toList)[b]?.getD 0
  bit c 0 && field c 8 4 == event && field c 12 20 == cnode.toNat && (l == 0 || field l 0 32 == launch) &&
    (match arg with | some a => field c 32 32 == a | none => true)

/-- The breakpoints that match. -/
def breaksAt (s : State) (event : Nat) (cnode : W32) (launch : Nat) (arg : Option Nat) : List Nat :=
  (List.range 8).filter fun b => breakMatches s b event cnode launch arg

/-- Records the matching breakpoints and halts the launch; a match on the traced core triggers the trace (R435, R438). -/
def breakpoint (s : State) (event : Nat) (cnode : W32) (core launch : Nat) (arg : Option Nat) : State :=
  let bs := breaksAt s event cnode launch arg
  if bs.isEmpty then s
  else
    let mask := bs.foldl (fun m b => m ||| BitVec.ofNat 64 (2 ^ b)) s.dbg.brkStat
    let s := setLaunch { s with dbg := { s.dbg with brkStat := mask } } launch { launchOf s launch with halted := true }
    if field s.dbg.trcSel 0 4 = core then traceTrigger s else s

/-! ### Errors of a launch, barrier groups, and killing a launch (R52, R242, R408) -/

/-- Records an error of a launch: the first is kept, and all are counted (R408). -/
def recordError (s : State) (l cause sub x y task : Nat) : State :=
  let a := launchOf s l
  setLaunch s l { a with error := some (match a.error with
    | none => { cause := cause, sub := sub, x := x, y := y, task := task, count := 1 }
    | some e => { e with count := min (e.count + 1) (2 ^ 32 - 1) }) }

/-- A membership change applied (R240 BARM). -/
def applyMembership (ms : List TaskRef) : TaskRef × Bool → List TaskRef
  | (r, true) => if ms.contains r then ms else ms ++ [r]
  | (r, false) => ms.filter (· != r)

/-- A generation that has begun completes when every live member has arrived: G increases, arrivals are cleared, and pending
membership changes apply (R239). The completed generations marked SHORT are kept for later statuses (R241). -/
def Group.settle (g : Group) : Group :=
  if !g.arrived.isEmpty && g.members.all g.arrived.contains then
    { gen := g.gen + 1, members := g.pending.foldl applyMembership g.members, arrived := [], pending := [], short := false,
      shorts := if g.short then (g.gen :: g.shorts).take 17 else g.shorts, completed := g.completed + 1 }
  else g

/-- A member that retires or is killed leaves at once; a begun generation in which it had not arrived is SHORT (R242). -/
def Group.leave (r : TaskRef) (g : Group) : Group :=
  if g.members.contains r then
    Group.settle { g with members := g.members.filter (· != r), pending := g.pending.filter (·.1 != r),
                          short := g.short || (!g.arrived.isEmpty && !g.arrived.contains r) }
  else { g with pending := g.pending.filter (·.1 != r) }

/-- A retired task releases its barrier memberships and its bindings (R49, R242). -/
def releaseTask (s : State) (k : TaskKey) : State :=
  let r := refOr s k
  let l := launchOf s r.launch
  let s := setLaunch s r.launch { l with groups := l.groups.map fun (i, g) => (i, Group.leave r g),
                                         gangGroups := l.gangGroups.map fun (i, g) => (i, Group.leave r g) }
  let x := siteOf s (TaskKey.siteKey k)
  setSite s (TaskKey.siteKey k) { x with bindings := x.bindings.filter (·.2 != k.slot) }

/-- A killed task: retired, its held and outstanding accesses abandoned (R52, R123, R274). -/
def Task.kill (t : Task) : Task :=
  match t.slot with
  | .absent => t
  | _ => { t with slot := .retired, thread := { t.thread with producers := [], handler := false } }

/-- Every task of a launch is killed; its side-log entries and fault records are dropped (R52, R259, R274). -/
def killTasks (s : State) (l : Nat) : State :=
  { s with
    sites := s.sites.map fun (k, x) =>
      (k, if (x.owner.map (·.launch)) = some l then
            { x with tasks := x.tasks.map fun (i, t) => (i, Task.kill t), bindings := [] } else x),
    cores := s.cores.map fun (c, x) =>
      (c, { x with sideLog := x.sideLog.filter (·.task.launch != l), faults := x.faults.filter (·.info.launch != l),
                   faultQueue := x.faultQueue.filter (·.launch != l) }) }

/-- Kills a launch (R52): every task and every barrier membership goes, and the regions drain and retire (R50). A launch that was not
placed, or was saved, has nothing to drain. -/
def killLaunch (s : State) (l : Nat) : State :=
  let a := launchOf s l
  if a.killed || a.state == .complete then s
  else
    let s := killTasks s l
    let s := setLaunch s l { launchOf s l with killed := true, halted := false, preempt := false, saved := none,
                                               groups := [], gangGroups := [] }
    pushAll s ((List.range a.regions.length).map fun r => .regionRetire l r)

/-- Kills a launch with an error (R52, R408). -/
def killWith (s : State) (l cause sub x y task : Nat) : State :=
  killLaunch (recordError s l cause sub x y task) l

/-! ### Traps (R139 to R141, R399, R415) -/

/-- The causes of a trap (R140). -/
inductive Cause where
  | illop | empty | align | extent | abandoned | divzero | ownerLost | fmt | trap | remoteUnreachable
  deriving DecidableEq, Repr

/-- CAUSE codes (R140). -/
def Cause.code : Cause → Nat
  | .illop => 1 | .empty => 2 | .align => 3 | .extent => 4 | .abandoned => 5 | .divzero => 6 | .ownerLost => 7 | .fmt => 8
  | .trap => 9 | .remoteUnreachable => 10

/-- Why an instruction does not retire: a trap with FIELD and DETAIL, a wait of the task (R32), a stall at issue that leaves the given
state and tries again (R42, R124), or the machine's fault. -/
inductive Stop where
  | trap (c : Cause) (fld detail : Nat)
  | wait (w : WaitOn)
  | stall (t : State)
  | fault (f : Fault)

/-- What an instruction does: the state it leaves, or why it does not retire. -/
abbrev Exec := Except Stop State

/-- A trap of a cause that names no source: FIELD is 3, none (R140). -/
def trapOf {α : Type} (c : Cause) : Except Stop α := .error (.trap c 3 0)

/-- ILLOP. -/
def illop {α : Type} : Except Stop α := trapOf .illop

/-- The trapped word: the word at pc, or where pc names none (R101) a free value (log 6). -/
def trappedWord (s : State) : W128 :=
  let t := thread s
  if t.pc < storeWords s.cur then wordAt s s.cur t.pc
  else (Config.freeWord s.clock 1).append (Config.freeWord s.clock 0)

/-- The recovery entry of the firmware image (R446). -/
def recoveryEntry (s : State) : Nat := leNat ((s.dbg.fwSlot.drop 32).take 4)

/-- A controller stops and raises a RAS event; for the global core the standby takes over, at the recovery entry (R399, R414, log 17). -/
def stopController (s : State) : State :=
  match s.cur with
  | .task _ => s
  | .leaf c =>
    let x := coreOf s c
    rasRecord (setCore s c { x with leaf := { x.leaf with running := false, idle := false } }) 8 1 (c / 4) c 0xFFFFFFFF 0 0
  | .global =>
    if s.glob.active = 0 then
      let ctl := { s.glob.ctl with thread := Thread.start (recoveryEntry s), idle := false }
      rasRecord { s with glob := { s.glob with active := 2, ctl := ctl } } 8 1 0 0 0xFFFFFFFF 0 0
    else
      rasRecord { s with glob := { s.glob with ctl := { s.glob.ctl with running := false, idle := false } } } 8 2 2 8 0xFFFFFFFF 0 0

/-- The thread inside its handler: it continues at a word, as a block entry, in the Handler state (R100, R140). -/
def Thread.enter (t : Thread) (tr : TrapState) (pc : Nat) : Thread :=
  { t with trap := tr, pc := pc, blockCount := 0, handler := true, stepOver := false }

/-- Where a controller's trap continues: CTRAPVEC, or LTRAPVEC of the leaf (R399). -/
def trapVector (s : State) : Agent → Nat
  | .task k => (taskOf s k).handlerAt
  | .leaf c => field (coreOf s c).block.trapVec 0 14
  | .global => field s.glob.trapVec 0 14

/-- TAKING A TRAP (R140, R141, R399). The trap state is written: TRAPCAUSE, TRAPADDR, TRAPWORD and the block-word count. A task with a
handler goes on there; without one, or in its handler, its launch is killed. A controller goes on at its trap vector, or stops. -/
def takeTrap (c : Cause) (fld detail : Nat) (s : State) : State :=
  let t := thread s
  let tr : TrapState := { cause := BitVec.ofNat 32 (detail * 65536 + fld * 256 + Cause.code c), addr := t.pc, word := trappedWord s,
                          count := t.blockCount }
  let s' := withThread s { t with trap := tr }
  match s.cur with
  | .task k =>
    let r := refOr s k
    let s' := breakpoint s' 6 (siteCnode (siteOf s (TaskKey.siteKey k))) k.core r.launch none
    if t.handler then killWith s' r.launch 5 0 r.x r.y k.slot
    else if (taskOf s k).hv then setThread s' s.cur (Thread.enter t tr (trapVector s s.cur))
    else killWith s' r.launch 4 (Cause.code c) r.x r.y k.slot
  | _ =>
    if t.handler then stopController s'
    else withThread s' (Thread.enter t tr (trapVector s s.cur))

/-- RETURNING FROM A TRAP (R141, R415): the count is restored, and the stream goes on at a word outside the Handler state. -/
def Thread.leave (t : Thread) (skip : Bool) : Thread :=
  { t with handler := false, pc := t.trap.addr + (if skip then 1 else 0), blockCount := t.trap.count + (if skip then 1 else 0),
           stepOver := false }

/-! ### Retiring, waiting and finishing -/

/-- The stream goes on with the next word of its block (R101). -/
def Thread.next (t : Thread) : Thread := { t with pc := t.pc + 1, blockCount := t.blockCount + 1, stepOver := false }

/-- The stream enters a block (R100, R101). -/
def Thread.goto (t : Thread) (pc : Nat) : Thread := { t with pc := pc, blockCount := 0, stepOver := false }

/-- The executing instruction retires, and its stream goes on with the next word. -/
def retire (s : State) : State := withThread s (Thread.next (thread s))

/-- The executing task waits (R32); a controller tries the instruction again. -/
def waitCur (s : State) (w : WaitOn) : State :=
  match s.cur with
  | .task k => setTask s k { taskOf s k with slot := .waiting w }
  | _ => s

/-- The outcome of an instruction. -/
def finish (s : State) : Exec → Host.Outcome State Fault Refusal
  | .ok t => .next t
  | .error (.trap c fld detail) => .next (takeTrap c fld detail s)
  | .error (.wait w) => .next (waitCur s w)
  | .error (.stall t) => .next t
  | .error (.fault f) => .fault f

/-- Whether the executing agent is a task. -/
def onSite (s : State) : Bool :=
  match s.cur with
  | .task _ => true
  | _ => false

/-- Whether a field fits a controller: no source in the vector or channel space (R107). -/
def Field.ctlOk : Field → Bool
  | .src x => (match x.reg with | .v _ => false | .c _ => false | _ => true)
  | _ => true

/-- Whether operands fit a controller (R107). -/
def Operands.ctlOk (o : Operands) : Bool :=
  Field.ctlOk o.a && Field.ctlOk o.b && Field.ctlOk o.c &&
    (match o.dst with | .v _ => false | .o _ => false | _ => true)

/-- Where an instruction may execute (R107, R148, R414). -/
structure Places where
  site : Bool
  leaf : Bool
  glob : Bool
  deriving DecidableEq, Repr

/-- Everywhere. -/
def Places.all : Places := { site := true, leaf := true, glob := true }
/-- On sites only. -/
def Places.sites : Places := { site := true, leaf := false, glob := false }
/-- On controllers only. -/
def Places.controllers : Places := { site := false, leaf := true, glob := true }

/-- Whether the executing agent is one of the places. -/
def Places.ok (p : Places) : Agent → Bool
  | .task _ => p.site
  | .leaf _ => p.leaf
  | .global => p.glob

/-- An instruction as it issues: its place and its operands are checked first (R107, R109), and then it executes. -/
def issue (p : Places) (o : Operands) (s : State) (x : Exec) : Host.Outcome State Fault Refusal :=
  finish s (if Places.ok p s.cur && (onSite s || Operands.ctlOk o) then x else illop)

/-! ### Registers (R86, R119, R121) -/

/-- The value of p0 to p7; p0 is hard-wired true (R97, R119). -/
def Regs.readP (r : Regs) (i : Fin 8) : W64 := if i = 0 then BitVec.allOnes 64 else (r.p.get i).val
/-- The value of q0 to q7. -/
def Regs.readQ (r : Regs) (i : Fin 8) : W64 := (r.q.get i).val
/-- A scalar register written, full. -/
def Regs.writeS (r : Regs) (i : Fin 64) (x : Scalar) : Regs := { r with s := r.s.set i { val := x, full := true } }
/-- A vector register written, full. -/
def Regs.writeV (r : Regs) (i : Fin 32) (ls : Vector Lane 64) : Regs := { r with v := r.v.set i { lanes := ls, full := true } }
/-- A predicate register written; p0 keeps its value. -/
def Regs.writeP (r : Regs) (i : Fin 8) (x : W64) : Regs := if i = 0 then r else { r with p := r.p.set i { val := x, full := true } }
/-- A tile-predicate register written. -/
def Regs.writeQ (r : Regs) (i : Fin 8) (x : W64) : Regs := { r with q := r.q.set i { val := x, full := true } }

/-- Whether the register that a destination names is full (R121). -/
def Regs.dstFull (r : Regs) : Dst → Bool
  | .s i => (r.s.get i).full
  | .v i => (r.v.get i).full
  | _ => true

/-- An element put before the first one that it may stand before. -/
def insertSorted {α : Type} (le : α → α → Bool) (x : α) : List α → List α
  | [] => [x]
  | y :: r => if le x y then x :: y :: r else y :: insertSorted le x r

/-- A list in an order; elements that the order leaves equal keep their order. -/
def sorted {α : Type} (le : α → α → Bool) : List α → List α
  | [] => []
  | x :: r => insertSorted le x (sorted le r)

/-- The register of a destination marked empty (R121). -/
def Regs.markEmpty (r : Regs) : Dst → Regs
  | .s i => { r with s := r.s.set i { (r.s.get i) with full := false } }
  | .v i => { r with v := r.v.set i { (r.v.get i) with full := false } }
  | _ => r

/-- What a producer fills (R121). -/
def Regs.fill (r : Regs) : Fill → Regs
  | .scalar i x => Regs.writeS r i x
  | .vector i ls => Regs.writeV r i ls
  | .nothing => r

/-- A change of the executing stream's registers. -/
def mapRegs (s : State) (f : Regs → Regs) : State := withThread s { thread s with regs := f (thread s).regs }

/-- A long-latency producer issues: its destination is marked empty, and its completion is a step to come (R121). -/
def startProducer (s : State) (d : Dst) (st : ProducerState) (acq : Option Scope) : State :=
  let t := thread s
  let s' := withThread s { t with regs := Regs.markEmpty t.regs d, nextProducer := t.nextProducer + 1,
                                  producers := t.producers ++ [{ id := t.nextProducer, state := st, acq := acq, held := false }] }
  push s' (.producerComplete s.cur t.nextProducer)

/-- The number of the producer that issues next. -/
def nextProducer (s : State) : Nat := (thread s).nextProducer

/-- The register that a value fills. -/
def Fill.dst : Fill → Dst
  | .scalar i _ => .s i
  | .vector i _ => .v i
  | .nothing => .none

/-- A producer whose result is known at once: it fills its destination when it completes (R121). -/
def produce (s : State) (d : Dst) (f : Fill) : State :=
  match d with
  | .none => s
  | _ => startProducer s d (.ready f) none

/-- A scalar producer: its destination is s0 to s63, or none, which marks and fills nothing (R121). -/
def produceS (s : State) (d : Dst) (x : Scalar) : State :=
  match d with
  | .s i => produce s d (.scalar i x)
  | _ => s

end Sys2Proof.Machine
end

