-- ==== Sys2Proof/Machine/Flags.lean ====
section
/-! DEFINITION. Marks and conditions: how kinds combine (R87, R144), the compare conditions (R98), and predicates (R97). -/

namespace Sys2Proof.Machine

/-! ### Kinds of scalars and lanes (R86, R87, R144) -/

/-- The error code of the first error among sources, in the order A, B, C (R144). -/
def Scalar.firstErr : List Scalar → Option (BitVec 4)
  | [] => none
  | .err c :: _ => some c
  | _ :: r => Scalar.firstErr r

/-- Whether a scalar is data. -/
def Scalar.isData : Scalar → Bool
  | .data _ => true
  | _ => false

/-- Whether a scalar is a null. -/
def Scalar.isNull : Scalar → Bool
  | .null => true
  | _ => false

/-- The bit pattern of a register: a null holds zero, an error its code (R80, R144). -/
def Scalar.pattern : Scalar → W64
  | .data w => w
  | .null => 0
  | .err c => c.setWidth 64

/-- The result of a scalar instruction over the sources it reads (R144): an error if any source is one, then a null if any is, and the
computed pattern otherwise. -/
def Scalar.combine (xs : List Scalar) (value : W64) : Scalar :=
  match Scalar.firstErr xs with
  | some c => .err c
  | none => if xs.any Scalar.isNull then .null else .data value

/-- The error code of the first error among lanes, in operand order (R87). -/
def Lane.firstErr : List Lane → Option (BitVec 4)
  | [] => none
  | .err c :: _ => some c
  | _ :: r => Lane.firstErr r

/-- Whether a lane is data. -/
def Lane.isData : Lane → Bool
  | .data _ => true
  | _ => false

/-- Whether a lane is a null. -/
def Lane.isNull : Lane → Bool
  | .null => true
  | _ => false

/-- The bit pattern of a lane: a null holds zero, an error its code (R80). -/
def Lane.pattern : Lane → W32
  | .data w => w
  | .null => 0
  | .err c => c.setWidth 32

/-- The result lane of site arithmetic over its source lanes (R87). -/
def Lane.combine (xs : List Lane) (value : Lane) : Lane :=
  match Lane.firstErr xs with
  | some c => .err c
  | none => if xs.any Lane.isNull then .null else value

/-- A scalar as a lane: its low 32 bits and its kind (R93). -/
def Scalar.toLane : Scalar → Lane
  | .data w => .data (bits w 0 32)
  | .null => .null
  | .err c => .err c

/-- A lane as a scalar, sign- or zero-extended (R143). -/
def Lane.toScalar (signed : Bool) : Lane → Scalar
  | .data w => .data (if signed then w.signExtend 64 else w.setWidth 64)
  | .null => .null
  | .err c => .err c

/-! ### Conditions (R98, R161) -/

/-- A compare condition between two patterns of one width: eq to ge signed, ltu to geu unsigned (R161, R170). -/
def Cond.holds {w : Nat} (c : Cond) (a b : BitVec w) : Bool :=
  match c with
  | .eq => a == b
  | .ne => a != b
  | .lt => a.slt b
  | .le => a.sle b
  | .gt => b.slt a
  | .ge => b.sle a
  | .ltu => a.ult b
  | .leu => a.ule b
  | .gtu => b.ult a
  | .geu => b.ule a

/-! ### Predicates (R97) -/

/-- The predicate of an instruction of the arithmetic, compare and plain classes (R98); other classes name none in MOD. -/
def Mod.pred : Mod → Pred
  | .arith _ _ p => p
  | .cmp _ p => p
  | .plain p => p
  | _ => { neg := false, idx := 0 }

/-- The 64 bits of a predicate after negation (R97). -/
def predBits (r : Regs) (p : Pred) : W64 := if p.neg then ~~~(Regs.readP r p.idx) else Regs.readP r p.idx

/-- Whether a scalar instruction takes effect: bit 0 of its predicate (R97). -/
def predHolds (r : Regs) (p : Pred) : Bool := bit (predBits r p) 0

/-- The predicate that field A names in a memory-class or engine-command instruction (R92, R99); a literal or an unread field A leaves
the instruction unpredicated (R215). -/
def Field.pred : Field → Pred
  | .src x => { neg := x.pn, idx := x.pi }
  | _ => { neg := false, idx := 0 }

end Sys2Proof.Machine
end

