-- ==== Sys2Proof/Machine/Operands.lean ====
section
/-! DEFINITION. Every operand form: the sources of a word (R91 to R96, R143, R163), its destinations (R90, R146, R165, R178). -/

namespace Sys2Proof.Machine

/-! ### Channels of the executing site -/

/-- The executing agent's site; a controller has none. -/
def curSite (s : State) : Option SiteKey :=
  match s.cur with
  | .task k => some (TaskKey.siteKey k)
  | _ => none

/-- The buffer of an input channel of the executing site (R124). -/
def chanOf (s : State) (c : Fin 32) : List (Token × W64) :=
  match curSite s with
  | some k => ((siteOf s k).chans.get c).slots
  | none => []

/-- The head token of an input channel. -/
def headToken (s : State) (c : Fin 32) : Option Token := (chanOf s c).head?.map (·.1)

/-! ### Availability (R32, R91, R96) -/

/-- What a field's operand waits on while it is empty (R32). -/
def emptyOn (s : State) : Field → Option WaitOn
  | .src x =>
    match x.reg with
    | .s i => if ((thread s).regs.s.get i).full then none else some (.register (.s i))
    | .v i => if ((thread s).regs.v.get i).full then none else some (.register (.v i))
    | .c i => if (chanOf s i).isEmpty then some (.channel i) else none
    | .x _ => none
  | _ => none

/-- FET of a field (R91). -/
def Field.fet : Field → Bool
  | .src x => x.fet
  | _ => false

/-- Whether every source is available (R96): an empty source with FET traps EMPTY, before any source that would block. -/
def available (s : State) (fs : List (Nat × Field)) : Except Stop Unit :=
  match fs.find? fun (_, f) => (emptyOn s f).isSome && Field.fet f with
  | some (n, _) => .error (.trap .empty n 0)
  | none =>
    match fs.findSome? fun (_, f) => emptyOn s f with
    | some w => .error (.wait w)
    | none => .ok ()

/-! ### Special registers (R95, R399) -/

/-- The owner of the executing site. -/
def curOwner (s : State) : Option Owner := (curSite s).bind fun k => (siteOf s k).owner

/-- The core that COREID names: a task's or a leaf's core, 0 on the global core (R95, R399). -/
def Agent.coreNo : Agent → Nat
  | .task k => k.core
  | .leaf c => c
  | .global => 0

/-- The die that DIEID names (R95, R399). -/
def dieNo (s : State) : Nat :=
  match s.cur with
  | .global => s.glob.active
  | a => Agent.coreNo a / 4

/-- A special register as a 64-bit pattern (R95, R143, R399). LAUNCHID of a controller, which belongs to no launch, is a free value
(log 6). -/
def specialBits (s : State) (x : Special) : W64 :=
  let t := thread s
  match x with
  | .taskid => (match s.cur with | .task k => BitVec.ofNat 64 k.slot | _ => 0)
  | .sitex => BitVec.ofNat 64 ((curOwner s).map (·.x) |>.getD 0)
  | .sitey => BitVec.ofNat 64 ((curOwner s).map (·.y) |>.getD 0)
  | .coreid => BitVec.ofNat 64 (Agent.coreNo s.cur)
  | .dieid => BitVec.ofNat 64 (dieNo s)
  | .time => s.time
  | .rowprog => t.rowProg.setWidth 64
  | .trapcause => t.trap.cause.setWidth 64
  | .trapaddr => BitVec.ofNat 64 t.trap.addr
  | .trapword => bits t.trap.word 64 64
  | .exithist => t.exitHist.setWidth 64
  | .launchid => (match s.cur with | .task k => BitVec.ofNat 64 (launchOfTask s k) | _ => Config.freeWord s.clock 2)
  | .p i => Regs.readP t.regs i
  | .q i => Regs.readQ t.regs i

/-! ### Scalar values (R143) -/

/-- A token as a scalar source: its payload, or lane 0 of a vector token; a control token counts as data (R143).
An x field of majors 0x25 to 0x27 without BC takes lane 0 of a vector token too (DESIGN CHOICE, log 135: R143 states it for majors 0x00 to 0x02). -/
def Token.scalar (t : Token) : Scalar :=
  let signed := t.fmt != .idx
  match t.pay with
  | .scalar l => Lane.toScalar signed l
  | .vector ls => Lane.toScalar signed (ls.get 0)
  | .control _ w => Lane.toScalar signed (.data w)

/-- The KIND of a token (R80): 0 data, 1 null, 2 error, 3 control. -/
def Token.kind (t : Token) : Nat :=
  match t.pay with
  | .scalar (.data _) => 0
  | .scalar .null => 1
  | .scalar (.err _) => 2
  | .vector ls =>
    let l := ls.toList
    if l.all fun x => !Lane.isData x && !Lane.isNull x then 2 else if l.all Lane.isNull then 1 else 0
  | .control _ _ => 3

/-- ABS and NEG on a 64-bit pattern, ABS first (R143). -/
def negAbs64 (neg abs : Bool) (w : W64) : W64 :=
  let w := if abs && w.msb then -w else w
  if neg then -w else w

/-- ABS and NEG on a scalar source. -/
def Scalar.negAbs (neg abs : Bool) : Scalar → Scalar
  | .data w => .data (negAbs64 neg abs w)
  | x => x

/-- The scalar that a source in register form names, before its modifiers (R143). A vector register supplies lane 0; no scalar
field accepts one. -/
def regScalar (s : State) : RegName → Scalar
  | .s i => ((thread s).regs.s.get i).val
  | .v i => Lane.toScalar true (((thread s).regs.v.get i).lanes.get 0)
  | .c i => (match headToken s i with | some t => Token.scalar t | none => .null)
  | .x r => .data (specialBits s r)

/-- Lane `n` of a vector token as its every lane (R91): what BC makes of the token. -/
def Token.broadcast (n : Fin 64) (t : Token) : Token :=
  match t.pay with
  | .vector ls => { t with pay := .vector (Vector.replicate 64 (ls.get n)) }
  | _ => t

/-- The scalar that a source names when BC is set on it (R91): only a channel source of a vector instruction has BC and supplies a
scalar (R92, R175), and of a vector token it supplies lane LANE (log 54). -/
def laneScalar (s : State) (x : Src) : Scalar :=
  match x.reg with
  | .c i => (match headToken s i with | some t => Token.scalar (Token.broadcast x.lane t) | none => .null)
  | r => regScalar s r

/-- The scalar value of a field (R143). -/
def scalarOf (s : State) : Field → Scalar
  | .lit w => .data (w.signExtend 64)
  | .src x => Scalar.negAbs x.neg x.abs (if x.bc then laneScalar s x else regScalar s x.reg)
  | _ => .data 0

/-! ### Vector values (R93, R163) -/

/-- A token as a vector source (R93, R163). -/
def Token.vector (t : Token) : Vector Lane 64 :=
  match t.pay with
  | .scalar l => Vector.replicate 64 l
  | .vector ls => ls
  | .control _ w => Vector.replicate 64 (.data w)

/-- Lane `i` of TRAPWORD in a vector source (R95). -/
def trapwordLane (w : W128) (i : Nat) : Lane := .data (if i < 4 then bits w (32 * i) 32 else 0)

/-- The 64 lanes that a source in register form names (R163). -/
def regVector (s : State) : RegName → Vector Lane 64
  | .s i => Vector.replicate 64 (Scalar.toLane ((thread s).regs.s.get i).val)
  | .v i => ((thread s).regs.v.get i).lanes
  | .c i => (match headToken s i with | some t => Token.vector t | none => Vector.replicate 64 .null)
  | .x .trapword => Vector.ofFn fun i => trapwordLane (thread s).trap.word i.val
  | .x r => Vector.replicate 64 (.data (bits (specialBits s r) 0 32))

/-- The 64 lanes of a field, broadcast where BC says so (R91, R163); NEG and ABS are the instruction's to apply. -/
def vectorOf (s : State) : Field → Vector Lane 64
  | .lit w => Vector.replicate 64 (.data w)
  | .src x => if x.bc then Vector.replicate 64 ((regVector s x.reg).get x.lane) else regVector s x.reg
  | _ => Vector.replicate 64 (.data 0)

/-- NEG of a field. -/
def Field.neg : Field → Bool
  | .src x => x.neg
  | _ => false

/-- ABS of a field. -/
def Field.abs : Field → Bool
  | .src x => x.abs
  | _ => false

/-- The constant control word in a field (R173, R230, R236). -/
def Field.control : Field → W32
  | .word w => w
  | _ => 0

/-! ### Consuming tokens (R96) -/

/-- The input channel of a field. -/
def Field.chan : Field → Option (Fin 32)
  | .src x => (match x.reg with | .c i => some i | _ => none)
  | _ => none

/-- The distinct channels that fields name (R96). -/
def chansOf (fs : List Field) : List (Fin 32) := (fs.filterMap Field.chan).eraseDups

/-- One token consumed from a channel; the task remembers the channel and the token's arrival (R96, R431). -/
def consumeOne (s : State) (c : Fin 32) : State :=
  match s.cur with
  | .task k =>
    let x := siteOf s (TaskKey.siteKey k)
    let ch := x.chans.get c
    let at' := (ch.slots.head?.map (·.2)).getD 0
    let s := setSite s (TaskKey.siteKey k) { x with chans := x.chans.set c { ch with slots := ch.slots.drop 1 } }
    setTask s k { taskOf s k with lastChan := c, lastArrive := at' }
  | _ => s

/-- The tokens of the fields consumed, one for each distinct channel (R96). -/
def consume (s : State) (fs : List Field) : State := (chansOf fs).foldl consumeOne s

/-! ### Destinations (R90, R121, R124, R146, R178) -/

/-- An output channel of the executing site. -/
def outOf (s : State) (o : Fin 16) : OutChan :=
  match curSite s with
  | some k => (siteOf s k).outs.get o
  | none => OutChan.empty

/-- A send on a channel without a route traps ILLOP (R178). -/
def routeOk (s : State) (o : Fin 16) : Except Stop Unit := if (outOf s o).route.isSome then .ok () else illop

/-- A send into a full send buffer blocks (R124). -/
def sendRoom (s : State) (o : Fin 16) : Except Stop Unit := if (outOf s o).send.length < 2 then .ok () else .error (.stall s)

/-- The faults of a destination, found before any source is read: a channel without a route (R178). -/
def dstFaults (s : State) : Dst → Except Stop Unit
  | .o i => routeOk s i
  | _ => .ok ()

/-- A destination register that is still empty waits until it is full (R121); a full send buffer blocks (R124). -/
def dstReady (s : State) (d : Dst) : Except Stop Unit :=
  match d with
  | .o i => sendRoom s i
  | d => if Regs.dstFull (thread s).regs d then .ok () else .error (.wait (.register d))

/-- A token into a send buffer (R124, R178): the route's tag; NEXTSEQ, or the tag given; NEXTSEQ then follows it. -/
def sendToken (s : State) (o : Fin 16) (fmt : Fmt) (pay : Payload) (seq : Option (BitVec 12)) : State :=
  match s.cur with
  | .task k =>
    let x := siteOf s (TaskKey.siteKey k)
    let oc := x.outs.get o
    let tag := seq.getD oc.nextSeq
    let t : Token := { route := bits (oc.route.getD 0) 0 10, seq := tag, fmt := fmt, pay := pay }
    let task := taskOf s k
    let oc := { oc with send := oc.send ++ [t], nextSeq := tag + 1, fired := true, lastInput := task.lastChan,
                        lastArrive := task.lastArrive, lastFire := s.time, lastTask := k.slot, lastWord := task.thread.pc }
    push (setSite s (TaskKey.siteKey k) { x with outs := x.outs.set o oc }) (.tokenArrival (.chan (TaskKey.siteKey k) o) false)
  | _ => s

/-- A scalar result to its destination (R90, R146): a register, a scalar token of the given tag, or nowhere. -/
def writeScalar (s : State) (d : Dst) (fmt : Fmt) (x : Scalar) : State :=
  match d with
  | .s i => mapRegs s fun r => Regs.writeS r i x
  | .o i => sendToken s i fmt (.scalar (Scalar.toLane x)) none
  | _ => s

/-- A vector result to its destination (R165). `written` says which lanes the instruction writes; other lanes keep their value in a
register and are null in a token. -/
def writeVector (s : State) (d : Dst) (fmt : Fmt) (written : W64) (ls : Vector Lane 64) : State :=
  match d with
  | .v i =>
    let old := ((thread s).regs.v.get i).lanes
    mapRegs s fun r => Regs.writeV r i (Vector.ofFn fun j => if bit written j then ls.get j else old.get j)
  | .o i => sendToken s i fmt (.vector (Vector.ofFn fun j => if bit written j then ls.get j else .null)) none
  | _ => s

/-- A predicate result to its destination, bit by bit under a mask (R162, R170). -/
def writePred (s : State) (d : Dst) (mask value : W64) : State :=
  let r := (thread s).regs
  match d with
  | .p i => mapRegs s fun r' => Regs.writeP r' i ((Regs.readP r i &&& ~~~mask) ||| (value &&& mask))
  | .q i => mapRegs s fun r' => Regs.writeQ r' i ((Regs.readQ r i &&& ~~~mask) ||| (value &&& mask))
  | _ => s

/-! ### Reading at issue -/

/-- The fields of a word, with their numbers. -/
def fieldsABC (o : Operands) : List (Nat × Field) := [(0, o.a), (1, o.b), (2, o.c)]

/-- An instruction's sources and destination are ready (R96, R109, R121, R124): faults of the destination first, then the sources, then
the destination's readiness. -/
def ready (s : State) (o : Operands) : Except Stop Unit := do
  dstFaults s o.dst
  available s (fieldsABC o)
  dstReady s o.dst

/-- The tokens that a word's fields name are consumed (R96). -/
def consumeAll (s : State) (o : Operands) : State := consume s [o.a, o.b, o.c]

/-- A predicated scalar instruction: with a false predicate it retires with no effect (R97, R145). -/
def predicated (s : State) (p : Pred) (x : Exec) : Exec :=
  if predHolds (thread s).regs p then x else .ok (retire s)

end Sys2Proof.Machine
end

