-- ==== Sys2Proof/Machine/Predicate.lean ====
section
/-! DEFINITION. Major 0x02: compares and predicate logic (R161, R162). -/

namespace Sys2Proof.Machine

/-- The condition of the compare class (R98). -/
def Mod.cond : Mod → Cond
  | .cmp c _ => c
  | _ => .eq

/-- CMP (R161): 1 if the condition holds, else 0; its kind follows R144. -/
def execCmp (o : Operands) (s : State) : Host.Outcome State Fault Refusal :=
  issue Places.all o s (predicated s (Mod.pred o.mod) do
    ready s o
    let a := scalarOf s o.a
    let b := scalarOf s o.b
    let v : W64 := if Cond.holds (Mod.cond o.mod) (Scalar.pattern a) (Scalar.pattern b) then 1 else 0
    .ok (retire (writeScalar (consumeAll s o) o.dst .int32 (Scalar.combine [a, b] v))))

/-- Whether PCMP writes true: both sources data, and the condition holds (R161). -/
def pcmpHolds (c : Cond) : Scalar → Scalar → Bool
  | .data a, .data b => Cond.holds c a b
  | _, _ => false

/-- PCMP (R161): all 64 bits of the predicate. -/
def execPcmp (o : Operands) (s : State) : Host.Outcome State Fault Refusal :=
  issue Places.all o s (predicated s (Mod.pred o.mod) do
    ready s o
    let v : W64 := if pcmpHolds (Mod.cond o.mod) (scalarOf s o.a) (scalarOf s o.b) then BitVec.allOnes 64 else 0
    .ok (retire (writePred (consumeAll s o) o.dst (BitVec.allOnes 64) v)))

/-- A source of predicate logic: a scalar that is not data supplies all zeros (R162). -/
def maskOf (s : State) (f : Field) : W64 :=
  match scalarOf s f with
  | .data w => w
  | _ => 0

/-- A predicate-logic instruction (R145, R162): bit i is written only where bit i of the predicate is 1; a predicate with no bit set
selects no effect. -/
def predLogic (o : Operands) (s : State) (f : W64 → W64 → W64) : Host.Outcome State Fault Refusal :=
  issue Places.all o s (
    let m := predBits (thread s).regs (Mod.pred o.mod)
    if m = 0 then .ok (retire s)
    else do
      ready s o
      .ok (retire (writePred s o.dst m (f (maskOf s o.a) (maskOf s o.b)))))

/-- PAND (R162). -/
def execPand (o : Operands) (s : State) : Host.Outcome State Fault Refusal := predLogic o s fun a b => a &&& b
/-- POR (R162). -/
def execPor (o : Operands) (s : State) : Host.Outcome State Fault Refusal := predLogic o s fun a b => a ||| b
/-- PXOR (R162). -/
def execPxor (o : Operands) (s : State) : Host.Outcome State Fault Refusal := predLogic o s fun a b => a ^^^ b
/-- PNOT (R162). -/
def execPnot (o : Operands) (s : State) : Host.Outcome State Fault Refusal := predLogic o s fun a _ => ~~~a
/-- PMOV (R162). -/
def execPmov (o : Operands) (s : State) : Host.Outcome State Fault Refusal := predLogic o s fun a _ => a

end Sys2Proof.Machine
end

