-- ==== Sys2Proof/Machine/Scalar.lean ====
section
/-! DEFINITION. Major 0x01: 64-bit integer and address arithmetic (R157 to R160). -/

namespace Sys2Proof.Machine

/-- SAT of the arithmetic class (R98). -/
def Mod.sat : Mod → Bool
  | .arith _ s _ => s
  | _ => false

/-- Rounding of the arithmetic class (R98). -/
def Mod.rounding : Mod → Rounding
  | .arith r _ _ => r
  | _ => .rne

/-- A value clamped to the signed range of `w` bits when SAT is set, and taken modulo 2^w otherwise (R158, R169). -/
def satOrWrap (w : Nat) (sat : Bool) (v : Int) : BitVec w :=
  if sat then
    if v > 2 ^ (w - 1) - 1 then BitVec.ofInt w (2 ^ (w - 1) - 1)
    else if v < -(2 ^ (w - 1)) then BitVec.ofInt w (-(2 ^ (w - 1)))
    else BitVec.ofInt w v
  else BitVec.ofInt w v

/-- A scalar instruction of three sources (R143 to R146): the value is computed where every source it reads is data, and may trap. -/
def scalarOp (o : Operands) (s : State) (srcs : List Field) (f : W64 → W64 → W64 → Except Stop W64) : Exec :=
  predicated s (Mod.pred o.mod) do
    ready s o
    let xs := srcs.map (scalarOf s)
    let get (f : Field) : W64 := Scalar.pattern (scalarOf s f)
    let r ← if xs.all Scalar.isData then (f (get o.a) (get o.b) (get o.c)).map Scalar.data
            else .ok (Scalar.combine xs 0)
    .ok (retire (writeScalar (consumeAll s o) o.dst .int32 r))

/-- A scalar instruction that reads A and B. -/
def scalarAB (o : Operands) (s : State) (f : W64 → W64 → W64) : Host.Outcome State Fault Refusal :=
  issue Places.all o s (scalarOp o s [o.a, o.b] fun a b _ => .ok (f a b))

/-- A scalar instruction that reads A only. -/
def scalarA (o : Operands) (s : State) (f : W64 → W64) : Host.Outcome State Fault Refusal :=
  issue Places.all o s (scalarOp o s [o.a] fun a _ _ => .ok (f a))

/-- A scalar instruction that reads A, B and C. -/
def scalarABC (o : Operands) (s : State) (f : W64 → W64 → W64 → W64) : Host.Outcome State Fault Refusal :=
  issue Places.all o s (scalarOp o s [o.a, o.b, o.c] fun a b c => .ok (f a b c))

/-- A division: a zero divisor that is data traps DIVZERO (R159). -/
def scalarDiv (o : Operands) (s : State) (f : W64 → W64 → W64) : Host.Outcome State Fault Refusal :=
  issue Places.all o s (scalarOp o s [o.a, o.b] fun a b _ => if b = 0 then trapOf .divzero else .ok (f a b))

/-- ADD (R158). -/
def execAdd (o : Operands) (s : State) : Host.Outcome State Fault Refusal :=
  scalarAB o s fun a b => satOrWrap 64 (Mod.sat o.mod) (a.toInt + b.toInt)
/-- SUB (R158). -/
def execSub (o : Operands) (s : State) : Host.Outcome State Fault Refusal :=
  scalarAB o s fun a b => satOrWrap 64 (Mod.sat o.mod) (a.toInt - b.toInt)
/-- MUL (R158). -/
def execMul (o : Operands) (s : State) : Host.Outcome State Fault Refusal :=
  scalarAB o s fun a b => satOrWrap 64 (Mod.sat o.mod) (a.toInt * b.toInt)
/-- MULH (R158): bits [127:64] of the signed product. -/
def execMulh (o : Operands) (s : State) : Host.Outcome State Fault Refusal :=
  scalarAB o s fun a b => BitVec.ofInt 64 ((a.toInt * b.toInt) / 2 ^ 64)
/-- MULHU (R158). -/
def execMulhu (o : Operands) (s : State) : Host.Outcome State Fault Refusal :=
  scalarAB o s fun a b => BitVec.ofNat 64 (a.toNat * b.toNat / 2 ^ 64)
/-- DIV (R159): the quotient rounds towards zero; −2^63 ÷ −1 gives −2^63. -/
def execDiv (o : Operands) (s : State) : Host.Outcome State Fault Refusal :=
  scalarDiv o s fun a b => BitVec.ofInt 64 (Int.tdiv a.toInt b.toInt)
/-- DIVU (R159). -/
def execDivu (o : Operands) (s : State) : Host.Outcome State Fault Refusal :=
  scalarDiv o s fun a b => BitVec.ofNat 64 (a.toNat / b.toNat)
/-- REM (R159): the remainder takes the sign of the dividend. -/
def execRem (o : Operands) (s : State) : Host.Outcome State Fault Refusal :=
  scalarDiv o s fun a b => BitVec.ofInt 64 (Int.tmod a.toInt b.toInt)
/-- REMU (R159). -/
def execRemu (o : Operands) (s : State) : Host.Outcome State Fault Refusal :=
  scalarDiv o s fun a b => BitVec.ofNat 64 (a.toNat % b.toNat)
/-- AND (R158). -/
def execAnd (o : Operands) (s : State) : Host.Outcome State Fault Refusal := scalarAB o s fun a b => a &&& b
/-- OR (R158). -/
def execOr (o : Operands) (s : State) : Host.Outcome State Fault Refusal := scalarAB o s fun a b => a ||| b
/-- XOR (R158). -/
def execXor (o : Operands) (s : State) : Host.Outcome State Fault Refusal := scalarAB o s fun a b => a ^^^ b
/-- ANDN (R158): a AND NOT b. -/
def execAndn (o : Operands) (s : State) : Host.Outcome State Fault Refusal := scalarAB o s fun a b => a &&& ~~~b

/-- The shift amount: Unsigned(b) mod 64 (R158). -/
def shiftAmount (b : W64) : Nat := b.toNat % 64

/-- SHL (R158). -/
def execShl (o : Operands) (s : State) : Host.Outcome State Fault Refusal := scalarAB o s fun a b => a <<< shiftAmount b
/-- SHR (R158). -/
def execShr (o : Operands) (s : State) : Host.Outcome State Fault Refusal := scalarAB o s fun a b => a >>> shiftAmount b
/-- SAR (R158). -/
def execSar (o : Operands) (s : State) : Host.Outcome State Fault Refusal :=
  scalarAB o s fun a b => a.sshiftRight (shiftAmount b)
/-- ROL (R158). -/
def execRol (o : Operands) (s : State) : Host.Outcome State Fault Refusal :=
  scalarAB o s fun a b => a.rotateLeft (shiftAmount b)

/-- The number of leading zero bits (R158). -/
def clz64 (a : W64) : Nat := 64 - bitLength a.toNat

/-- The number of trailing zero bits, counted over bits `i` upwards, `n` of them (R158). -/
def ctzFrom (a : W64) : Nat → Nat → Nat
  | _, 0 => 0
  | i, n + 1 => if bit a i then 0 else 1 + ctzFrom a (i + 1) n

/-- The number of one bits (R158). -/
def popcount {w : Nat} (a : BitVec w) : Nat := ((List.range w).filter fun i => bit a i).length

/-- CLZ (R158). -/
def execClz (o : Operands) (s : State) : Host.Outcome State Fault Refusal := scalarA o s fun a => BitVec.ofNat 64 (clz64 a)
/-- CTZ (R158). -/
def execCtz (o : Operands) (s : State) : Host.Outcome State Fault Refusal :=
  scalarA o s fun a => BitVec.ofNat 64 (ctzFrom a 0 64)
/-- POPC (R158). -/
def execPopc (o : Operands) (s : State) : Host.Outcome State Fault Refusal :=
  scalarA o s fun a => BitVec.ofNat 64 (popcount a)
/-- MIN (R158). -/
def execMin (o : Operands) (s : State) : Host.Outcome State Fault Refusal := scalarAB o s fun a b => if a.sle b then a else b
/-- MAX (R158). -/
def execMax (o : Operands) (s : State) : Host.Outcome State Fault Refusal := scalarAB o s fun a b => if a.sle b then b else a
/-- MINU (R158). -/
def execMinu (o : Operands) (s : State) : Host.Outcome State Fault Refusal := scalarAB o s fun a b => if a.ule b then a else b
/-- MAXU (R158). -/
def execMaxu (o : Operands) (s : State) : Host.Outcome State Fault Refusal := scalarAB o s fun a b => if a.ule b then b else a
/-- ABS (R158). -/
def execAbs (o : Operands) (s : State) : Host.Outcome State Fault Refusal :=
  scalarA o s fun a => satOrWrap 64 (Mod.sat o.mod) (a.toInt.natAbs : Int)
/-- SEL (R158): a if bit 0 of c is 1, else b. -/
def execSel (o : Operands) (s : State) : Host.Outcome State Fault Refusal := scalarABC o s fun a b c => if bit c 0 then a else b
/-- MOV (R158). -/
def execMov (o : Operands) (s : State) : Host.Outcome State Fault Refusal := scalarA o s fun a => a

/-- Position of a field specification (R160). -/
def fieldPos (spec : W64) : Nat := field spec 0 6
/-- The mask of a field specification's effective length, min(len, 64 − pos) (R160). -/
def fieldMask (spec : W64) : W64 := BitVec.ofNat 64 (2 ^ min (field spec 8 7) (64 - fieldPos spec) - 1)

/-- BFX (R160): a zero-extended field. -/
def execBfx (o : Operands) (s : State) : Host.Outcome State Fault Refusal :=
  scalarAB o s fun a b => (a >>> fieldPos b) &&& fieldMask b
/-- BFI (R160). -/
def execBfi (o : Operands) (s : State) : Host.Outcome State Fault Refusal :=
  scalarABC o s fun a b c => (a &&& ~~~(fieldMask c <<< fieldPos c)) ||| ((b &&& fieldMask c) <<< fieldPos c)
/-- LEA (R158): a + b × 2^(c mod 8). -/
def execLea (o : Operands) (s : State) : Host.Outcome State Fault Refusal :=
  scalarABC o s fun a b c => a + (b <<< (c.toNat % 8))

end Sys2Proof.Machine
end

