-- ==== Sys2Proof/Machine/Vector.lean ====
section
/-! DEFINITION. Majors 0x20 to 0x23: typed arithmetic on 64 lanes (R163 to R170). -/

namespace Sys2Proof.Machine

/-! ### Tokens as sources: tags and marks (R80, R164) -/

/-- Whether a field's head token carries a tag that the instruction does not accept; null and error tokens are always accepted (R164). -/
def badTag (s : State) (f : Field) (tags : List Fmt) : Bool :=
  match Field.chan f with
  | some c =>
    match headToken s c with
    | some t => (Token.kind t == 0 || Token.kind t == 3) && !tags.contains t.fmt
    | none => false
  | none => false

/-- The tags of the channel sources are checked: the first bad one traps FMT with its field (R140, R164). -/
def tagsOk (s : State) (fs : List (Nat × Field)) (tags : Nat → List Fmt) : Except Stop Unit :=
  match fs.find? fun (n, f) => badTag s f (tags n) with
  | some (n, _) => .error (.trap .fmt n 0)
  | none => .ok ()

/-- Whether an active data lane of a field holds the abandoned pattern (R63, R166). -/
def abandonedIn (mask : W64) (ls : Vector Lane 64) : Bool :=
  (List.finRange 64).any fun i =>
    bit mask i && (match ls.get i with | .data w => isAbandoned w | _ => false)

/-- FP32 sources are checked for the abandoned pattern: the first field that holds one traps ABANDONED (R63, R140). -/
def abandonedOk (s : State) (mask : W64) (fs : List (Nat × Field)) : Except Stop Unit :=
  match fs.find? fun (_, f) => abandonedIn mask (vectorOf s f) with
  | some (n, _) => .error (.trap .abandoned n 0)
  | none => .ok ()

/-- The sources and destination of a vector instruction, ready and checked (R96, R109, R124, R139, R164, R166). -/
def vecReady (s : State) (o : Operands) (fs : List (Nat × Field)) (tags : Nat → List Fmt) (fp32 : Bool) (mask : W64) :
    Except Stop Unit := do
  dstFaults s o.dst
  available s fs
  tagsOk s fs tags
  if fp32 then abandonedOk s mask fs else .ok ()
  dstReady s o.dst

/-! ### Elements (R60, R168, R169) -/

/-- The format of a vector type's elements (R105). -/
def VType.fmt : VType → Fmt
  | .f32 => .fp32
  | .bf16 => .bf16
  | .i32 => .int32
  | .i8 => .int8

/-- Whether a vector type is a floating-point one. -/
def VType.isFp : VType → Bool
  | .f32 => true
  | .bf16 => true
  | _ => false

/-- The token tags that a vector type accepts (R164). -/
def VType.tags : VType → List Fmt
  | .f32 => [.fp32]
  | .bf16 => [.bf16]
  | .i32 => [.int32, .idx]
  | .i8 => [.int8]

/-- A floating-point element of a source, after ABS and NEG (R91, R168). -/
def fpElem (ty : VType) (f : Field) (w : W32) (j : Nat) : Val :=
  let v := Fmt.value (VType.fmt ty) (laneElem (VType.fmt ty) w j)
  let v := if Field.abs f then Val.abs v else v
  if Field.neg f then Val.neg v else v

/-- An element's value rounded to its type (R168 F). -/
def roundElem (ty : VType) (m : Rounding) (v : Val) : W32 :=
  match ty with
  | .f32 => roundF32 m v
  | _ => (roundBF16 m v).setWidth 32

/-- ABS and NEG on a signed value of `w` bits, modulo 2^w (R169). -/
def negAbsInt (w : Nat) (neg abs : Bool) (v : Int) : Int :=
  let v := if abs && decide (v < 0) then (BitVec.ofInt w (-v)).toInt else v
  if neg then (BitVec.ofInt w (-v)).toInt else v

/-- The bit width of an integer type's elements (R169). -/
def VType.width : VType → Nat
  | .i8 => 8
  | _ => 32

/-- An integer element of a source as a signed value, after ABS and NEG (R169). -/
def intElem (ty : VType) (f : Field) (w : W32) (j : Nat) : Int :=
  let n := VType.width ty
  negAbsInt n (Field.neg f) (Field.abs f) ((laneElem (VType.fmt ty) w j).setWidth n).toInt

/-- A lane computed element by element from the source lanes. -/
def laneBy (ty : VType) (f : Nat → W32) : W32 :=
  laneOf (VType.fmt ty) ((List.range (VType.fmt ty).perLane).map f)

/-- A lane of a floating-point function of the sources' values (R168). -/
def fpLane (ty : VType) (m : Rounding) (fs : List Field) (g : List Val → Val) (ws : List W32) : W32 :=
  laneBy ty fun j => roundElem ty m (g ((fs.zip ws).map fun (f, w) => fpElem ty f w j))

/-- A lane of an integer function of the sources' values, saturated or wrapped to the element (R169 S). -/
def intLane (ty : VType) (sat : Bool) (fs : List Field) (g : List Int → Int) (ws : List W32) : W32 :=
  laneBy ty fun j => (satOrWrap (VType.width ty) sat (g ((fs.zip ws).map fun (f, w) => intElem ty f w j))).setWidth 32

/-! ### One vector instruction -/

/-- A lane-by-lane result over source lanes (R87). -/
def lanesBy (srcs : List (Vector Lane 64)) (f : List W32 → Lane) : Vector Lane 64 :=
  Vector.ofFn fun i =>
    let ls := srcs.map fun v => v.get i
    Lane.combine ls (f (ls.map Lane.pattern))

/-- A lane-by-lane instruction (R163 to R166): `fs` are the fields it reads, `tags` the tags each accepts, `fp32` whether they are read
as FP32 numbers, `out` the tag of a result token. -/
def vecOp (o : Operands) (s : State) (fs : List (Nat × Field)) (tags : Nat → List Fmt) (fp32 : Bool) (out : Fmt)
    (f : List W32 → Lane) : Exec := do
  let mask := predBits (thread s).regs (Mod.pred o.mod)
  vecReady s o fs tags fp32 mask
  let r := lanesBy (fs.map fun (_, x) => vectorOf s x) f
  .ok (retire (writeVector (consumeAll s o) o.dst out mask r))

/-- Fields A; A and B; A, B and C with their numbers. -/
def fieldsA (o : Operands) : List (Nat × Field) := [(0, o.a)]
/-- Fields A and B. -/
def fieldsAB (o : Operands) : List (Nat × Field) := [(0, o.a), (1, o.b)]

/-- A function with a floating-point and an integer form, of the fields given (R168, R169). `rounds` says whether MOD's rounding mode
applies; where it does not, the result is exact. -/
def vecArith (ty : VType) (o : Operands) (s : State) (fs : List (Nat × Field)) (gf : Rounding → List Val → Val) (gi : List Int → Int) :
    Host.Outcome State Fault Refusal :=
  issue Places.sites o s (vecOp o s fs (fun _ => VType.tags ty) (ty == .f32) (VType.fmt ty) fun ws =>
    .data (if VType.isFp ty then fpLane ty (Mod.rounding o.mod) (fs.map (·.2)) (gf (Mod.rounding o.mod)) ws
           else intLane ty (Mod.sat o.mod) (fs.map (·.2)) gi ws))

/-- The first, second and third of a list of values. -/
def at0 {α : Type} (d : α) (l : List α) : α := l.headD d
/-- The second. -/
def at1 {α : Type} (d : α) (l : List α) : α := (l.drop 1).headD d
/-- The third. -/
def at2 {α : Type} (d : α) (l : List α) : α := (l.drop 2).headD d

/-- VADD (R168, R169). -/
def execVadd (ty : VType) (o : Operands) (s : State) : Host.Outcome State Fault Refusal :=
  vecArith ty o s (fieldsAB o) (fun m l => Val.add m (at0 .nan l) (at1 .nan l)) (fun l => at0 0 l + at1 0 l)
/-- VSUB (R168, R169). -/
def execVsub (ty : VType) (o : Operands) (s : State) : Host.Outcome State Fault Refusal :=
  vecArith ty o s (fieldsAB o) (fun m l => Val.add m (at0 .nan l) (Val.neg (at1 .nan l))) (fun l => at0 0 l - at1 0 l)
/-- VMUL (R168, R169). -/
def execVmul (ty : VType) (o : Operands) (s : State) : Host.Outcome State Fault Refusal :=
  vecArith ty o s (fieldsAB o) (fun _ l => Val.mul (at0 .nan l) (at1 .nan l)) (fun l => at0 0 l * at1 0 l)
/-- VFMA (R168, R169): one rounding. -/
def execVfma (ty : VType) (o : Operands) (s : State) : Host.Outcome State Fault Refusal :=
  vecArith ty o s (fieldsABC o) (fun m l => Val.add m (Val.mul (at0 .nan l) (at1 .nan l)) (at2 .nan l))
    (fun l => at0 0 l * at1 0 l + at2 0 l)
/-- VMIN (R168, R169). -/
def execVmin (ty : VType) (o : Operands) (s : State) : Host.Outcome State Fault Refusal :=
  vecArith ty o s (fieldsAB o) (fun _ l => Val.minV (at0 .nan l) (at1 .nan l)) (fun l => min (at0 0 l) (at1 0 l))
/-- VMAX (R168, R169). -/
def execVmax (ty : VType) (o : Operands) (s : State) : Host.Outcome State Fault Refusal :=
  vecArith ty o s (fieldsAB o) (fun _ l => Val.maxV (at0 .nan l) (at1 .nan l)) (fun l => max (at0 0 l) (at1 0 l))
/-- VABS (R168, R169). -/
def execVabs (ty : VType) (o : Operands) (s : State) : Host.Outcome State Fault Refusal :=
  vecArith ty o s (fieldsA o) (fun _ l => Val.abs (at0 .nan l)) (fun l => ((at0 0 l).natAbs : Int))
/-- VNEG (R168, R169). -/
def execVneg (ty : VType) (o : Operands) (s : State) : Host.Outcome State Fault Refusal :=
  vecArith ty o s (fieldsA o) (fun _ l => Val.neg (at0 .nan l)) (fun l => -(at0 0 l))
/-- VDIV (R168), in FP32 and BF16 only. -/
def execVdiv (ty : VType) (o : Operands) (s : State) : Host.Outcome State Fault Refusal :=
  vecArith ty o s (fieldsAB o) (fun _ l => Val.div (at0 .nan l) (at1 .nan l)) (fun l => at0 0 l)
/-- VSQRT (R168), in FP32 and BF16 only. -/
def execVsqrt (ty : VType) (o : Operands) (s : State) : Host.Outcome State Fault Refusal :=
  vecArith ty o s (fieldsA o) (fun _ l => Val.sqrt (at0 .nan l)) (fun l => at0 0 l)

/-! ### VCMP (R170) -/

/-- The condition between two elements (R170). -/
def elemHolds (ty : VType) (c : Cond) (fa fb : Field) (a b : W32) (j : Nat) : Bool :=
  if VType.isFp ty then Val.holds c (fpElem ty fa a j) (fpElem ty fb b j)
  else Cond.holds c (BitVec.ofInt (VType.width ty) (intElem ty fa a j)) (BitVec.ofInt (VType.width ty) (intElem ty fb b j))

/-- Whether lane values satisfy the condition: both data, and every element (R170). -/
def laneHolds (ty : VType) (c : Cond) (fa fb : Field) : Lane → Lane → Bool
  | .data a, .data b => (List.range (VType.fmt ty).perLane).all fun j => elemHolds ty c fa fb a b j
  | _, _ => false

/-- VCMP (R170): bit i for each active lane; the bits of inactive lanes are kept. -/
def execVcmp (ty : VType) (o : Operands) (s : State) : Host.Outcome State Fault Refusal :=
  issue Places.sites o s do
    let mask := predBits (thread s).regs (Mod.pred o.mod)
    vecReady s o (fieldsAB o) (fun _ => VType.tags ty) (ty == .f32) mask
    let a := vectorOf s o.a
    let b := vectorOf s o.b
    let r := (List.finRange 64).foldl (fun acc i =>
      if laneHolds ty (Mod.cond o.mod) o.a o.b (a.get i) (b.get i) then acc ||| ((1 : W64) <<< i.val) else acc) (0 : W64)
    .ok (retire (writePred (consumeAll s o) o.dst mask r))

/-! ### VSEL, VDOT4, shifts and logic -/

/-- VSEL (R168): whole lanes; it reads no numbers, so an abandoned pattern passes (R166). -/
def execVsel (ty : VType) (o : Operands) (s : State) : Host.Outcome State Fault Refusal :=
  issue Places.sites o s (vecOp o s (fieldsABC o) (fun _ => VType.tags ty) false (VType.fmt ty) fun ws =>
    .data (if bit (at2 0 ws) 0 then at0 0 ws else at1 0 ws))

/-- The sum of the four products of two INT8 lanes (R169). -/
def dot4 (a b : W32) : Int :=
  ((List.range 4).map fun j => ((bits a (8 * j) 8).toInt * (bits b (8 * j) 8).toInt)).foldl (· + ·) 0

/-- VDOT4 (R169): INT32 lanes of INT8 products; field C is INT32 (R164). -/
def execVdot4 (_ty : VType) (o : Operands) (s : State) : Host.Outcome State Fault Refusal :=
  issue Places.sites o s (vecOp o s (fieldsABC o) (fun n => if n = 2 then [.int32, .idx] else [.int8]) false .int32 fun ws =>
    .data (satOrWrap 32 (Mod.sat o.mod) ((at2 0 ws).toInt + dot4 (at0 0 ws) (at1 0 ws))))

/-- VSHL of an element: left by s, or arithmetically right by −s (R169). -/
def shlElem (w : Nat) (a : BitVec w) (s : Int) : BitVec w :=
  if s ≥ 0 then (if s ≥ w then 0 else a <<< s.toNat) else a.sshiftRight (min (-s).toNat (w - 1))

/-- VSHR of an element: logically right by s, or left by −s (R169). -/
def shrElem (w : Nat) (a : BitVec w) (s : Int) : BitVec w :=
  if s ≥ 0 then (if s ≥ w then 0 else a >>> s.toNat) else if -s ≥ w then 0 else a <<< (-s).toNat

/-- A shift, element by element. -/
def vecShift (ty : VType) (o : Operands) (s : State) (f : (w : Nat) → BitVec w → Int → BitVec w) : Host.Outcome State Fault Refusal :=
  issue Places.sites o s (vecOp o s (fieldsAB o) (fun _ => VType.tags ty) false (VType.fmt ty) fun ws =>
    .data (laneBy ty fun j =>
      (f (VType.width ty) (BitVec.ofInt (VType.width ty) (intElem ty o.a (at0 0 ws) j)) (intElem ty o.b (at1 0 ws) j)).setWidth 32))

/-- VSHL (R169). -/
def execVshl (ty : VType) (o : Operands) (s : State) : Host.Outcome State Fault Refusal := vecShift ty o s shlElem
/-- VSHR (R169). -/
def execVshr (ty : VType) (o : Operands) (s : State) : Host.Outcome State Fault Refusal := vecShift ty o s shrElem

/-- A bitwise function of 32-bit lanes (R169). -/
def vecLogic (ty : VType) (o : Operands) (s : State) (f : W32 → W32 → W32) : Host.Outcome State Fault Refusal :=
  issue Places.sites o s (vecOp o s (fieldsAB o) (fun _ => VType.tags ty) false (VType.fmt ty) fun ws =>
    .data (f (at0 0 ws) (at1 0 ws)))

/-- VAND (R169). -/
def execVand (ty : VType) (o : Operands) (s : State) : Host.Outcome State Fault Refusal := vecLogic ty o s fun a b => a &&& b
/-- VOR (R169). -/
def execVor (ty : VType) (o : Operands) (s : State) : Host.Outcome State Fault Refusal := vecLogic ty o s fun a b => a ||| b
/-- VXOR (R169). -/
def execVxor (ty : VType) (o : Operands) (s : State) : Host.Outcome State Fault Refusal := vecLogic ty o s fun a b => a ^^^ b

end Sys2Proof.Machine
end

