-- ==== Sys2Proof/Machine/Convert.lean ====
section
/-! DEFINITION. VCVT, and the lane rule of conversions that conversion nodes share (R70 to R72, R171, R172). -/

namespace Sys2Proof.Machine

/-- ABS and NEG on one element's pattern (R171): the sign of a floating-point element, or a signed value modulo 2^w. -/
def negAbsElem (f : Fmt) (neg abs : Bool) (x : W32) : W32 :=
  let n := Fmt.elemBits f
  match f with
  | .int32 => BitVec.ofInt 32 (negAbsInt 32 neg abs x.toInt)
  | .int8 => (BitVec.ofInt 8 (negAbsInt 8 neg abs (x.setWidth 8).toInt)).setWidth 32
  | .idx => x
  | .hxf4 => x
  | _ =>
    let sign : W32 := (1 : W32) <<< (n - 1)
    let x := if abs then x &&& ~~~sign else x
    if neg then x ^^^ sign else x

/-- The element of a source lane, with its mark: none for a lane that is not data. -/
structure Elem where
  lane : Nat
  mark : Lane
  pattern : W32
  deriving DecidableEq, Repr

/-- Element `k` of a vector in a format (R60). -/
def elemAt (f : Fmt) (ls : Vector Lane 64) (k : Nat) : Elem :=
  let i := k / f.perLane
  let l := (ls.toList)[i]?.getD .null
  { lane := i, mark := l, pattern := laneElem f (Lane.pattern l) (k % f.perLane) }

/-- The first conversion error among elements of data lanes. -/
def convErr (cv : W32 → Conv) : List Elem → Option (BitVec 4)
  | [] => none
  | e :: r =>
    match e.mark with
    | .data _ => (match cv e.pattern with | .error c => some c | .ok _ => convErr cv r)
    | _ => convErr cv r

/-- One output lane over the elements that it takes, lowest first (R72). -/
def convLane (fd : Fmt) (cv : W32 → Conv) (es : List Elem) : Lane :=
  match Lane.firstErr (es.map (·.mark)) with
  | some c => .err c
  | none =>
    match convErr cv es with
    | some c => .err c
    | none =>
      if es.all fun e => Lane.isNull e.mark then .null
      else .data (laneOf fd (es.map fun e =>
        match e.mark with
        | .data _ => (match cv e.pattern with | .ok x => x | .error _ => 0)
        | _ => 0))

/-- Where output lane `i` of part `p` takes its elements: the index of the first, if the part reaches the lane (R172). -/
def convFirst (fs fd : Fmt) (p i : Nat) : Option Nat :=
  let es := fs.perLane
  let ef := fd.perLane
  if es ≤ ef then
    if 64 * es * p ≤ i * ef ∧ i * ef < 64 * es * (p + 1) then some (i * ef - 64 * es * p) else none
  else some (64 * ef * p + i * ef)

/-- The elements of output lane `i` (R172). -/
def convElems (fs fd : Fmt) (p i : Nat) (ls : Vector Lane 64) : List Elem :=
  match convFirst fs fd p i with
  | some k => (List.range fd.perLane).map fun j => elemAt fs ls (k + j)
  | none => []

/-- The lanes that a part writes (R172). -/
def convMask (fs fd : Fmt) (p : Nat) : W64 :=
  (List.range 64).foldl (fun m i => if (convFirst fs fd p i).isSome then m ||| ((1 : W64) <<< i) else m) 0

/-- The source lanes that feed the output lanes of a mask: the active ones (R63, R171). -/
def convActive (fs fd : Fmt) (p : Nat) (mask : W64) : W64 :=
  (List.range 64).foldl (fun m i =>
    if bit mask i then
      match convFirst fs fd p i with
      | some k => (List.range fd.perLane).foldl (fun m j => m ||| ((1 : W64) <<< ((k + j) / fs.perLane))) m
      | none => m
    else m) 0

/-- The part P that field B gives (R171). -/
def convPart : Field → Nat
  | .lit w => w.toNat
  | _ => 0

/-- VCVT (R171, R172). -/
def execVcvt (fd fs : Fmt) (o : Operands) (s : State) : Host.Outcome State Fault Refusal :=
  issue Places.sites o s do
    let p := convPart o.b
    let mask := predBits (thread s).regs (Mod.pred o.mod)
    vecReady s o (fieldsA o) (fun _ => [fs]) (fs == .fp32) (convActive fs fd p mask)
    let cv (x : W32) : Conv := convert fs fd (Mod.rounding o.mod) (Mod.sat o.mod) (negAbsElem fs (Field.neg o.a) (Field.abs o.a) x)
    let src := vectorOf s o.a
    let r : Vector Lane 64 := Vector.ofFn fun i => convLane fd cv (convElems fs fd p i src)
    .ok (retire (writeVector (consumeAll s o) o.dst fd (mask &&& convMask fs fd p) r))

end Sys2Proof.Machine
end

