-- ==== Sys2Proof/Machine/MemAccess.lean ====
section
/-! DEFINITION. How an access reaches memory: addresses, extents and page lists, windows, the L1 and its messages, ordering, page faults
(R131, R132, R187, R196, R202 to R204, R216 to R221, R263 to R276, R398, R420). -/

namespace Sys2Proof.Machine

/-! ### Addresses (R131, R216, R397) -/

/-- A canonical 57-bit address: bits [63:56] are equal (R216). -/
def canonical (va : W64) : Bool := field va 56 8 == 0 || field va 56 8 == 255

/-- Whether an address lies in the local-store window (R131). -/
def inWindow (va : W64) : Bool := field va 48 16 == 0xFFFF

/-- The offset bits of the window: 16 on a site, 18 on a controller (R131, R397). -/
def windowBits (s : State) : Nat := if onSite s then 16 else 18

/-- The effective address of base and offset: a source that is not data traps EXTENT (R216). -/
def effective (base off : Scalar) : Except Stop W64 :=
  match base, off with
  | .data a, .data b => .ok (a + b)
  | _, _ => trapOf .extent

/-- An address must be canonical; it traps EXTENT, which comes after ALIGN (R139, R216). -/
def canonicalOr (va : W64) : Except Stop Unit := if canonical va then .ok () else trapOf .extent

/-- Alignment (R218). -/
def aligned (va : W64) (n : Nat) : Except Stop Unit := if va.toNat % n = 0 then .ok () else trapOf .align

/-! ### Space and page tables (R262 to R265) -/

/-- The space-table entry of a space as a die reads it (R264, R279). -/
def spaceEntry (s : State) (die space : Nat) : W128 :=
  BitVec.ofNat 128 (leNat (homeRead s ((dieOf s die).sptBase.toNat / 4096 * 4096 + 16 * space) 16))

/-- GEN of a space (R264). -/
def spaceGen (s : State) (die space : Nat) : Nat := field (spaceEntry s die space) 64 8
/-- SV of a space (R264). -/
def spaceValid (s : State) (die space : Nat) : Bool := bit (spaceEntry s die space) 0

/-- Whether the memory unit behind an address came up (R443, R445): an address whose unit failed its training is reserved. The stacks
of a die hold consecutive 64 GiB each (log 19). -/
def physReady (s : State) (pa : Nat) : Bool :=
  match physKind pa with
  | .hbm d => bit s.dbg.ready (1 + 3 * d + (pa - 0x3000000000 * d) / 0x1000000000)
  | .lpddr d => bit s.dbg.ready (13 + d)
  | .reserved => false
  | _ => true

/-- The window that serves an address: the lowest that covers it (R187, R401). -/
def windowAt (s : State) (pa : Nat) : Option Window := s.glob.windows.toList.find? (Window.covers · pa)

/-- Whether an address is present for a mapping: its unit is up, and a window covers it (R187, R263). -/
def mappable (s : State) (pa : Nat) : Bool :=
  match physKind pa with
  | .far => (windowAt s pa).isSome
  | _ => physReady s pa

/-- Whether a page of 2^n bytes maps into no reserved range (R263): its first and its last byte do not, since every range of R187 but the bank
memory's begins and ends at a whole GiB. -/
def mappablePage (s : State) (pa n : Nat) : Bool := mappable s pa && mappable s (pa + 2 ^ n - 1)

/-- A leaf that a walk found: the page's physical base, its log2 size, and W (R262, R263). -/
structure Leaf where
  pbase : Nat
  log2 : Nat
  writable : Bool
  deriving DecidableEq, Repr

/-- Whether an entry has a reserved bit set (R263). -/
def pteReserved (e : W64) : Bool := field e 52 12 != 0 || field e 3 5 != 0

/-- PA of an entry: bits [51:8] (R263). -/
def ptePa (e : W64) : Nat := field e 8 44 * 256

/-- The page size of a leaf at a level (R262). -/
def leafLog2 : Nat → Nat
  | 0 => 16
  | 1 => 21
  | _ => 30

/-- The index of a level (R262). -/
def levelIndex (va : W64) (level : Nat) : Nat :=
  if level = 0 then field va 16 5 else field va (21 + 9 * (level - 1)) 9

/-- The walk from a table at a level down (R262, R263). -/
def walkFrom (s : State) (va : W64) : Nat → Nat → Option Leaf
  | level, table =>
    let e : W64 := BitVec.ofNat 64 (leNat (homeRead s (table + 8 * levelIndex va level) 8))
    let leaf : Option Leaf :=
      let n := leafLog2 level
      if ptePa e % 2 ^ n = 0 && mappablePage s (ptePa e) n then some { pbase := ptePa e, log2 := n, writable := bit e 1 } else none
    if !bit e 0 || pteReserved e then none
    else
      match level with
      | 0 => leaf
      | n + 1 =>
        if bit e 2 then (if n + 1 ≤ 2 then leaf else none)
        else if ptePa e % (if n = 0 then 256 else 4096) = 0 then walkFrom s va n (ptePa e) else none

/-- A whole walk in a space, from its level-4 table; index 511 of that level covers the local-store window and is never walked (R262, R264). -/
def walkPage (s : State) (die space : Nat) (va : W64) : Option Leaf :=
  if levelIndex va 4 = 511 then none else walkFrom s va 4 (field (spaceEntry s die space) 12 40 * 4096)

/-- The physical address that a walk gives. -/
def walkPa (s : State) (die space : Nat) (va : W64) : Option Nat :=
  (walkPage s die space va).map fun l => l.pbase + va.toNat % 2 ^ l.log2

/-! ### Extents of a task (R132, R266 to R268) -/

/-- Whether an extent wholly contains an access and its mode permits it: bit 0 r, bit 1 w (R134, R268). -/
def Extent.permits (e : Extent) (va : W64) (n : Nat) (rd wr : Bool) : Bool :=
  decide (e.vbase.toNat ≤ va.toNat) && decide (va.toNat + n ≤ e.vbase.toNat + e.len) && (!rd || bit e.mode 0) && (!wr || bit e.mode 1)

/-- The lowest-numbered extent that serves an access (R268). -/
def extentFor (t : Task) (va : W64) (n : Nat) (rd wr : Bool) : Option (Nat × Extent) :=
  (t.extents.zipIdx.find? fun (e, _) => Extent.permits e va n rd wr).map fun (e, i) => (i, e)

/-- Where an access goes. -/
inductive Target where
  | localStore (off : Nat)
  | mem (pa : Nat)
  | page (protect : Bool)
  deriving DecidableEq, Repr

/-- The granule of an address within an extent (R266). -/
def granuleNo (e : Extent) (va : W64) : Nat := va.toNat / 65536 - e.vbase.toNat / 65536

/-- F, W, V, GEN and the physical base of a granule entry (R266). -/
def granuleFilled (g : W64) : Bool := bit g 2
/-- W of a granule entry (R266). -/
def granuleWritable (g : W64) : Bool := bit g 1
/-- V of a granule entry (R266). -/
def granulePresent (g : W64) : Bool := bit g 0
/-- GEN of a granule entry (R266). -/
def granuleGen (g : W64) : Nat := field g 8 8
/-- The physical address of a granule (R266). -/
def granuleBase (g : W64) : Nat := field g 16 36 * 65536

/-- A granule entry (R266): filled, for a page present at a physical address or for one that is not present. -/
def granuleWord (page : Option (Nat × Bool)) (gen : Nat) : W64 :=
  match page with
  | some (pa, w) => BitVec.ofNat 64 (pa / 65536 * 65536 + gen % 256 * 256 + 4 + (if w then 2 else 0) + 1)
  | none => BitVec.ofNat 64 (gen % 256 * 256 + 4)

/-- Translation of one access of a task that has its extent (R268): it stalls while the entry is unfilled or of an older generation. -/
def translateIn (s : State) (k : TaskKey) (i : Nat) (e : Extent) (va : W64) (wr : Bool) : Except Stop Target :=
  let g := Tab.get 0 e.granules (granuleNo e va)
  if !granuleFilled g || granuleGen g != spaceGen s (k.core / 4) e.space then
    .error (.stall (pushOnce s (.granuleRefill k i (granuleNo e va))))
  else if !granulePresent g then .ok (.page false)
  else if wr && !granuleWritable g then .ok (.page true)
  else .ok (.mem (granuleBase g + va.toNat % 65536))

/-- The window access of an address that lies in it (R131, R397). -/
def windowTarget (s : State) (va : W64) : Except Stop Target :=
  if va.toNat % 2 ^ 48 < 2 ^ windowBits s then .ok (.localStore (va.toNat % 2 ^ 48)) else trapOf .extent

/-- Translation of one access of `n` bytes by the executing agent (R132, R268, R398). -/
def translate (s : State) (va : W64) (n : Nat) (rd wr : Bool) : Except Stop Target :=
  if !canonical va then trapOf .extent
  else if inWindow va then windowTarget s va
  else
    match s.cur with
    | .task k =>
      match extentFor (taskOf s k) va n rd wr with
      | some (i, e) => translateIn s k i e va wr
      | none => trapOf .extent
    | _ =>
      if va.toNat < 2 ^ 52 then
        match physKind va.toNat with
        | .reserved => .error (.fault (.reservedPhysical va.toNat))
        | _ => if physReady s va.toNat then .ok (.mem va.toNat) else .error (.fault (.reservedPhysical va.toNat))
      else trapOf .extent

/-! ### Host and fabric windows (R195, R213, R420, R423) -/

/-- What a far address reaches: a host, by its die, or another package, by the port over which the request goes out. -/
inductive Far where
  | host (die : Nat)
  | fabric (port : Nat)
  | unreachable
  deriving DecidableEq, Repr

/-- Where the route table's entry of a fabric node lies (R401, R418). -/
def routeEntry (s : State) (node : Nat) : Nat := 4096 * field s.glob.rtBase 12 40 + 8 * node

/-- The route mask of a fabric node (R418). -/
def routeMask (s : State) (node : Nat) : BitVec 18 := BitVec.ofNat 18 (leNat (homeRead s (routeEntry s node) 4))

/-- How a die's requests reach the granule of an address through a fabric window: as its remote translation cache holds it, or as the window and
the route table give it (R419). -/
def remoteEntry (s : State) (die : Nat) (w : Window) (pa : Nat) : RemoteEntry :=
  let node := field w.tgt 4 12
  let incarn : BitVec 16 := bits w.tgt 16 16
  ((dieOf s die).remoteCache.find? fun e => e.granule == pa / 2 ^ 30 && e.node == node && e.incarn == incarn).getD
    { granule := pa / 2 ^ 30, node := node, route := routeMask s node, incarn := incarn }

/-- The lowest-numbered port of a mask that is up (R418). -/
def portOf (s : State) (route : BitVec 18) : Option Nat := (List.range 18).find? fun i => bit route i && bit s.glob.floholtUp i

/-- What serves a far address for a die, or nothing: no window, a stale window, no port up or no CXL port (R187, R418, R420, R423). -/
def farTarget (s : State) (die pa : Nat) : Far :=
  match windowAt s pa with
  | none => .unreachable
  | some w =>
    if bit w.tgt 1 then (if bit s.glob.cxlUp (field w.tgt 2 2) then .host (field w.tgt 2 2) else .unreachable)
    else if bit w.tgt 32 then .unreachable
    else
      match portOf s (remoteEntry s die w pa).route with
      | some p => .fabric p
      | none => .unreachable

/-- Whether an access at a scope goes to the place where it is performed at once, and retires only then (R213, R221, R420). -/
def farSync (s : State) (pa : Nat) (scope : Scope) : Bool :=
  match physKind pa with
  | .far => if (windowAt s pa).any fun w => bit w.tgt 1 then scope == .fabric || scope == .system else true
  | _ => false

/-- The half of a line that a byte lies in, at its proxy (R209). -/
def halfState (h : HomeLine) (pa : Nat) : Half := if pa % 128 < 64 then h.half0 else h.half1

/-- Whether a far address may be used in the state its half has: for writing it must be Exclusive, for reading not Invalid (R210). -/
def halfReady (s : State) (pa : Nat) (wr : Bool) : Bool :=
  match physKind pa with
  | .far =>
    match halfState (homeLine s (pa / 128)) pa with
    | .invalid => false
    | .shared => !wr
    | .exclusive => true
  | _ => true

/-- The number of a half: two for each line (R209). -/
def halfNo (pa : Nat) : Nat := pa / 64

/-- Asks the host for a half: its answer is a step to come (R210, R212). -/
def askHost (s : State) (pa : Nat) (wr : Bool) : State :=
  let h := homeLine s (pa / 128)
  let h := if pa % 128 < 64 then { h with waiting0 := h.waiting0 || wr } else { h with waiting1 := h.waiting1 || wr }
  pushOnce (setHomeLine s (pa / 128) h) (.hostAnswer (halfNo pa))

/-- The halves that `n` bytes touch, by their first bytes (R209). -/
def halvesOf (pa n : Nat) : List Nat := (List.range ((pa + n - 1) / 64 - pa / 64 + 1)).map fun i => 64 * (pa / 64 + i)

/-- Bytes that a read returns from another package: free values (R195, log 14). -/
def remoteBytes (s : State) (pa n : Nat) : List Byte := (List.range n).map fun i => Config.remoteWord s.clock (pa + i)

/-- A request over the fabric from a die, if the address lies there: it goes out on its port with the incarnation expected, and its granule is
in the die's cache of 256 entries, which gives up its oldest (R401 WINRBASE, R418, R419). -/
def noteRemote (s : State) (die pa : Nat) (content : List Byte) : State :=
  match physKind pa, farTarget s die pa, windowAt s pa with
  | .far, .fabric p, some w =>
    let e := remoteEntry s die w pa
    let d := dieOf s die
    let out : RemoteOut :=
      { port := p, node := e.node, incarn := e.incarn, content := content,
        pa := w.rbase.toNat / 2 ^ 30 * 2 ^ 30 + (pa - w.base.toNat / 2 ^ 30 * 2 ^ 30) }
    setDie s die { d with sent := some out,
                          remoteCache := if d.remoteCache.contains e then d.remoteCache
                                         else d.remoteCache.drop (d.remoteCache.length - 255) ++ [e] }
  | _, _, _ => s

/-- The die from which the executing agent accesses memory. -/
def curDie (s : State) : Nat :=
  match s.cur with
  | .task k => k.core / 4
  | .leaf c => c / 4
  | .global => s.glob.active

/-- Whether a core owns a word of `n` bytes (R195). -/
def coreOwned (s : State) (pa n : Nat) : Bool :=
  (List.range n).any fun i => match ownerAt s (pa + i) with | some c => decide (c < 16) | none => false

/-- REVOKE to every core that owns a word of `n` bytes (R199). -/
def revokeBytes (s : State) (pa n : Nat) : State := (linesOf pa n).foldl (fun s l => sendRevokes s l (wordsIn l pa n)) s

/-- A place at which an access can be performed now (R199, R200, R210, R213, R227): no word is being revoked, the host holds none, a host line's
halves are Exclusive where that is asked for, and before a write no core owns a word. Otherwise it stalls, after asking the host or
revoking the owners if that is what it waits for. -/
def placeReady (s : State) (pa n : Nat) (excl wr : Bool) : Except Stop Unit :=
  if homeBusy s pa n then
    .error (.stall (if (List.range n).any (fun i => ownerAt s (pa + i) == some 16) then askHost s pa wr else s))
  else
    match (halvesOf pa n).find? fun h => !halfReady s h excl with
    | some h => .error (.stall (askHost s h excl))
    | none => if wr && coreOwned s pa n then .error (.stall (revokeBytes s pa n)) else .ok ()

/-! ### Errors of HBM4E and LPDDR (R450, R451) -/

/-- Whether an uncorrectable error stands in a line (R451). -/
def lineBad (s : State) (line : Nat) : Bool := (Tab.find? s.badLines line).isSome

/-- Whether `n` bytes lie in a line with an error. -/
def badIn (s : State) (pa n : Nat) : Bool := (linesOf pa n).any (lineBad s)

/-- The launch of the executing agent. -/
def curLaunch (s : State) : Option Nat :=
  match s.cur with
  | .task k => (refOf s k).map (·.launch)
  | _ => none

/-- A read by a launch finds an error again: its containment is a step to come (R451). -/
def reportBad (s : State) (l pa : Nat) : State := pushOnce s (.uncorrectableError (.dramAgain pa l))

/-- A read by a launch of bytes in a line with an error returns nothing: it waits while the error is reported, which kills the launch (R450,
R451; that a read by no launch goes on is the model's choice, log 140). -/
def soundFor (s : State) (l : Option Nat) (pa n : Nat) : Except Stop Unit :=
  match l with
  | some l => if badIn s pa n then .error (.stall (reportBad s l pa)) else .ok ()
  | none => .ok ()

/-! ### The L1 (R189, R196, R198) -/

/-- A core's L1 sends a write-back (R198). It overtakes a read of the line that is under way, whose DATA may hold the words as they were
before (R220, log 24). -/
def sendWb (s : State) (c line : Nat) (mask : W32) : State :=
  let l := l1Line (coreOf s c) line
  let m := l.owned &&& mask
  let s := push s (.wb c line l.content (l.dirty &&& wordsToBytes m) m)
  let x := Core.overtake (coreOf s c) (· == line)
  setCore s c { x with wbOut := x.wbOut ++ [(line, m, l.lids.filter fun (w, _) => bit m w)] }

/-- The set of a line: 1,024 sets (R189), by the line number (log 20). -/
def setOf (line : Nat) : Nat := line % 1024

/-- The line that a full set gives up: the lowest priority, and among equals the least recently used (R189). -/
def victim (x : Core) (line : Nat) : Option Nat :=
  let set := x.l1.filter fun (n, _) => setOf n == setOf line
  if set.any (·.1 == line) || set.length < 12 then none
  else
    match set with
    | [] => none
    | a :: r => some (r.foldl (fun b c => if c.2.prio < b.2.prio || (c.2.prio == b.2.prio && c.2.used < b.2.used) then c else b) a).1

/-- A line evicted: owned words are written back, clean copies go silently (R189, R198). -/
def evict (s : State) (c line : Nat) : State :=
  let s := if (l1Line (coreOf s c) line).owned = 0 then s else sendWb s c line (BitVec.allOnes 32)
  setCore s c { coreOf s c with l1 := Tab.del (coreOf s c).l1 line }

/-- Room for a line in its set (R189). -/
def makeRoom (s : State) (c line : Nat) : State :=
  match victim (coreOf s c) line with
  | some v => evict s c v
  | none => s

/-- A line used at a priority: a higher priority raises it (R189). -/
def L1Line.touch (l : L1Line) (prio clock : Nat) : L1Line := { l with prio := max l.prio prio, used := clock }

/-- Bytes of one line written into it from offset `off` (R196). -/
def L1Line.write (l : L1Line) : Nat → List Byte → L1Line
  | _, [] => l
  | off, b :: r =>
    L1Line.write { l with content := setLineByte l.content off b, dirty := l.dirty ||| ((1 : W128) <<< off) } (off + 1) r

/-- The line that DATA leaves in an L1 (R189, R198): owned words keep their dirty bytes and fill the others; the other words become clean
copies. Words that a half-held line does not give stay as they are (R211). -/
def L1Line.fill (l : L1Line) (content : LineData) (words : W32) : L1Line :=
  let given := wordsToBytes words
  let ownedBytes := wordsToBytes (l.owned &&& words)
  { l with content := mergeLine l.content content (given &&& ~~~(l.dirty &&& ownedBytes)), valid := l.valid ||| (ownedBytes &&& ~~~l.dirty),
           clean := (l.clean ||| words) &&& ~~~l.owned }

/-- The launch of a writer. -/
def Writer.launch : Writer → Nat
  | .task r => r.launch
  | .node l _ => l

/-- A registration under way that a store of some of its words rides on: the store waits for the same REGACK (R196, R204). -/
def RegOut.join (o : RegOut) (line : Nat) (mask : W32) (who : Writer) : RegOut :=
  if o.line == line && (o.mask &&& mask) != 0 && !o.who.contains who then { o with who := o.who ++ [who] } else o

/-- The launch that a line's words were stored by (R208, log 48). -/
def L1Line.storedBy (l : L1Line) (mask : W32) (launch : Nat) : L1Line :=
  { l with lids := (List.range 32).foldl (fun t w => if bit mask w then Tab.put t w launch else t) l.lids }

/-- Words of a line that this core registers for a store: those that it does not own become owned at once, and REG goes to the home (R196);
a store of words whose REG is unanswered rides on it. Bytes that are not dirty are not valid until a DATA fills them, a clean copy's too
(R189, log 21). -/
def registerWords (s : State) (c line : Nat) (who : Writer) (mask : W32) : State :=
  let x := coreOf s c
  let x := { x with regsOut := x.regsOut.map fun o => RegOut.join o line mask who }
  let l := l1Line x line
  let new := mask &&& ~~~l.owned
  let x := Core.setLine x line (L1Line.storedBy { l with owned := l.owned ||| new, clean := l.clean &&& ~~~new } mask (Writer.launch who))
  if new = 0 then setCore s c x
  else
    let x := { x with regsOut := x.regsOut ++ [{ who := [who], line := line, mask := new, lost := false }] }
    push (setCore s c (Core.overtake x (· == line))) (.reg c line new)

/-- A write of bytes within one line through a core's L1 (R196). -/
def l1Write (s : State) (c pa : Nat) (bs : List Byte) (who : Writer) (prio : Nat) : State :=
  let line := pa / 128
  let s := makeRoom s c line
  let s := registerWords s c line who (wordsOf (pa % 128) bs.length)
  let l := L1Line.touch (L1Line.write (l1Line (coreOf s c) line) (pa % 128) bs) prio s.clock
  setCore s c (Core.setLine (coreOf s c) line l)

/-- Whether `n` bytes within one line can be read in a core's L1 (R189). -/
def l1Has (s : State) (c pa n : Nat) : Bool :=
  let r := L1Line.readable (l1Line (coreOf s c) (pa / 128))
  (List.range n).all fun i => bit r (pa % 128 + i)

/-- `n` bytes within one line as a core's L1 holds them. -/
def l1Bytes (s : State) (c pa n : Nat) : List Byte :=
  (List.range n).map fun i => lineByte (l1Line (coreOf s c) (pa / 128)).content (pa % 128 + i)

/-! ### Hotness (R277, R278) -/

/-- The entry of a window in a hotness table, or where a new one goes: a full table gives up its least delivered entry that is not queued
(R277). -/
def hotPlace (t : List HotEntry) (space window : Nat) : Option (List HotEntry × HotEntry) :=
  let new : HotEntry := { space := space, window := window, deliv := 0, starve := 0, queued := false, requeued := false }
  match t.find? fun e => e.space == space && e.window == window with
  | some e => some (t.filter (· != e), e)
  | none =>
    if t.length < 4096 then some (t, new)
    else
      match t.filter (!·.queued) with
      | [] => none
      | a :: r =>
        let v := r.foldl (fun b c => if c.deliv < b.deliv then c else b) a
        some (t.filter (· != v), new)

/-- A line delivered to a stream port: DELIV counts it, and STARVE the cycles waited, which are free (R277, log 3); a counter that crosses
its threshold is a step to come (R278). -/
def hotCount (s : State) (die space : Nat) (va : W64) : State :=
  let d := dieOf s die
  match hotPlace d.hot space (va.toNat % 2 ^ 57 / 2 ^ 21) with
  | none => s
  | some (rest, e) =>
    let e' := { e with deliv := min (e.deliv + 1) (2 ^ 24 - 1), starve := min (e.starve + Config.cycles s.clock) (2 ^ 24 - 1) }
    let s := setDie s die { d with hot := rest ++ [e'] }
    let crosses (a b thr : Nat) : Bool := decide (a < thr ∧ thr ≤ b)
    if crosses e.deliv e'.deliv d.hotDeliv.toNat || crosses e.starve e'.starve d.hotStarve.toNat then
      push s (.hotnessCrossing die e.space e.window)
    else s

/-- A read miss of an access at a priority: RDREQ for the line, once (R189, R198); it names the words that the access needs, since a home may
hold one half of a line only (R211, log 119). The line is delivered to a stream port, and counted (R277). A launch's access to a line with an
uncorrectable error reports that (R451). -/
def requestLine (s : State) (l : Option Nat) (c space : Nat) (va : W64) (pa n prio : Nat) : State :=
  let line := pa / 128
  if l.isSome && lineBad s line then reportBad s (l.getD 0) pa
  else if (coreOf s c).readsOut.any (·.1 == line) then s
  else
    let s := hotCount s (c / 4) space va
    push (setCore s c { coreOf s c with readsOut := (coreOf s c).readsOut ++ [(line, prio)] }) (.rdreq c { line := line, need := wordsOf (pa % 128) n })

/-- Clean copies dropped from a line for the words of a mask. -/
def Core.dropClean (x : Core) (line : Nat) (mask : W32) : Core :=
  Core.setLine x line { l1Line x line with clean := (l1Line x line).clean &&& ~~~mask }

/-- Every clean copy dropped from an L1 (R203). -/
def Core.dropAllClean (x : Core) : Core :=
  { Core.overtake x (fun _ => true) with l1 := (x.l1.map fun (n, l) => (n, { l with clean := 0 })).filter fun (_, l) => l.owned ≠ 0 }

/-- Clean copies of words that overlap `n` bytes of physical memory dropped (R206, R234). -/
def dropRange (s : State) (c pa n : Nat) : State :=
  let x := coreOf s c
  let ls := (x.l1.map (·.1)).filter fun l => decide (pa < 128 * l + 128) && decide (128 * l < pa + n)
  setCore s c (Core.overtake (ls.foldl (fun x l => Core.dropClean x l (wordsIn l pa n)) x)
    fun l => decide (pa < 128 * l + 128) && decide (128 * l < pa + n))

/-- The physical pieces of a virtual range, page granule by granule, as the space maps it now. -/
def pieces (s : State) (die space : Nat) (va : W64) (n : Nat) : List (Nat × Nat) :=
  (List.range ((va.toNat + n - 1) / 65536 - va.toNat / 65536 + 1)).filterMap fun i =>
    let lo := max va.toNat (65536 * (va.toNat / 65536 + i))
    let hi := min (va.toNat + n) (65536 * (va.toNat / 65536 + i + 1))
    (walkPa s die space (BitVec.ofNat 64 lo)).map fun pa => (pa, hi - lo)

/-- Clean copies of a virtual range dropped from a core's L1. -/
def dropVirtual (s : State) (c space : Nat) (va : W64) (n : Nat) : State :=
  (pieces s (c / 4) space va n).foldl (fun s (pa, m) => dropRange s c pa m) s

/-! ### Scopes and ordering (R203, R204, R220, R245) -/

/-- Whether a scope extends beyond one core (R203, R204). -/
def beyondCore (s : State) (k : TaskKey) : Scope → Bool
  | .task => false
  | .site => false
  | .core => false
  | .region =>
    match regionOf s (refOr s k).launch (refOr s k).region with
    | some g => decide (1 < (Region.cores g).length)
    | none => false
  | _ => true

/-- Whether an ordering acquires. -/
def MemOrder.acquires : MemOrder → Bool
  | .acq => true
  | .acqrel => true
  | _ => false

/-- Whether an ordering releases. -/
def MemOrder.releases : MemOrder → Bool
  | .rel => true
  | .acqrel => true
  | _ => false

/-- Ordering of the memory class (R98). -/
def Mod.order : Mod → MemOrder
  | .mem o _ _ => o
  | _ => .rlx
/-- Scope of the memory class. -/
def Mod.scope : Mod → Scope
  | .mem _ s _ => s
  | _ => .task
/-- Eviction priority of the memory class. -/
def Mod.evict : Mod → Nat
  | .mem _ _ e => e.val
  | _ => 3

/-- What a task has acquired happens before its later accesses, and so do the writes of its core that are not registered yet, whoever made
them: a later release of the task waits for them too (R249, R251). -/
def adopt (s : State) (k : TaskKey) : State :=
  let x := coreOf s k.core
  let r := refOr s k
  setCore s k.core
    { x with regsOut := x.regsOut.map fun o => if o.who.contains (.task r) then o else { o with who := o.who ++ [.task r] },
             sideLog := x.sideLog.map fun e => if e.task == r || e.also.contains r then e else { e with also := e.also ++ [r] } }

/-- An acquire performed by a task: clean copies go when the scope extends beyond one core (R203). -/
def acquireBy (s : State) (k : TaskKey) (scope : Scope) : State :=
  let s := adopt s k
  if beyondCore s k scope then setCore s k.core (Core.dropAllClean (coreOf s k.core)) else s

/-- An acquire of the executing agent; a controller has no L1 (R398). -/
def acquire (s : State) (ord : MemOrder) (scope : Scope) : State :=
  if MemOrder.acquires ord then
    match s.cur with
    | .task k => acquireBy s k scope
    | _ => s
  else s

/-- Whether a producer is an access that is not performed yet (R220). -/
def ProducerState.unperformed : ProducerState → Bool
  | .load _ _ _ _ => true
  | .heldAtomic _ _ _ _ _ _ _ _ => true
  | .writeBack _ => true
  | _ => false

/-- Whether a registration counts among a task's: of its own stores, or put before its accesses by an acquire (R204, R249). -/
def RegOut.of (r : TaskRef) (o : RegOut) : Bool := o.who.contains (.task r)

/-- Whether a side-log entry counts among a task's (R204, R249). -/
def LogEntry.of (r : TaskRef) (e : LogEntry) : Bool := e.task == r || e.also.contains r

/-- Whether every earlier load and atomic of a thread is performed (R220). -/
def Thread.performed (t : Thread) : Bool := t.producers.all fun p => !ProducerState.unperformed p.state

/-- Whether every earlier access of a task is performed, and R204 is met for a scope (R204, R220). -/
def released (s : State) (k : TaskKey) (scope : Scope) : Bool :=
  let x := coreOf s k.core
  let r := refOr s k
  Thread.performed (threadOf s (.task k)) &&
    (!beyondCore s k scope || (x.regsOut.all (fun o => !RegOut.of r o) && x.sideLog.all (fun e => !LogEntry.of r e)))

/-- Whether a scope reaches other packages or hosts (R245). -/
def Scope.far : Scope → Bool
  | .fabric => true
  | .system => true
  | _ => false

/-- Whether every earlier access of a task to another package or a host window has been acknowledged where it is performed (R245). Where an
access whose page is absent will go is not known yet: it counts (log 120). -/
def farAcked (s : State) (k : TaskKey) : Bool :=
  let x := coreOf s k.core
  let r := refOr s k
  Thread.performed (threadOf s (.task k)) && x.sideLog.all (fun e => !LogEntry.of r e) &&
    x.regsOut.all fun o => !(RegOut.of r o && physKind (128 * o.line) == .far)

/-- Whether a registration of a task's was lost because its host could not be reached (R420). -/
def regLost (s : State) (k : TaskKey) : Bool := (coreOf s k.core).regsOut.any fun o => o.lost && RegOut.of (refOr s k) o

/-- A release that waits for a lost registration traps REMOTE_UNREACHABLE, once (R420). -/
def lostTrap (s : State) (k : TaskKey) : State :=
  let r := refOr s k
  let x := coreOf s k.core
  let drop (o : RegOut) : RegOut := if o.lost then { o with who := o.who.filter (· != .task r) } else o
  takeTrap .remoteUnreachable 3 0
    (setCore s k.core { x with regsOut := (x.regsOut.map drop).filter fun o => !(o.lost && o.who.isEmpty) })

/-- Whether an acquire of a task is still to be performed: a producer's, or that of an update in the side log (R220, R276). -/
def acquiring (s : State) : Bool :=
  (thread s).producers.any (·.acq.isSome) ||
    (match s.cur with
     | .task k => (coreOf s k.core).sideLog.any fun e => e.task == refOr s k && MemOrder.acquires e.ord
     | _ => false)

/-- The gate of every access (R220, R221, R243, R245): an outstanding acquire holds later accesses, a release waits for its condition, and an
acquire at fabric or system scope for the acknowledgements of the earlier accesses to windows. -/
def memGate (s : State) (ord : MemOrder) (scope : Scope) : Except Stop Unit :=
  if acquiring s then .error (.stall s)
  else
    match s.cur with
    | .task k =>
      if MemOrder.releases ord then
        if beyondCore s k scope && regLost s k then .error (.stall (lostTrap s k))
        else if released s k scope then .ok () else .error (.stall s)
      else if MemOrder.acquires ord && Scope.far scope && !farAcked s k then
        .error (.stall (if regLost s k then lostTrap s k else s))
      else .ok ()
    | _ => .ok ()

/-- Whether a producer counts among the 16 that a task may have outstanding: a load, an atomic, a bank operation or a barrier query (R244). -/
def ProducerState.counted : ProducerState → Bool
  | .load _ _ _ _ => true
  | .heldAtomic _ _ _ _ _ _ _ _ => true
  | .performed _ => true
  | .barrier _ _ _ _ => true
  | _ => false

/-- A task may have 16 loads, atomics, bank operations and barrier queries outstanding; a further one waits at issue (R244). -/
def producerRoom (s : State) : Except Stop Unit :=
  if ((thread s).producers.filter fun p => ProducerState.counted p.state).length < 16 then .ok () else .error (.stall s)

/-- An access whose result is known as it is performed: its destination fills when it completes (R121, R244). -/
def produceAccess (s : State) (d : Dst) (f : Fill) : State :=
  match d with
  | .none => s
  | _ => startProducer s d (.performed f) none

/-- The same for a scalar result: into s0 to s63, or nowhere. -/
def produceAccessS (s : State) (d : Dst) (x : Scalar) : State :=
  match d with
  | .s i => produceAccess s d (.scalar i x)
  | _ => s

/-! ### Page faults (R272, R273, R275) -/

/-- The fault record of a task's access (R272). -/
def taskFault (s : State) (k : TaskKey) (va : W64) (protect : Bool) (kind : AccessKind) (slog : W32) : FaultInfo :=
  let r := refOr s k
  let space := (launchOf s r.launch).space
  { core := k.core, va := va, space := space, gen := spaceGen s (k.core / 4) space, protect := protect, access := kind,
    source := r.y * 16 + r.x, task := k.slot, sourceKind := 0, launch := r.launch, slog := slog }

/-- A record that is already to come, or unresolved, for the same granule of the same space (R272). -/
def sameGranule (a b : FaultInfo) : Bool := a.core == b.core && a.space == b.space && a.va.toNat / 65536 == b.va.toNat / 65536

/-- Whether a fault of the granule is on its way or unresolved. -/
def faultKnown (s : State) (f : FaultInfo) : Bool :=
  (coreOf s f.core).faults.any (fun e => sameGranule e.info f) || (coreOf s f.core).faultQueue.any (fun e => sameGranule e f) ||
    s.agenda.any fun e => match e with | .faultRecord g => sameGranule g f | _ => false

/-- Reports a fault: one record for each granule of a space (R272). -/
def reportFault (s : State) (f : FaultInfo) : State := if faultKnown s f then s else push s (.faultRecord f)

/-- A number that no entry of the side log holds, from the next one on (R272, R275; log 121). -/
def freeLogId (x : Core) : Nat :=
  (((List.range 512).map fun i => (x.nextLog + i) % 512).find? fun i => x.sideLog.all (·.id != i)).getD x.nextLog

/-- Whether the side log has room for `n` entries (R275). -/
def logRoom (s : State) (k : TaskKey) (n : Nat) : Bool := decide ((coreOf s k.core).sideLog.length + n ≤ 512)

/-- An entry appended to the side log, and its drain to come (R275, R276); the number that it took. -/
def addLog (s : State) (c : Nat) (e : LogEntry) : State × Nat :=
  let x := coreOf s c
  let id := freeLogId x
  (push (setCore s c { x with sideLog := x.sideLog ++ [{ e with id := id }], nextLog := (id + 1) % 512 }) (.sideLogDrain c id), id)

/-- A store, or an operation without a destination, retires into the side log, with the record of its page fault if it met one (R273,
R275). -/
def logAccess (s : State) (k : TaskKey) (e : LogEntry) (fault : Option (W64 × Bool)) (kind : AccessKind) : State :=
  let (t, id) := addLog s k.core e
  match fault with
  | some (va, protect) => reportFault t (taskFault s k va protect kind (BitVec.ofNat 32 id))
  | none => t

/-- Whether two byte ranges overlap. -/
def overlaps (a : W64) (n : Nat) (b : W64) (m : Nat) : Bool :=
  decide (0 < n) && decide (0 < m) && decide (a.toNat < b.toNat + m) && decide (b.toNat < a.toNat + n)

/-- The length of a log entry's access in bytes, from its address. -/
def LogEntry.span (e : LogEntry) : Nat :=
  if e.maj = 0 then e.content.length else if e.maj = 0x42 ∧ e.fn ≠ 1 ∨ e.maj = 0x43 ∧ (e.fn = 0 ∨ e.fn = 2) then 8
  else 4

/-- Whether a log entry touches one of `n` bytes: by its byte mask, or all bytes of an update (R275, R276). -/
def LogEntry.touches (e : LogEntry) (va : W64) (n : Nat) : Bool :=
  overlaps e.va (LogEntry.span e) va n &&
    (decide (e.maj ≠ 0) || e.content.zipIdx.any fun (b, i) =>
      b.isSome && decide (va.toNat ≤ e.va.toNat + i) && decide (e.va.toNat + i < va.toNat + n))

/-- Whether an undrained entry of a task's own launch in its core overlaps an access (R276). -/
def logOverlaps (s : State) (k : TaskKey) (va : W64) (n : Nat) : Bool :=
  let space := (launchOf s (refOr s k).launch).space
  (coreOf s k.core).sideLog.any fun e => e.space == space && LogEntry.touches e va n

/-- Whether an outstanding load of the thread overlaps an access: accesses of one task to one byte take effect in issue order (R220). -/
def loadOverlaps (ps : List Producer) (va : W64) (n : Nat) : Bool :=
  ps.any fun p =>
    match p.state with
    | .load _ qs _ _ => qs.any fun q => q.got.isNone && overlaps q.va q.bytes va n
    | .heldAtomic _ _ _ a _ _ _ _ => overlaps a 8 va n
    | _ => false

/-- Whether this core has a registration under way for a word of the bytes (R196): an access at the home follows it. -/
def regPending (s : State) (c pa n : Nat) : Bool :=
  (coreOf s c).regsOut.any fun o => o.line == pa / 128 && (o.mask &&& wordsOf (pa % 128) n) != 0

/-- An access that is performed at its place waits for its own core's registrations of the bytes, so that it follows the task's earlier
stores (R220). -/
def ownStoresFirst (s : State) (pa n : Nat) : Except Stop Unit :=
  match s.cur with
  | .task k => if regPending s k.core pa n then .error (.stall s) else .ok ()
  | _ => .ok ()

/-- Bytes that a core's L1 holds as clean copies set to what its own task has read or written at their place, so that the task's later loads
return no older value (R220, R246; log 22). Reads under way are overtaken. -/
def refreshCopies (s : State) (c pa : Nat) (bs : List Byte) : State :=
  let x := coreOf s c
  let put (x : Core) (p : Byte × Nat) : Core :=
    let a := pa + p.2
    let l := l1Line x (a / 128)
    if bit l.clean (a % 128 / 4) then Core.setLine x (a / 128) { l with content := setLineByte l.content (a % 128) p.1 } else x
  setCore s c (bs.zipIdx.foldl put (Core.overtake x fun l => (linesOf pa bs.length).contains l))

/-- The same for the executing agent; a controller has no L1 (R398). -/
def refreshOwn (s : State) (pa : Nat) (bs : List Byte) : State :=
  match s.cur with
  | .task k => refreshCopies s k.core pa bs
  | _ => s

end Sys2Proof.Machine
end

