-- ==== Sys2Proof/Machine/LoadStore.lean ====
section
/-! DEFINITION. Majors 0x40 and 0x41: loads, stores and prefetch (R215 to R225, R398, R420). -/

namespace Sys2Proof.Machine

/-! ### Performing a load (R200, R220, R227, R398) -/

/-- The bytes of an access from a die, performed at its home, bank, proxy or remote place now, for a launch or none; where it waits it may ask the
host (R190, R200, R398, R420, R451). A load at fabric or system scope asks for a host line's half as Exclusive (R213). -/
def readFrom (s : State) (l : Option Nat) (die pa n : Nat) (excl : Bool) : Except Stop (List Byte) :=
  match physKind pa with
  | .far =>
    match farTarget s die pa with
    | .unreachable => trapOf .remoteUnreachable
    | .fabric _ => .ok (remoteBytes s pa n)
    | .host _ => do
      placeReady s pa n excl false
      .ok (homeRead s pa n)
  | .bank _ _ => .ok (readBytes s.mem pa n)
  | _ => do
    placeReady s pa n excl false
    soundFor s l pa n
    .ok (homeRead s pa n)

/-- An access of the executing agent to a host window waits for its own core's registrations of the bytes (R213, R220). -/
def hostOrdered (s : State) (pa n : Nat) : Except Stop Unit :=
  match physKind pa with
  | .far =>
    match farTarget s (curDie s) pa with
    | .host _ => ownStoresFirst s pa n
    | _ => .ok ()
  | _ => .ok ()

/-- The same for the executing agent. -/
def readAtPlace (s : State) (pa n : Nat) (excl : Bool) : Except Stop (List Byte) := do
  hostOrdered s pa n
  readFrom s (curLaunch s) (curDie s) pa n excl

/-- The bytes of the executing agent's local store or data memory (R131, R397). -/
def localRead (s : State) (off n : Nat) : List Byte :=
  match s.cur with
  | .task k => readBytes (siteOf s (TaskKey.siteKey k)).localStore off n
  | .leaf c => readBytes (coreOf s c).leaf.dataMem off n
  | .global => readBytes s.glob.ctl.dataMem off n

/-- Bytes written to the executing agent's local store or data memory; a waiting WAITA of the site on them wakes (R131, R237). -/
def localWrite (s : State) (va : W64) (off : Nat) (bs : List Byte) : State :=
  match s.cur with
  | .task k =>
    let x := siteOf s (TaskKey.siteKey k)
    wakeSite (setSite s (TaskKey.siteKey k) { x with localStore := writeBytes x.localStore off bs }) (TaskKey.siteKey k)
      fun _ w => w == .waita (va.toNat / 128) true
  | .leaf c =>
    let x := coreOf s c
    setCore s c { x with leaf := { x.leaf with dataMem := writeBytes x.leaf.dataMem off bs } }
  | .global => { s with glob := { s.glob with ctl := { s.glob.ctl with dataMem := writeBytes s.glob.ctl.dataMem off bs } } }

/-- Whether an access of the executing agent to a physical address is performed at issue: a controller's, a bank's, and those to windows
that retire only once performed (R190, R213, R221, R398, R420). -/
def performedAtIssue (s : State) (pa : Nat) (scope : Scope) : Bool :=
  !onSite s || (match physKind pa with | .bank _ _ => true | _ => false) || farSync s pa scope

/-- The space of a task. -/
def spaceOfTask (s : State) (k : TaskKey) : Nat := (launchOf s (launchOfTask s k)).space

/-- The targets of a load's pieces: every one is translated, and traps EXTENT, before any is reached (R139). -/
def loadTargets (s : State) : List LoadPiece → Except Stop (List (LoadPiece × Target))
  | [] => .ok []
  | q :: r => do
    let t ← translate s q.va q.bytes true false
    let r' ← loadTargets s r
    .ok ((q, t) :: r')

/-- Whether a target cannot be reached (R420). -/
def Target.unreachable (s : State) : Target → Bool
  | .mem pa => physKind pa == .far && farTarget s (curDie s) pa == .unreachable
  | _ => false

/-- An access that cannot be reached traps REMOTE_UNREACHABLE, after EXTENT and before what follows (R139, R420). -/
def reached (s : State) (ts : List Target) : Except Stop Unit :=
  if ts.any (Target.unreachable s) then trapOf .remoteUnreachable else .ok ()

/-- A task's load from a host window at a narrower scope, through its L1; it retires only once performed (R213, R420). -/
def hostLoad (s : State) (k : TaskKey) (va : W64) (pa n prio : Nat) : Except Stop (List Byte) :=
  if l1Has s k.core pa n then .ok (l1Bytes s k.core pa n)
  else .error (.stall (requestLine s (curLaunch s) k.core (spaceOfTask s k) va pa n prio))

/-- Whether earlier accesses of the executing task to the bytes are not performed: a side-log entry, or an outstanding load (R220, R276). -/
def bytesBusy (s : State) (va : W64) (n : Nat) : Bool :=
  match s.cur with
  | .task k => logOverlaps s k va n || loadOverlaps (thread s).producers va n
  | _ => false

/-- One piece of a load at issue: performed, if it is performed at issue; an access that retires only once performed waits for the earlier ones
to its bytes, and a bank's stays outstanding behind them (R220, R221). The flag says that its page faulted (R273). -/
def issuePiece (s : State) (scope : Scope) (prio : Nat) (q : LoadPiece) (t : Target) : Except Stop (LoadPiece × Option Bool) :=
  match t with
  | .localStore off => .ok ({ q with got := some (localRead s off q.bytes) }, none)
  | .page protect => .ok (q, some protect)
  | .mem pa =>
    if bytesBusy s q.va q.bytes then (if physKind pa == .far then .error (.stall s) else .ok (q, none))
    else if performedAtIssue s pa scope then do
      let bs ← readAtPlace s pa q.bytes (Scope.far scope)
      .ok ({ q with got := some bs }, none)
    else
      match s.cur, physKind pa with
      | .task k, .far => do
        let bs ← hostLoad s k q.va pa q.bytes prio
        .ok ({ q with got := some bs }, none)
      | _, _ => .ok (q, none)

/-- Every piece of a load at issue. -/
def issuePieces (s : State) (scope : Scope) (prio : Nat) : List (LoadPiece × Target) → Except Stop (List LoadPiece × Option (W64 × Bool))
  | [] => .ok ([], none)
  | (q, t) :: r => do
    let (q', f) ← issuePiece s scope prio q t
    let (r', f') ← issuePieces s scope prio r
    .ok (q' :: r', match f with | some p => some (q.va, p) | none => f')

/-- The value of a scalar load (R222). -/
def loadValue (signed : Bool) (bs : List Byte) : W64 :=
  let n := 8 * bs.length
  let w := BitVec.ofNat n (leNat bs)
  if signed then w.signExtend 64 else w.setWidth 64

/-- What a performed load fills its destination with (R86, R222, R223). -/
def loadFill (into : LoadInto) (qs : List LoadPiece) : Fill :=
  match into with
  | .scalar i signed => .scalar i (.data (loadValue signed ((qs.headD { lane := 0, va := 0, bytes := 8, got := none }).got.getD [])))
  | .vector i old =>
    .vector i (Vector.ofFn fun j =>
      match qs.find? (·.lane == j.val) with
      | some q => .data (BitVec.ofNat 32 (leNat (q.got.getD [])))
      | none => old.get j)
  | .discard => .nothing

/-- The lines that a load still misses, asked for (R198); a bank's words are never cached (R190). -/
def requestPieces (s : State) (k : TaskKey) (prio : Nat) (qs : List LoadPiece) : State :=
  qs.foldl (fun s q =>
    if q.got.isSome then s
    else
      match translate s q.va q.bytes true false with
      | .ok (.mem pa) =>
        match physKind pa with
        | .bank _ _ => s
        | _ => if l1Has s k.core pa q.bytes then s else requestLine s (curLaunch s) k.core (spaceOfTask s k) q.va pa q.bytes prio
      | _ => s) s

/-- The requests over the fabric that a load has made (R418, R419). -/
def noteLoads (s : State) (ts : List (LoadPiece × Target)) : State :=
  ts.foldl (fun s (_, t) => match t with | .mem pa => noteRemote s (curDie s) pa [] | _ => s) s

/-- A load issues (R221): its destination is marked empty until every piece is performed. A page that is not present holds the task
(R273). -/
def startLoad (s : State) (d : Dst) (into : LoadInto) (qs : List LoadPiece) (ord : MemOrder) (scope : Scope) (evict : Nat)
    (fault : Option (W64 × Bool)) : State :=
  let acq := if MemOrder.acquires ord then some scope else none
  if qs.all (·.got.isSome) then
    let s := acquire s ord scope
    match d with
    | .none => s
    | _ => startProducer s d (.performed (loadFill into qs)) none
  else
    match s.cur with
    | .task k =>
      let id := nextProducer s
      let s := startProducer s d (.load into qs scope evict) acq
      match fault with
      | some (va, protect) =>
        let t := thread s
        reportFault (withThread s { t with producers := t.producers.map fun p => if p.id = id then { p with held := true } else p })
          (taskFault s k va protect .load 0xFFFFFFFF)
      | none => requestPieces s k evict qs
    | _ => s

/-- Where a load's value goes: its destination, or nowhere (R90). -/
def intoOf (d : Dst) (signed : Bool) (marks : Vector Lane 64) : LoadInto :=
  match d with
  | .s i => .scalar i signed
  | .v i => .vector i marks
  | _ => .discard

/-- A load over its pieces, once its sources are ready: alignment of every piece, then the extent check of the whole, then each piece
(R139, R217, R218, R224). -/
def loadPieces (o : Operands) (s : State) (signed : Bool) (align : Nat) (base : W64) (span : Option (W64 × Nat)) (marks : Vector Lane 64)
    (qs : List LoadPiece) : Exec := do
  let scope := Mod.scope o.mod
  memGate s (Mod.order o.mod) scope
  producerRoom s
  if qs.all (fun q => q.va.toNat % align = 0) then .ok () else trapOf .align
  canonicalOr base
  match span with
  | some (va, n) => let _ ← translate s va n true false
  | none => .ok ()
  let ts ← loadTargets s qs
  reached s (ts.map (·.2))
  let (qs, fault) ← issuePieces s scope (Mod.evict o.mod) ts
  .ok (retire (startLoad (noteLoads (consumeAll s o) ts) o.dst (intoOf o.dst signed marks) qs (Mod.order o.mod) scope (Mod.evict o.mod) fault))

/-- A scalar load of `n` bytes (R222). -/
def scalarLoad (o : Operands) (s : State) (n : Nat) (signed : Bool) : Host.Outcome State Fault Refusal :=
  issue Places.all o s (predicated s (Field.pred o.a) do
    ready s o
    let ea ← effective (scalarOf s o.a) (scalarOf s o.b)
    loadPieces o s signed n ea none (Vector.replicate 64 .null) [{ lane := 0, va := ea, bytes := n, got := none }])

/-- LDB (R222). -/
def execLdb (o : Operands) (s : State) : Host.Outcome State Fault Refusal := scalarLoad o s 1 true
/-- LDBU (R222). -/
def execLdbu (o : Operands) (s : State) : Host.Outcome State Fault Refusal := scalarLoad o s 1 false
/-- LDH (R222). -/
def execLdh (o : Operands) (s : State) : Host.Outcome State Fault Refusal := scalarLoad o s 2 true
/-- LDHU (R222). -/
def execLdhu (o : Operands) (s : State) : Host.Outcome State Fault Refusal := scalarLoad o s 2 false
/-- LDW (R222). -/
def execLdw (o : Operands) (s : State) : Host.Outcome State Fault Refusal := scalarLoad o s 4 true
/-- LDWU (R222). -/
def execLdwu (o : Operands) (s : State) : Host.Outcome State Fault Refusal := scalarLoad o s 4 false
/-- LDD (R222). -/
def execLdd (o : Operands) (s : State) : Host.Outcome State Fault Refusal := scalarLoad o s 8 false

/-! ### Vector addresses (R223) -/

/-- The address of a lane of a contiguous form. -/
def contigAddr (ea : W64) (i : Nat) : W64 := ea + BitVec.ofNat 64 (4 * i)
/-- The address of a lane of a strided form. -/
def strideAddr (base stride : W64) (i : Nat) : W64 := base + BitVec.ofNat 64 i * stride

/-- The predicate of a vector memory instruction, lane by lane (R97, R99). -/
def laneMask (s : State) (o : Operands) : W64 := predBits (thread s).regs (Field.pred o.a)

/-- The active lanes, rising. -/
def activeIdx (mask : W64) : List Nat := (List.range 64).filter fun i => bit mask i

/-- The span of a contiguous access from its lowest to its highest active lane (R218). -/
def contigSpan (ea : W64) (mask : W64) : Option (W64 × Nat) :=
  match activeIdx mask with
  | [] => none
  | lo :: r => some (contigAddr ea lo, 4 * (r.getLast?.getD lo - lo) + 4)

/-- Pieces of four bytes for the lanes given. -/
def lanePieces (as : List (Nat × W64)) : List LoadPiece := as.map fun (i, a) => { lane := i, va := a, bytes := 4, got := none }

/-- The lanes that a vector load starts from: the old lanes of its destination (R121). -/
def oldLanes (s : State) : Dst → Vector Lane 64
  | .v i => ((thread s).regs.v.get i).lanes
  | _ => Vector.replicate 64 .null

/-- A vector instruction of the memory class whose predicate selects no lane retires at once (R217). -/
def lanePredicated (s : State) (o : Operands) (x : Exec) : Exec := if laneMask s o = 0 then .ok (retire s) else x

/-- A base source that is data, or EXTENT (R216). -/
def baseOf (x : Scalar) : Except Stop W64 :=
  match x with
  | .data a => .ok a
  | _ => trapOf .extent

/-- LDV (R218, R223). -/
def execLdv (o : Operands) (s : State) : Host.Outcome State Fault Refusal :=
  issue Places.sites o s (lanePredicated s o do
    ready s o
    let ea ← effective (scalarOf s o.a) (scalarOf s o.b)
    let mask := laneMask s o
    let as := (activeIdx mask).map fun i => (i, contigAddr ea i)
    loadPieces o s true 4 ea (contigSpan ea mask) (oldLanes s o.dst) (lanePieces as))

/-- LDVS (R223). -/
def execLdvs (o : Operands) (s : State) : Host.Outcome State Fault Refusal :=
  issue Places.sites o s (lanePredicated s o do
    ready s o
    let a ← baseOf (scalarOf s o.a)
    let b ← baseOf (scalarOf s o.b)
    let as := (activeIdx (laneMask s o)).map fun i => (i, strideAddr a b i)
    loadPieces o s true 4 a none (oldLanes s o.dst) (lanePieces as))

/-- The lanes of an indexed form whose index is data, with their addresses (R223). -/
def indexedAddrs (mask : W64) (base : W64) (idx : Vector Lane 64) : List (Nat × W64) :=
  (activeIdx mask).filterMap fun i =>
    match ((idx.toList)[i]? : Option Lane) with
    | some (.data w) => some (i, base + w.setWidth 64)
    | _ => none

/-- An index lane that is null or an error gives the destination lane its mark (R223). -/
def indexMarks (mask : W64) (idx old : Vector Lane 64) : Vector Lane 64 :=
  Vector.ofFn fun i => if bit mask i && !Lane.isData (idx.get i) then idx.get i else old.get i

/-- Field B of an indexed form: a channel must hold a vector token (R215). -/
def indexVector (s : State) (f : Field) : Except Stop (Vector Lane 64) :=
  match Field.chan f with
  | some c =>
    match headToken s c with
    | some t => (match t.pay with | .vector ls => .ok ls | _ => illop)
    | none => illop
  | none => .ok (vectorOf s f)

/-- LDVX (R223). -/
def execLdvx (o : Operands) (s : State) : Host.Outcome State Fault Refusal :=
  issue Places.sites o s (lanePredicated s o do
    ready s o
    let idx ← indexVector s o.b
    let a ← baseOf (scalarOf s o.a)
    let mask := laneMask s o
    let as := indexedAddrs mask a idx
    loadPieces o s true 4 a none (indexMarks mask idx (oldLanes s o.dst)) (lanePieces as))

/-! ### Stores (R196, R204, R221, R222) -/

/-- One store of bytes within a word group, with its target. -/
structure StorePiece where
  va : W64
  content : List Byte
  deriving DecidableEq, Repr

/-- The target of each piece of a store, every one checked before any is performed (R139, R224). -/
def storeTargets (s : State) : List StorePiece → Except Stop (List (StorePiece × Target))
  | [] => .ok []
  | q :: r => do
    let t ← translate s q.va q.content.length false true
    let r' ← storeTargets s r
    .ok ((q, t) :: r')

/-- Whether a write from a die can be performed at its home, bank, proxy or remote place now (R190, R213, R398, R420). -/
def checkFrom (s : State) (die pa n : Nat) : Except Stop Unit :=
  match physKind pa with
  | .far =>
    match farTarget s die pa with
    | .unreachable => trapOf .remoteUnreachable
    | .fabric _ => .ok ()
    | .host _ => placeReady s pa n true true
  | .bank _ _ => .ok ()
  | _ => placeReady s pa n true true

/-- A write from a die performed at its home, bank, proxy or remote place. -/
def writeFrom (s : State) (die pa : Nat) (bs : List Byte) : State :=
  match physKind pa with
  | .far =>
    match farTarget s die pa with
    | .host _ => homeWrite s pa bs
    | _ => noteRemote s die pa bs
  | _ => homeWrite s pa bs

/-- A write from a die performed at its place once it can be. -/
def writeOnce (s : State) (die pa : Nat) (bs : List Byte) : Exec := do
  checkFrom s die pa bs.length
  .ok (writeFrom s die pa bs)

/-- Whether a write of the executing agent can be performed at its place now. -/
def placeCheck (s : State) (pa n : Nat) : Except Stop Unit := do
  hostOrdered s pa n
  checkFrom s (curDie s) pa n

/-- A write of the executing agent performed at its place: what its L1 holds of the bytes is set too (R220, log 22). -/
def writePlace (s : State) (pa : Nat) (bs : List Byte) : State :=
  match physKind pa with
  | .far =>
    match farTarget s (curDie s) pa with
    | .host _ => refreshOwn (homeWrite s pa bs) pa bs
    | _ => noteRemote s (curDie s) pa bs
  | _ => homeWrite s pa bs

/-- A write of the executing agent performed at its place once it can be. -/
def writeAtPlace (s : State) (pa : Nat) (bs : List Byte) : Exec := do
  placeCheck s pa bs.length
  .ok (writePlace s pa bs)

/-- How a piece of a store is performed: in the local store, at its place, in the L1, or in the side log, with the flag of its page fault if it
met one (R196, R213, R221, R276). -/
inductive StoreWay where
  | localStore (off : Nat)
  | place (pa : Nat)
  | l1 (pa : Nat)
  | log (protect : Option Bool)
  deriving DecidableEq, Repr

/-- The way of a piece: bytes that lie in the side log already go there behind them (R276). -/
def storeWay (s : State) (scope : Scope) (q : StorePiece) (t : Target) : StoreWay :=
  match t with
  | .localStore off => .localStore off
  | .page protect => .log (some protect)
  | .mem pa =>
    match s.cur with
    | .task k =>
      if logOverlaps s k q.va q.content.length then .log none else if performedAtIssue s pa scope then .place pa else .l1 pa
    | _ => .place pa

/-- Whether a piece can be performed now. -/
def wayReady (s : State) (q : StorePiece) : StoreWay → Except Stop Unit
  | .place pa => placeCheck s pa q.content.length
  | _ => .ok ()

/-- Whether every piece can be performed now: a store that waits has made no access at all (R224). -/
def waysReady (s : State) : List (StorePiece × StoreWay) → Except Stop Unit
  | [] => .ok ()
  | (q, w) :: r => do
    wayReady s q w
    waysReady s r

/-- A piece performed. -/
def storePiece (s : State) (evict : Nat) (q : StorePiece) : StoreWay → State
  | .localStore off => localWrite s q.va off q.content
  | .place pa => writePlace s pa q.content
  | .l1 pa =>
    match s.cur with
    | .task k => l1Write s k.core pa q.content (.task (refOr s k)) evict
    | _ => s
  | .log _ => s

/-- The pieces of a store that go to the side log. -/
def loggedPieces (ws : List (StorePiece × StoreWay)) : List (StorePiece × Option Bool) :=
  ws.filterMap fun (q, w) => match w with | .log p => some (q, p) | _ => none

/-- The lines of the side-log entries of a store: one entry for each line that it touches (R275). -/
def logLines (ps : List (StorePiece × Option Bool)) : List Nat := (ps.map fun (q, _) => q.va.toNat / 128).eraseDups

/-- The byte that pieces write at an address: the last one's (R223). -/
def byteOf (ps : List StorePiece) (a : Nat) : Option Byte :=
  (ps.reverse.find? fun q => decide (q.va.toNat ≤ a) && decide (a < q.va.toNat + q.content.length)).bind fun q => q.content[a - q.va.toNat]?

/-- The log entry of a store's pieces of one line (R275): its bytes from the lowest to the highest, with those between that it does not
write left out. -/
def storeEntry (s : State) (k : TaskKey) (ps : List StorePiece) (ord : MemOrder) (scope : Scope) (evict : Nat) : LogEntry :=
  let r := refOr s k
  let space := (launchOf s r.launch).space
  let lo := ps.foldl (fun m q => min m q.va.toNat) ((ps.head?.map (·.va.toNat)).getD 0)
  let hi := ps.foldl (fun m q => max m (q.va.toNat + q.content.length)) lo
  { id := 0, task := r, space := space, gen := spaceGen s (k.core / 4) space, va := BitVec.ofNat 64 lo,
    content := (List.range (hi - lo)).map fun i => byteOf ps (lo + i), maj := 0, fn := 0, operand := 0, comparand := 0, ord := ord,
    scope := scope, evict := evict, also := [] }

/-- The entries of a store made, line by line, each with the record of the first of its pieces that met a page fault (R272, R275). -/
def logStore (s : State) (k : TaskKey) (ps : List (StorePiece × Option Bool)) (ord : MemOrder) (scope : Scope) (evict : Nat) : State :=
  (logLines ps).foldl (fun s l =>
    let mine := ps.filter fun (q, _) => q.va.toNat / 128 == l
    let fault := mine.findSome? fun (q, p) => p.map fun b => (q.va, b)
    logAccess s k (storeEntry s k (mine.map (·.1)) ord scope evict) fault .store) s

/-- A store over its pieces, once its sources are ready: alignment of every piece, the extent of the whole and of each piece, and whether each
can be performed now come before any access (R139, R224). A full side log blocks it (R275). -/
def storeAll (o : Operands) (s : State) (align : Nat) (base : W64) (span : Option (W64 × Nat)) (qs : List StorePiece) : Exec := do
  let scope := Mod.scope o.mod
  memGate s (Mod.order o.mod) scope
  if qs.all (fun q => q.va.toNat % align = 0) then .ok () else trapOf .align
  canonicalOr base
  match span with
  | some (va, n) => let _ ← translate s va n false true
  | none => .ok ()
  let ts ← storeTargets s qs
  reached s (ts.map (·.2))
  if qs.any (fun q => loadOverlaps (thread s).producers q.va q.content.length) then .error (.stall s) else .ok ()
  let ws := ts.map fun (q, t) => (q, storeWay s scope q t)
  waysReady s ws
  let done := ws.foldl (fun s (q, w) => storePiece s (Mod.evict o.mod) q w) s
  match s.cur with
  | .task k =>
    let ps := loggedPieces ws
    if ps.isEmpty || logRoom s k (logLines ps).length then .ok () else .error (.stall s)
    .ok (retire (consumeAll (logStore done k ps (Mod.order o.mod) scope (Mod.evict o.mod)) o))
  | _ => .ok (retire (consumeAll done o))

/-- A scalar store of `n` bytes (R222). -/
def scalarStore (o : Operands) (s : State) (n : Nat) : Host.Outcome State Fault Refusal :=
  issue Places.all o s (predicated s (Field.pred o.a) do
    ready s o
    let ea ← effective (scalarOf s o.a) (scalarOf s o.b)
    storeAll o s n ea none [{ va := ea, content := leBytes n (Scalar.pattern (scalarOf s o.c)).toNat }])

/-- STB (R222). -/
def execStb (o : Operands) (s : State) : Host.Outcome State Fault Refusal := scalarStore o s 1
/-- STH (R222). -/
def execSth (o : Operands) (s : State) : Host.Outcome State Fault Refusal := scalarStore o s 2
/-- STW (R222). -/
def execStw (o : Operands) (s : State) : Host.Outcome State Fault Refusal := scalarStore o s 4
/-- STD (R222). -/
def execStd (o : Operands) (s : State) : Host.Outcome State Fault Refusal := scalarStore o s 8

/-- Store pieces of the lanes given, with their bit patterns (R86). -/
def storeLanes (as : List (Nat × W64)) (ls : Vector Lane 64) : List StorePiece :=
  as.map fun (i, a) => { va := a, content := leBytes 4 (Lane.pattern ((ls.toList)[i]?.getD .null)).toNat }

/-- STV (R218, R223). -/
def execStv (o : Operands) (s : State) : Host.Outcome State Fault Refusal :=
  issue Places.sites o s (lanePredicated s o do
    ready s o
    let ea ← effective (scalarOf s o.a) (scalarOf s o.b)
    let mask := laneMask s o
    let as := (activeIdx mask).map fun i => (i, contigAddr ea i)
    storeAll o s 4 ea (contigSpan ea mask) (storeLanes as (vectorOf s o.c)))

/-- STVS (R223). -/
def execStvs (o : Operands) (s : State) : Host.Outcome State Fault Refusal :=
  issue Places.sites o s (lanePredicated s o do
    ready s o
    let a ← baseOf (scalarOf s o.a)
    let b ← baseOf (scalarOf s o.b)
    let as := (activeIdx (laneMask s o)).map fun i => (i, strideAddr a b i)
    storeAll o s 4 a none (storeLanes as (vectorOf s o.c)))

/-- STVX (R223). -/
def execStvx (o : Operands) (s : State) : Host.Outcome State Fault Refusal :=
  issue Places.sites o s (lanePredicated s o do
    ready s o
    let idx ← indexVector s o.b
    let a ← baseOf (scalarOf s o.a)
    let as := indexedAddrs (laneMask s o) a idx
    storeAll o s 4 a none (storeLanes as (vectorOf s o.c)))

/-! ### PREF (R225) -/

/-- The lines that a prefetch asks for, each with an address in it: within the task's extents, on pages whose entries are filled and present; a
bank's words and another package's are never cached (R190, R195, R225). -/
def prefetchLines (s : State) (k : TaskKey) (as : List W64) : List (W64 × Nat) :=
  as.filterMap fun a =>
    match extentFor (taskOf s k) a 4 true false with
    | some (_, e) =>
      let g := Tab.get 0 e.granules (granuleNo e a)
      let pa := granuleBase g + a.toNat % 65536
      let cached := match physKind pa with
        | .bank _ _ => false
        | .far => (match farTarget s (k.core / 4) pa with | .host _ => true | _ => false)
        | _ => true
      if granuleFilled g && granulePresent g && granuleGen g == spaceGen s (k.core / 4) e.space && cached then some (a, pa) else none
    | none => none

/-- PREF (R225): with core scope it fetches the lines into the L1, at the eviction priority given; with die scope into their home tiles, which
nothing shows. -/
def execPref (o : Operands) (s : State) : Host.Outcome State Fault Refusal :=
  issue Places.sites o s (lanePredicated s o do
    ready s o
    let s' := match s.cur, effective (scalarOf s o.a) (scalarOf s o.b) with
      | .task k, .ok ea =>
        if Mod.scope o.mod = .core && !inWindow ea then
          (prefetchLines s k ((activeIdx (laneMask s o)).map (contigAddr ea))).foldl
            (fun s (va, pa) =>
              if l1Has s k.core (128 * (pa / 128)) 128 then s
              else requestLine s none k.core (spaceOfTask s k) va (128 * (pa / 128)) 128 (Mod.evict o.mod)) s
        else s
      | _, _ => s
    .ok (retire (consumeAll s' o)))

end Sys2Proof.Machine
end

