-- ==== Sys2Proof/Machine/Atomic.lean ====
section
/-! DEFINITION. Majors 0x42 and 0x43: atomics and bank operations (R226 to R229). -/

namespace Sys2Proof.Machine

/-! ### The values (R226, R228) -/

/-- The FP32 sum, rounded to nearest even; NaN results are canonical, and an abandoned pattern in memory is a NaN (R226, R228). -/
def addF32 (a b : W32) : W32 := roundF32 .rne (Val.add .rne (f32Val a) (f32Val b))

/-- The new memory value of an atomic by its FN: `m` old, `b` comparand, `c` data (R226). -/
def amoNew (fn : Nat) (m b c : W64) : W64 :=
  match fn with
  | 0 => m + c
  | 1 => (addF32 (bits m 0 32) (bits c 0 32)).setWidth 64
  | 2 => if m.sle c then m else c
  | 3 => if m.sle c then c else m
  | 4 => if m.ule c then m else c
  | 5 => if m.ule c then c else m
  | 6 => m &&& c
  | 7 => m ||| c
  | 8 => m ^^^ c
  | 9 => c
  | _ => if m = b then c else m

/-- The new memory value of a bank operation by its FN (R228). -/
def bankNew (fn : Nat) (m c : W64) : W64 :=
  match fn with
  | 0 => m + c
  | 1 => (addF32 (bits m 0 32) (bits c 0 32)).setWidth 64
  | 2 => if m.sle c then c else m
  | 3 => (roundF32 .rne (Val.add .rne (Val.mul (f32Val (bits c 32 32)) (f32Val (bits c 0 32))) (f32Val (bits m 0 32)))).setWidth 64
  | _ => BitVec.ofNat 64 (min ((bits m 0 32).toNat + (bits c 0 32).toNat) (2 ^ 32 - 1))

/-- The width of an operation's word (R218, R226, R228). -/
def rmwBytes (maj fn : Nat) : Nat :=
  if maj = 0x42 then (if fn = 1 then 4 else 8) else if fn = 0 ∨ fn = 2 then 8 else 4

/-- The new value of an operation of either major. -/
def rmwNew (maj fn : Nat) (m b c : W64) : W64 := if maj = 0x42 then amoNew fn m b c else bankNew fn m c

/-- Whether an operation's data holds an abandoned pattern that traps (R226, R228). -/
def rmwAbandoned (maj fn : Nat) : Scalar → Bool
  | .data c =>
    (decide (fn = 1) && isAbandoned (bits c 0 32)) ||
      (decide (maj = 0x43 ∧ fn = 3) && (isAbandoned (bits c 0 32) || isAbandoned (bits c 32 32)))
  | _ => false

/-! ### Where it is performed (R190, R213, R227) -/

/-- In the core's L1, on words that the core owns and whose current value it holds; otherwise they are registered and read first, and
the operation waits (R227). -/
def rmwL1 (s : State) (k : TaskKey) (va : W64) (pa n prio : Nat) (f : W64 → W64) : Except Stop (State × W64) :=
  let line := pa / 128
  let l := l1Line (coreOf s k.core) line
  let mask := wordsOf (pa % 128) n
  if l.owned &&& mask = mask && l1Has s k.core pa n then
    let old := BitVec.ofNat 64 (leNat (l1Bytes s k.core pa n))
    .ok (l1Write s k.core pa (leBytes n (f old).toNat) (.task (refOr s k)) prio, old)
  else if (coreOf s k.core).readsOut.any (·.1 == line) then .error (.stall s)
  else
    let s := registerWords (makeRoom s k.core line) k.core line (.task (refOr s k)) mask
    .error (.stall (requestLine s (curLaunch s) k.core (spaceOfTask s k) va pa n prio))

/-- At the home, bank or proxy: owners are revoked, and the word is read and written as one step (R190, R227). Clean copies of the task's own
core hold the result, so that the task's later loads see it (R220, log 22). -/
def rmwHome (s : State) (pa n : Nat) (f : W64 → W64) : Except Stop (State × W64) := do
  ownStoresFirst s pa n
  placeReady s pa n true true
  soundFor s (curLaunch s) pa n
  let old := BitVec.ofNat 64 (leNat (homeRead s pa n))
  let bs := leBytes n (f old).toNat
  .ok (refreshOwn (homeWrite s pa bs) pa bs, old)

/-- Whether an operation at a scope is performed in the L1 of the executing task's core (R227). -/
def inL1 (s : State) (scope : Scope) : Bool :=
  match s.cur with
  | .task k => !beyondCore s k scope
  | _ => false

/-- An update of memory where its scope and its address say (R190, R213, R227). -/
def rmwMem (s : State) (va : W64) (pa n : Nat) (scope : Scope) (prio : Nat) (f : W64 → W64) : Except Stop (State × W64) :=
  let home (s : State) : Except Stop (State × W64) :=
    match s.cur with
    | .task k => if inL1 s scope then rmwL1 s k va pa n prio f else rmwHome s pa n f
    | _ => rmwHome s pa n f
  match physKind pa with
  | .bank _ _ =>
    let old := BitVec.ofNat 64 (leNat (readBytes s.mem pa n))
    .ok (homeWrite s pa (leBytes n (f old).toNat), old)
  | .far =>
    match farTarget s (curDie s) pa with
    | .unreachable => trapOf .remoteUnreachable
    | .fabric _ =>
      let old := BitVec.ofNat 64 (leNat (remoteBytes s pa n))
      .ok (noteRemote s (curDie s) pa (leBytes n (f old).toNat), old)
    | .host _ => home s
  | _ => home s

/-- A bank operation reaches bank memory only (R228). -/
def bankOnly (maj pa : Nat) : Except Stop Unit :=
  if maj = 0x43 then (match physKind pa with | .bank _ _ => .ok () | _ => trapOf .extent) else .ok ()

/-- An update at its target: the local store, or memory; a page that is absent is not for it. -/
def rmwAt (s : State) (maj : Nat) (va : W64) (t : Target) (n : Nat) (scope : Scope) (prio : Nat) (f : W64 → W64) :
    Except Stop (State × W64) :=
  match t with
  | .localStore off =>
    if maj = 0x43 then trapOf .extent
    else
      let old := BitVec.ofNat 64 (leNat (localRead s off n))
      .ok (localWrite s va off (leBytes n (f old).toNat), old)
  | .mem pa => do
    bankOnly maj pa
    rmwMem s va pa n scope prio f
  | .page _ => .error (.stall s)

/-- An update that met a page fault: with a destination it holds its task, and without one it retires into the side log (R221, R273). -/
def rmwFault (s : State) (o : Operands) (maj fn : Nat) (va : W64) (protect : Bool) (b c : W64) : Exec :=
  match s.cur with
  | .task k =>
    match o.dst with
    | .s i =>
      let id := nextProducer s
      let acq := if MemOrder.acquires (Mod.order o.mod) then some (Mod.scope o.mod) else none
      let s := startProducer s o.dst (.heldAtomic maj fn i va b c (Mod.scope o.mod) (Mod.evict o.mod)) acq
      let t := thread s
      .ok (reportFault (withThread s { t with producers := t.producers.map fun p => if p.id = id then { p with held := true } else p })
        (taskFault s k va protect .atomic 0xFFFFFFFF))
    | _ =>
      let r := refOr s k
      let space := (launchOf s r.launch).space
      if logRoom s k 1 then
        .ok (logAccess s k { id := 0, task := r, space := space, gen := spaceGen s (k.core / 4) space, va := va, content := [], maj := maj,
                             fn := fn, operand := c, comparand := b, ord := Mod.order o.mod, scope := Mod.scope o.mod,
                             evict := Mod.evict o.mod, also := [] } (some (va, protect)) .atomic)
      else .error (.stall s)
  | _ => .ok s

/-- An update waits behind entries of the side log that overlap it, and behind the task's outstanding loads of its bytes (R220, R276). -/
def rmwOrdered (s : State) (va : W64) (n : Nat) : Except Stop Unit :=
  if bytesBusy s va n then .error (.stall s) else .ok ()

/-- The result of an update: its destination fills with the old value (R221, R226). -/
def rmwDone (o : Operands) (s : State) (old : W64) : State :=
  produceAccessS (acquire s (Mod.order o.mod) (Mod.scope o.mod)) o.dst (.data old)

/-- An atomic or bank operation over its sources (R139, R216 to R221, R226, R228). -/
def rmwOp (o : Operands) (s : State) (maj fn : Nat) (off : Scalar) (b : W64) (data : Scalar) : Exec := do
  let n := rmwBytes maj fn
  let ea ← effective (scalarOf s o.a) off
  memGate s (Mod.order o.mod) (Mod.scope o.mod)
  producerRoom s
  aligned ea n
  canonicalOr ea
  let t ← translate s ea n true true
  (match t with
    | .mem pa => bankOnly maj pa
    | .localStore _ => if maj = 0x43 then trapOf .extent else .ok ()
    | .page _ => .ok ())
  reached s [t]
  if rmwAbandoned maj fn data then .error (.trap .abandoned 2 0) else .ok ()
  let c := Scalar.pattern data
  match t with
  | .page protect => do
    let s' ← rmwFault s o maj fn ea protect b c
    .ok (retire (consumeAll s' o))
  | t => do
    rmwOrdered s ea n
    let (s', old) ← rmwAt s maj ea t n (Mod.scope o.mod) (Mod.evict o.mod) fun m => rmwNew maj fn m b c
    .ok (retire (consumeAll (rmwDone o s' old) o))

/-- An atomic of the form `[a+b], c` (R226). -/
def atomicOp (o : Operands) (s : State) (fn : Nat) : Host.Outcome State Fault Refusal :=
  issue Places.all o s (predicated s (Field.pred o.a) do
    ready s o
    rmwOp o s 0x42 fn (scalarOf s o.b) 0 (scalarOf s o.c))

/-- A bank operation (R228). -/
def bankOp (o : Operands) (s : State) (fn : Nat) : Host.Outcome State Fault Refusal :=
  issue Places.sites o s (predicated s (Field.pred o.a) do
    ready s o
    rmwOp o s 0x43 fn (scalarOf s o.b) 0 (scalarOf s o.c))

/-- AMOADD (R226). -/
def execAmoadd (o : Operands) (s : State) : Host.Outcome State Fault Refusal := atomicOp o s 0
/-- AMOADDF (R226). -/
def execAmoaddf (o : Operands) (s : State) : Host.Outcome State Fault Refusal := atomicOp o s 1
/-- AMOMIN (R226). -/
def execAmomin (o : Operands) (s : State) : Host.Outcome State Fault Refusal := atomicOp o s 2
/-- AMOMAX (R226). -/
def execAmomax (o : Operands) (s : State) : Host.Outcome State Fault Refusal := atomicOp o s 3
/-- AMOMINU (R226). -/
def execAmominu (o : Operands) (s : State) : Host.Outcome State Fault Refusal := atomicOp o s 4
/-- AMOMAXU (R226). -/
def execAmomaxu (o : Operands) (s : State) : Host.Outcome State Fault Refusal := atomicOp o s 5
/-- AMOAND (R226). -/
def execAmoand (o : Operands) (s : State) : Host.Outcome State Fault Refusal := atomicOp o s 6
/-- AMOOR (R226). -/
def execAmoor (o : Operands) (s : State) : Host.Outcome State Fault Refusal := atomicOp o s 7
/-- AMOXOR (R226). -/
def execAmoxor (o : Operands) (s : State) : Host.Outcome State Fault Refusal := atomicOp o s 8
/-- AMOSWAP (R226). -/
def execAmoswap (o : Operands) (s : State) : Host.Outcome State Fault Refusal := atomicOp o s 9
/-- AMOCAS (R226): `[a]`, with B the comparand and C the new value. -/
def execAmocas (o : Operands) (s : State) : Host.Outcome State Fault Refusal :=
  issue Places.all o s (predicated s (Field.pred o.a) do
    ready s o
    rmwOp o s 0x42 10 (.data 0) (Scalar.pattern (scalarOf s o.b)) (scalarOf s o.c))

/-- BKADD (R228). -/
def execBkadd (o : Operands) (s : State) : Host.Outcome State Fault Refusal := bankOp o s 0
/-- BKADDF (R228). -/
def execBkaddf (o : Operands) (s : State) : Host.Outcome State Fault Refusal := bankOp o s 1
/-- BKMAX (R228). -/
def execBkmax (o : Operands) (s : State) : Host.Outcome State Fault Refusal := bankOp o s 2
/-- BKAXPY (R228). -/
def execBkaxpy (o : Operands) (s : State) : Host.Outcome State Fault Refusal := bankOp o s 3
/-- BKCNT (R228). -/
def execBkcnt (o : Operands) (s : State) : Host.Outcome State Fault Refusal := bankOp o s 4

end Sys2Proof.Machine
end

