-- ==== Sys2Proof/Machine/Sync.lean ====
section
/-! DEFINITION. Major 0x44: region binding, sync objects, invalidation, write-back, fences and WAITA (R230 to R237). -/

namespace Sys2Proof.Machine

/-! ### Sync words and bound regions (R205, R206) -/

/-- An update of `n` bytes performed where they live, as one step, with the bytes before it (R190, R213, R227, R420). Clean copies of the
task's own core hold the result (R220, log 22). -/
def placeUpdate (s : State) (pa n : Nat) (f : List Byte → List Byte) : Except Stop (State × List Byte) :=
  let atHome : Except Stop (State × List Byte) := do
    placeReady s pa n true true
    soundFor s (curLaunch s) pa n
    let old := homeRead s pa n
    .ok (refreshOwn (homeWrite s pa (f old)) pa (f old), old)
  match physKind pa with
  | .bank _ _ => .ok (homeWrite s pa (f (readBytes s.mem pa n)), readBytes s.mem pa n)
  | .far =>
    match farTarget s (curDie s) pa with
    | .unreachable => trapOf .remoteUnreachable
    | .fabric _ =>
      let old := remoteBytes s pa n
      .ok (noteRemote s (curDie s) pa (f old), old)
    | .host _ => atHome
  | _ => atHome

/-- An access at the home waits for the registrations of its core under way (R196), and behind the side log and the outstanding loads of
the same bytes (R220, R276). -/
def homeOrdered (s : State) (va : W64) (pa n : Nat) : Except Stop Unit := do
  match s.cur with
  | .task k => if regPending s k.core pa n then .error (.stall s) else .ok ()
  | _ => .ok ()
  rmwOrdered s va n

/-- An access that meets a page fault and retires only once performed tries again when the leaf has resolved the record (R273, R274). -/
def pageStall (s : State) (va : W64) (protect : Bool) (kind : AccessKind) : Stop :=
  match s.cur with
  | .task k => .stall (reportFault s (taskFault s k va protect kind 0xFFFFFFFF))
  | _ => .stall s

/-- The physical address of a sync word: aligned to 16 bytes, outside the local store, in an rw extent (R205, R218, R231, R233). -/
def syncPa (s : State) (va : W64) : Except Stop Nat := do
  aligned va 16
  if inWindow va then trapOf .extent else .ok ()
  canonicalOr va
  match ← translate s va 16 true true with
  | .mem pa => .ok pa
  | .localStore _ => trapOf .extent
  | .page protect => .error (pageStall s va protect .atomic)

/-- The regions bound to a sync word, found by its address (R206). -/
def boundRegions (s : State) (sync : W64) : List RegionEntry :=
  match curLaunch s with
  | some l => ((launchOf s l).table.map (·.2)).filter fun e => e.sync == sync
  | none => []

/-- A length that is not data, 0, or at least 2^32 traps ILLOP (R230). -/
def lengthOf (x : Scalar) : Except Stop Nat :=
  match x with
  | .data w => if w.toNat = 0 ∨ w.toNat ≥ 2 ^ 32 then illop else .ok w.toNat
  | _ => illop

/-- A value as the low 64 bits of little-endian bytes. -/
def word64 (bs : List Byte) : W64 := BitVec.ofNat 64 (leNat bs)

/-! ### BIND and UNBIND (R231, R232) -/

/-- The free entries of a region table (R206). -/
def freeEntries (l : Launch) : List Nat := (List.range 256).filter fun i => (Tab.find? l.table i).isNone

/-- The sync word that BIND writes: RIDX, and zero in bits [127:97]; VALUE and LOST stay (R231). -/
def bindWord (idx : Nat) (old : List Byte) : List Byte :=
  old.take 8 ++ leBytes 4 idx ++ [(old.drop 12).headD 0 &&& 1, 0, 0, 0]

/-- BIND (R231). Which free entry it fills is a free choice (log 1). Only the region's base is tested against the local-store window: a region that
begins below the window and reaches into it is bound (DESIGN CHOICE, log 137). -/
def execBind (o : Operands) (s : State) : Host.Outcome State Fault Refusal :=
  issue Places.all o s (predicated s (Field.pred o.a) do
    ready s o
    let n ← lengthOf (scalarOf s o.c)
    memGate s .rlx .task
    let a ← baseOf (scalarOf s o.a)
    let pa ← syncPa s a
    let b ← baseOf (scalarOf s o.b)
    if inWindow b then trapOf .extent else .ok ()
    canonicalOr b
    homeOrdered s a pa 16
    let free := match curLaunch s with | some l => freeEntries (launchOf s l) | none => []
    match free[Config.choice s.clock % free.length]?, curLaunch s with
    | some i, some l => do
      let (s', _) ← placeUpdate s pa 16 (bindWord i)
      let s' := setLaunch s' l { launchOf s' l with table := Tab.put (launchOf s' l).table i { base := b, len := n, sync := a } }
      .ok (retire (consumeAll (produceS s' o.dst (.data (BitVec.ofNat 64 i))) o))
    | _, _ => .ok (retire (consumeAll (produceS s o.dst (.data (BitVec.allOnes 64))) o)))

/-- UNBIND (R232). The sync word is reached through the launch's space, whatever the task's own ranges. -/
def execUnbind (o : Operands) (s : State) : Host.Outcome State Fault Refusal :=
  issue Places.all o s (predicated s (Field.pred o.a) do
    ready s o
    memGate s .rlx .task
    match scalarOf s o.a with
    | .data w =>
      if w.toNat > 255 then illop
      else
        match s.cur, curLaunch s with
        | .task k, some l =>
          match Tab.find? (launchOf s l).table w.toNat with
          | none => .ok (retire (consumeAll s o))
          | some e =>
            match walkPa s (k.core / 4) (launchOf s l).space e.sync with
            | none => .error (pageStall s e.sync false .atomic)
            | some pa => do
              homeOrdered s e.sync pa 16
              let (s', _) ← placeUpdate s (pa + 8) 4 fun old => if leNat old = w.toNat then leBytes 4 0xFFFFFFFF else old
              .ok (retire (consumeAll (setLaunch s' l { launchOf s' l with table := Tab.del (launchOf s' l).table w.toNat }) o))
        | _, _ => .ok (retire (consumeAll s o))
    | _ => illop)

/-! ### ACQ and REL (R233) -/

/-- The new VALUE of ACQ by its OP, none for LOAD (R230). -/
def acqNew (op : Nat) (old b : W64) : Option W64 :=
  match op with
  | 0 => none
  | 1 => some (old + b)
  | 2 => some b
  | _ => some (old ||| b)

/-- Clean copies of the words in the regions bound to a sync word dropped from the executing task's L1 (R206, R233). -/
def dropBound (s : State) (sync : W64) : State :=
  match s.cur with
  | .task k =>
    let space := (launchOf s (launchOfTask s k)).space
    (boundRegions s sync).foldl (fun s e => dropVirtual s k.core space e.base e.len) s
  | _ => s

/-- What the executing task has acquired is put before its later accesses (R249, R251). -/
def adoptCur (s : State) : State :=
  match s.cur with
  | .task k => adopt s k
  | _ => s

/-- ACQ (R233): performed at the home in one step, where LOST is read first; it retires only then (R221). -/
def execAcq (o : Operands) (s : State) : Host.Outcome State Fault Refusal :=
  issue Places.all o s (predicated s (Field.pred o.a) do
    ready s o
    memGate s .rlx .task
    let a ← baseOf (scalarOf s o.a)
    let pa ← syncPa s a
    homeOrdered s a pa 16
    let bs ← readAtPlace s pa 16 false
    let old := word64 (bs.take 8)
    if bit ((bs.drop 12).headD 0) 0 then trapOf .ownerLost
    else do
      let s' ← match acqNew (field (Field.control o.c) 0 2) old (Scalar.pattern (scalarOf s o.b)) with
        | none => .ok (refreshOwn (wakeWaita s (pa / 128)) pa bs)
        | some v => (placeUpdate s pa 8 fun _ => leBytes 8 v.toNat).map (·.1)
      .ok (retire (writeScalar (consumeAll (adoptCur (dropBound s' a)) o) o.dst .int32 (.data old))))

/-- Whether physical pieces touch a line. -/
def piecesTouch (ps : List (Nat × Nat)) (line : Nat) : Bool :=
  ps.any fun (pa, n) => decide (pa < 128 * line + 128) && decide (128 * line < pa + n)

/-- The registrations of a task's stores in the regions bound to a sync word that have no REGACK yet (R204, R206, R233). -/
def boundRegs (s : State) (k : TaskKey) (sync : W64) : List RegOut :=
  let r := refOr s k
  let ps := (boundRegions s sync).flatMap fun g => pieces s (k.core / 4) (launchOf s r.launch).space g.base g.len
  (coreOf s k.core).regsOut.filter fun o => RegOut.of r o && piecesTouch ps o.line

/-- Whether REL may release-write a sync word: the task's earlier accesses are performed, its stores in the bound regions have their
REGACK, and the side-log entries of those regions have drained (R204, R233). -/
def relReady (s : State) (k : TaskKey) (sync : W64) : Bool :=
  let space := (launchOf s (refOr s k).launch).space
  Thread.performed (thread s) && (boundRegs s k sync).isEmpty &&
    (coreOf s k.core).sideLog.all fun e =>
      !(e.space == space && (boundRegions s sync).any fun g => overlaps e.va (LogEntry.span e) g.base g.len)

/-- REL (R233): `.store` or `.add`; the other operations trap ILLOP. -/
def execRel (o : Operands) (s : State) : Host.Outcome State Fault Refusal :=
  issue Places.all o s (predicated s (Field.pred o.a) do
    ready s o
    memGate s .rlx .task
    let a ← baseOf (scalarOf s o.a)
    let pa ← syncPa s a
    match s.cur with
    | .task k =>
      if (boundRegs s k a).any (·.lost) then .error (.stall (lostTrap s k))
      else if relReady s k a then .ok () else .error (.stall s)
    | _ => .ok ()
    homeOrdered s a pa 16
    let b := Scalar.pattern (scalarOf s o.b)
    let add := field (Field.control o.c) 0 2 == 1
    let (s', bs) ← placeUpdate s pa 8 fun old => leBytes 8 (if add then word64 old + b else b).toNat
    .ok (retire (writeScalar (consumeAll s' o) o.dst .int32 (.data (word64 bs)))))

/-! ### INVR, INVA, WBR and FENCE (R234, R235) -/

/-- INVR (R234): on a controller, which has no L1 (R398), it invalidates nothing. -/
def execInvr (o : Operands) (s : State) : Host.Outcome State Fault Refusal :=
  issue Places.all o s (predicated s (Field.pred o.a) do
    ready s o
    let n ← lengthOf (scalarOf s o.b)
    memGate s .rlx .task
    let a ← baseOf (scalarOf s o.a)
    canonicalOr a
    match s.cur with
    | .task k =>
      if inWindow a then .ok (retire (consumeAll s o))
      else .ok (retire (consumeAll (dropVirtual s k.core (launchOf s (launchOfTask s k)).space a n) o))
    | _ => .ok (retire s))

/-- INVA (R234). -/
def execInva (o : Operands) (s : State) : Host.Outcome State Fault Refusal :=
  issue Places.all o s do
    memGate s .rlx .task
    match s.cur with
    | .task k => .ok (retire (setCore s k.core (Core.dropAllClean (coreOf s k.core))))
    | _ => .ok (retire s)

/-- The words of a line that its core owns within physical pieces. -/
def ownedIn (s : State) (c line : Nat) (ps : List (Nat × Nat)) : W32 :=
  (l1Line (coreOf s c) line).owned &&& ps.foldl (fun m (pa, n) => m ||| (if piecesTouch [(pa, n)] line then wordsIn line pa n else 0)) 0

/-- Words written back for WBR: each stays as a clean copy when all its bytes are valid (R198). -/
def writeBackWords (s : State) (c line : Nat) (mask : W32) : State :=
  let s := sendWb s c line mask
  setCore s c (Core.setLine (coreOf s c) line (L1Line.giveUp (l1Line (coreOf s c) line) mask))

/-- WBR (R234): it completes when every WBACK has arrived, and a later release or DONE waits for it. -/
def execWbr (o : Operands) (s : State) : Host.Outcome State Fault Refusal :=
  issue Places.all o s (predicated s (Field.pred o.a) do
    ready s o
    let n ← lengthOf (scalarOf s o.b)
    memGate s .rlx .task
    let a ← baseOf (scalarOf s o.a)
    canonicalOr a
    match s.cur with
    | .task k =>
      if inWindow a then .ok (retire (consumeAll s o))
      else
        let ps := pieces s (k.core / 4) (launchOf s (launchOfTask s k)).space a n
        let ls := ((coreOf s k.core).l1.map (·.1)).filter fun l => ownedIn s k.core l ps ≠ 0
        let s' := ls.foldl (fun t l => writeBackWords t k.core l (ownedIn s k.core l ps)) s
        let s' := if ls.isEmpty then s' else startProducer s' .none (.writeBack ls) none
        .ok (retire (consumeAll s' o))
    | _ => .ok (retire s))

/-- Whether an acquiring FENCE may be performed: the task's earlier loads and WAITAs are performed, since a relaxed load before it becomes
an acquire (R247). -/
def fenceReady (s : State) : Bool := Thread.performed (thread s)

/-- FENCE (R235). -/
def execFence (o : Operands) (s : State) : Host.Outcome State Fault Refusal :=
  issue Places.all o s do
    memGate s (Mod.order o.mod) (Mod.scope o.mod)
    if MemOrder.acquires (Mod.order o.mod) && !fenceReady s then .error (.stall s)
    else .ok (retire (acquire s (Mod.order o.mod) (Mod.scope o.mod)))

/-! ### WAITA (R236, R237) -/

/-- Whether a task that waits with a watch entry still holds it. -/
def watchLive (s : State) (k : TaskKey) : Bool :=
  match (taskOf s k).slot with
  | .ready => true
  | .waiting _ => true
  | _ => false

/-- The task waits on WAITA for a line, with one of its core's 64 watch entries if one is free, and its timer runs (R237). -/
def waitOnLine (s : State) (k : TaskKey) (line : Nat) : State :=
  let x := coreOf s k.core
  let watch := x.watch.filter fun w => w != k && watchLive s w
  let entry := decide (watch.length < 64)
  let s := setCore s k.core { x with watch := if entry then watch ++ [k] else watch }
  pushOnce (setTask s k { taskOf s k with slot := .waiting (.waita line entry) }) (.waitaTimeout k)

/-- The watch entry of a task given back. -/
def dropWatch (s : State) : State :=
  match s.cur with
  | .task k => setCore s k.core { coreOf s k.core with watch := (coreOf s k.core).watch.filter (· != k) }
  | _ => s

/-- WAITA's condition between the memory word and the comparand, at the width read (R98, R236; log 23). -/
def waitaHolds (c : Cond) (w32 : Bool) (m b : W64) : Bool :=
  if w32 then Cond.holds c (bits m 0 32) (bits b 0 32) else Cond.holds c m b

/-- WAITA (R236). -/
def execWaita (o : Operands) (s : State) : Host.Outcome State Fault Refusal :=
  issue Places.all o s (predicated s (Field.pred o.a) do
    ready s o
    memGate s (Mod.order o.mod) (Mod.scope o.mod)
    let ctl := Field.control o.c
    let n := if bit ctl 4 then 4 else 8
    let a ← baseOf (scalarOf s o.a)
    aligned a n
    canonicalOr a
    let (line, bs, s1) ← (do
      match ← translate s a n true false with
      | .localStore off => .ok (a.toNat / 128, localRead s off n, s)
      | .page protect => .error (pageStall s a protect .load)
      | .mem pa => do
        homeOrdered s a pa n
        let bs ← readAtPlace s pa n (Scope.far (Mod.scope o.mod))
        .ok (pa / 128, bs, noteRemote (refreshOwn s pa bs) (curDie s) pa []))
    let m := word64 bs
    if waitaHolds ((Cond.ofCode (field ctl 0 4)).getD .eq) (bit ctl 4) m (Scalar.pattern (scalarOf s o.b)) then
      let s' := dropWatch (acquire s1 (Mod.order o.mod) (Mod.scope o.mod))
      .ok (retire (writeScalar (consumeAll s' o) o.dst .int32 (.data m)))
    else
      match s.cur with
      | .task k => .error (.stall (waitOnLine s k line))
      | _ => .error (.stall s))

/-- WAITA_TIMEOUT (R237): a waiting WAITA wakes after its last read. -/
def execWaitaTimeout (task : TaskKey) (s : State) : Host.Outcome State Fault Refusal :=
  .next (match (taskOf s task).slot with
    | .waiting (.waita _ _) => setTask s task { taskOf s task with slot := .ready }
    | _ => s)

end Sys2Proof.Machine
end

