-- ==== Sys2Proof/Machine/Translate.lean ====
section
/-! DEFINITION. Translation by the hardware: refills, walks, engine TLBs, generations, fault records, the side log and hotness
(R262 to R279). -/

namespace Sys2Proof.Machine

/-! ### Page lists (R266, R267) -/

/-- The virtual address at which a granule of an extent begins. -/
def granuleVa (e : Extent) (g : Nat) : W64 := BitVec.ofNat 64 ((e.vbase.toNat / 65536 + g) * 65536)

/-- An extent of a task with one granule entry set, or emptied with none. -/
def Extent.setGranule (e : Extent) (g : Nat) (x : Option W64) : Extent :=
  { e with granules := match x with | some y => Tab.put e.granules g y | none => Tab.del e.granules g }

/-- A task with one granule entry of an extent changed. -/
def Task.setGranule (t : Task) (i g : Nat) (x : Option W64) : Task :=
  match t.extents[i]? with
  | some e => { t with extents := t.extents.set i (Extent.setGranule e g x) }
  | none => t

/-- The granule entry that a walk gives (R266): one with V = 0 where no page is present. -/
def granuleFrom (s : State) (w : Walk) : W64 :=
  granuleWord ((walkPage s w.die w.space w.va).map fun l => (l.pbase + w.va.toNat % 2 ^ l.log2, l.writable)) w.gen

/-- Whose entries a translator's are (R269): an engine node's own, but those of a stream program its tile's. -/
def tlbOwner : Option NodeRef → Option NodeRef
  | some n => if n.kind = .stream then some { n with idx := n.idx / 8 * 8 } else some n
  | none => none

/-- The number of entries of a translator (R269). -/
def tlbSize : Option NodeRef → Nat
  | none => 1024
  | some n =>
    match n.kind with
    | .slab => 64
    | .copych => 128
    | .stream => 256
    | .match_ => 128
    | _ => 0

/-- A new entry of a translator: a full one gives up its oldest entry (R269, log 64). -/
def addTlb (tlb : List TlbEntry) (e : TlbEntry) : List TlbEntry :=
  if (tlb.filter (·.who == e.who)).length < tlbSize e.who then tlb ++ [e]
  else tlb.eraseIdx (tlb.findIdx (·.who == e.who)) ++ [e]

/-- An engine TLB entry that a walk gives (R269). -/
def tlbFrom (s : State) (w : Walk) (who : Option NodeRef) : Option TlbEntry :=
  (walkPage s w.die w.space w.va).map fun l =>
    { who := tlbOwner who, space := w.space, gen := w.gen, vbase := w.va.toNat / 2 ^ l.log2 * 2 ^ l.log2, log2 := l.log2, pbase := l.pbase,
      writable := l.writable }

/-- A request completed as space gone (R271): SPACEGONE of its die counts it. -/
def spaceGone (s : State) (die : Nat) : State := setDie s die { dieOf s die with spaceGone := (dieOf s die).spaceGone + 1 }

/-- The same for a request of a launch, whose error is SPACE_GONE (R271). -/
def goneFor (s : State) (die l : Nat) : State := recordError (spaceGone s die) l 9 0 0xFF 0xFF 0xFF

/-- The owner of an engine node, if it is assigned (R27). -/
def nodeOwner (s : State) (n : NodeRef) : Option (Owner × Nat) :=
  match n.kind with
  | .slab => ((coreOf s n.home).slabs.toList[n.idx]?).bind (·.owner)
  | .acc => ((coreOf s n.home).accs.toList[n.idx]?).bind (·.owner)
  | .topk => ((coreOf s n.home).topks.toList[n.idx]?).bind (·.owner)
  | .copych => ((coreOf s n.home).chans.toList[n.idx]?).bind (·.owner)
  | .stream => (Tab.find? (dieOf s n.home).streams n.idx).bind (·.owner)
  | .match_ => (coreOf s n.home).match_.owner

/-- The launch of an engine node, if it is assigned. -/
def nodeLaunch (s : State) (n : NodeRef) : Option Nat := (nodeOwner s n).map (·.1.launch)

/-- The launch for which a walk is made. -/
def walkLaunch (s : State) : Walker → Option Nat
  | .granule k _ _ => (refOf s k).map (·.launch)
  | .engine n => nodeLaunch s n
  | .unit d i => (Tab.find? (dieOf s d).units i).map (·.issuer.launch)

/-- GRANULE_REFILL (R265, R267): the hardware task scheduler's walk begins, with the space's current GEN. In a space with SV = 0 the request
completes as space gone, with no fill (R264, R271). -/
def execGranuleRefill (task : TaskKey) (extent granule : Nat) (s : State) : Host.Outcome State Fault Refusal :=
  .next (match (taskOf s task).extents[extent]? with
    | some e =>
      let die := task.core / 4
      if spaceValid s die e.space then
        pushOnce s (.walkResponse { die := die, space := e.space, gen := spaceGen s die e.space, va := granuleVa e granule,
                                    forWhom := .granule task extent granule })
      else
        match walkLaunch s (.granule task extent granule) with
        | some l => goneFor s die l
        | none => spaceGone s die
    | none => s)

/-- The number of granules of an extent (R266). -/
def Extent.granuleCount (e : Extent) : Nat := (e.vbase.toNat + e.len - 1) / 65536 - e.vbase.toNat / 65536 + 1

/-- The granule after one that has been filled is filled next, if nothing has filled it: of the same range, and after its last one the first of
the next range (R267). -/
def refillNext (s : State) (k : TaskKey) (i g : Nat) : State :=
  let want (i g : Nat) : State :=
    match (taskOf s k).extents[i]? with
    | some e => if (Tab.find? e.granules g).isNone then pushOnce s (.granuleRefill k i g) else s
    | none => s
  match (taskOf s k).extents[i]? with
  | some e => if g + 1 < Extent.granuleCount e then want i (g + 1) else want (i + 1) 0
  | none => s

/-- WALK_RESPONSE (R265, R270, R271, R283): under the current GEN it fills its translator; a stale one is discarded, and the requester
walks again, unless the space is gone. A response for an engine whose launch is not running is discarded; a running engine finds at its next attempt that its
space is gone, and stops then. -/
def execWalkResponse (walk : Walk) (s : State) : Host.Outcome State Fault Refusal :=
  .next (
    if !spaceValid s walk.die walk.space then
      match walkLaunch s walk.forWhom with
      | some l =>
        match walk.forWhom with
        | .granule _ _ _ => goneFor s walk.die l
        | _ => if unitsGo s l then s else goneFor s walk.die l
      | none => spaceGone s walk.die
    else if walk.gen != spaceGen s walk.die walk.space then
      match walk.forWhom with
      | .granule k i g => pushOnce s (.granuleRefill k i g)
      | _ => s
    else
      let fill (who : Option NodeRef) : State :=
        match tlbFrom s walk who with
        | some e => setDie s walk.die { dieOf s walk.die with tlb := addTlb (dieOf s walk.die).tlb e }
        | none => s
      match walk.forWhom with
      | .granule k i g => refillNext (setTask s k (Task.setGranule (taskOf s k) i g (some (granuleFrom s walk)))) k i g
      | .engine n => if (nodeLaunch s n).any (fun l => (launchOf s l).state == .running) then fill (some n) else s
      | .unit _ _ => fill none)

/-! ### Engines' translation (R269 to R273) -/

/-- The engine TLB entry that hits an address (R269, R270). -/
def tlbHit (s : State) (die : Nat) (who : Option NodeRef) (space : Nat) (va : W64) : Option TlbEntry :=
  let gen := spaceGen s die space
  (dieOf s die).tlb.find? fun e =>
    e.who == tlbOwner who && e.space == space && e.gen == gen && va.toNat / 2 ^ e.log2 * 2 ^ e.log2 == e.vbase

/-- Why an engine's access is not performed: it holds, in the state given; it holds on the fault of an address's page, whose record is made if
none stands (R272, R273); it cannot be reached (R420); or its space is gone, in the state that counts that (R271). -/
inductive EngineStop where
  | hold (t : State)
  | fault (t : State) (va : W64)
  | unreachable
  | gone (t : State)

/-- Translation of one access of an engine on a die, for a walker, with the fault record that a failure makes. It holds while its page
faults (R273) and while the walk is under way; in a space that is gone its walk completes as space gone (R264, R271). An access of a killed
launch that would fault is given up, and its engine with it: its faults await nothing (R52, R274; log 65). -/
def engineTranslate (s : State) (die : Nat) (walker : Walker) (who : Option NodeRef) (space : Nat) (va : W64) (wr : Bool)
    (fault : FaultInfo) : Except EngineStop Nat :=
  let f := { fault with va := va, gen := spaceGen s die space, access := if wr then .engineWrite else .engineRead }
  let absent (f : FaultInfo) : EngineStop := if (launchOf s f.launch).killed then .gone s else .fault (reportFault s f) va
  if faultKnown s f then .error (.fault s va)
  else
    match tlbHit s die who space va with
    | some e => if wr && !e.writable then .error (absent { f with protect := true }) else .ok (e.pbase + va.toNat % 2 ^ e.log2)
    | none =>
      if !spaceValid s die space then .error (.gone (match walkLaunch s walker with | some l => goneFor s die l | none => spaceGone s die))
      else if (walkPage s die space va).isNone then .error (absent f)
      else
        .error (.hold (pushOnce s (.walkResponse { die := die, space := space, gen := spaceGen s die space, va := va, forWhom := walker })))

/-- The fault record of an engine node's access (R272): byte 13 holds its index in the region's image. -/
def nodeFault (s : State) (core launch idx : Nat) : FaultInfo :=
  { core := core, va := 0, space := (launchOf s launch).space, gen := 0, protect := false, access := .engineRead, source := idx,
    task := 0xFF, sourceKind := 1, launch := launch, slog := 0xFFFFFFFF }

/-- TLB entries that a write-protect fault made useless: dropped, so that a RETRY walks again (R270, R274). -/
def dropTlb (s : State) (space : Nat) (va : W64) : State :=
  { s with dies := s.dies.map fun (i, d) =>
      (i, { d with tlb := d.tlb.filter fun e => !(e.space == space && va.toNat / 2 ^ e.log2 * 2 ^ e.log2 == e.vbase) }) }

/-! ### Fault records (R272, R274) -/

/-- The 32 bytes of a fault record (R272). -/
def FaultInfo.record (f : FaultInfo) : List Byte :=
  let access := match f.access with | .load => 0 | .store => 1 | .atomic => 2 | .engineRead => 3 | .engineWrite => 4
  leBytes 8 f.va.toNat ++ leBytes 2 f.space ++ leBytes 1 f.gen ++ leBytes 1 (if f.protect then 2 else 1) ++ leBytes 1 access ++
    leBytes 1 f.source ++ leBytes 1 f.task ++ leBytes 1 f.sourceKind ++ leBytes 8 f.launch ++ leBytes 4 f.slog.toNat ++ leBytes 4 0

/-- CNODE of the site or engine node that a fault names (R430). -/
def faultCnode (s : State) (f : FaultInfo) : W32 :=
  let regions := (launchOf s f.launch).regions
  if f.sourceKind = 0 then
    match regions.find? fun g => decide (f.source % 16 < g.w ∧ f.source / 16 < g.h) && (Region.cores g).contains f.core with
    | some g => siteCnode (siteOf s (siteAt g (f.source % 16) (f.source / 16)))
    | none => noCnode
  else
    match regions.find? fun g => (Region.cores g).contains f.core && (Tab.find? g.nodes f.source).isSome with
    | some g => (s.sites.findSome? fun (_, x) =>
        if (x.owner.map (·.launch)) = some f.launch && (Region.cores g).contains f.core then
          (if nodeCnode x f.source = noCnode then none else some (nodeCnode x f.source)) else none).getD noCnode
    | none => noCnode

/-- FAULT_RECORD (R272, R402): the record in the core's ring of 64, and LEVENTS bit 2; a full ring holds it back. -/
def execFaultRecord (fault : FaultInfo) (s : State) : Host.Outcome State Fault Refusal :=
  let x := coreOf s fault.core
  let head := field x.fltHead 0 7
  let tail := field x.fltTail 0 7
  .next (
    if (tail + 128 - head) % 128 = 64 then setCore s fault.core { x with faultQueue := x.faultQueue ++ [fault] }
    else
      let x := { x with fltTail := BitVec.ofNat 64 ((tail + 1) % 128), faults := x.faults ++ [{ index := tail % 64, info := fault }] }
      let s := homeWrite (setCore s fault.core x) (x.fltBase.toNat + 32 * (tail % 64)) (FaultInfo.record fault)
      breakpoint (setLeafEvents s fault.core 4) 5 (faultCnode s fault) fault.core fault.launch none)

/-- FLTHEAD written: records held back take the room (R272). -/
def releaseFaults (s : State) (core : Nat) : State :=
  let x := coreOf s core
  pushAll (setCore s core { x with faultQueue := [] }) (x.faultQueue.map .faultRecord)

/-- The task after RETRY of a fault on a granule of its space: the entry is empty again, and its held accesses try again (R274). -/
def Task.retry (space : Nat) (va : W64) (t : Task) : Task :=
  let extents := t.extents.map fun e =>
    if e.space = space ∧ e.vbase.toNat / 65536 ≤ va.toNat / 65536 ∧ va.toNat / 65536 * 65536 < e.vbase.toNat + e.len then
      Extent.setGranule e (granuleNo e va) none
    else e
  { t with extents := extents,
           thread := { t.thread with producers := t.thread.producers.map fun p => { p with held := false } } }

/-- RETRY (R274): the translations of the granule are filled again, and the held and logged accesses are performed. -/
def retryFault (s : State) (core : Nat) (f : FaultInfo) : State :=
  let s := dropTlb s f.space f.va
  { s with sites := s.sites.map fun (n, x) =>
      if n / 64 = core ∧ (x.owner.map fun o => (launchOf s o.launch).space) = some f.space then
        (n, { x with tasks := x.tasks.map fun (i, t) => (i, Task.retry f.space f.va t) })
      else (n, x) }

/-- An unresolved record of a core. -/
def faultAt (s : State) (core index : Nat) : Option FaultInfo :=
  ((coreOf s core).faults.find? (·.index == index)).map (·.info)

/-- The core without a record. -/
def dropFault (s : State) (core index : Nat) : State :=
  setCore s core { coreOf s core with faults := (coreOf s core).faults.filter (·.index != index) }

/-- RETRY written to FLTRES (R274): for a record that is abandoned or resolved, no effect. -/
def resolveRetry (s : State) (core index : Nat) : State :=
  match faultAt s core index with
  | some f => retryFault (dropFault s core index) core f
  | none => s

/-- FLTRES_RETRY (R274). -/
def execFltresRetry (core index : Nat) (s : State) : Host.Outcome State Fault Refusal := .next (resolveRetry s core index)

/-! ### Draining the side log (R276) -/

/-- Whether an earlier entry of the same granule and space is still in the log (R276). -/
def drainBlocked (x : Core) (e : LogEntry) : Bool :=
  (x.sideLog.takeWhile (·.id != e.id)).any fun f =>
    f.space == e.space && (f.va.toNat / 65536 == e.va.toNat / 65536 || overlaps f.va (LogEntry.span f) e.va (LogEntry.span e))

/-- The runs of bytes that a logged store writes, each with its offset (R275). -/
def byteRuns : Nat → List (Option Byte) → List (Nat × List Byte)
  | _, [] => []
  | i, none :: r => byteRuns (i + 1) r
  | i, some b :: r =>
    match byteRuns (i + 1) r with
    | [] => [(i, [b])]
    | (j, bs) :: q => if j = i + 1 then (i, b :: bs) :: q else (i, [b]) :: (j, bs) :: q

/-- A logged access performed as it would have been, with its eviction priority and its acquire (R276). A bank operation that no longer reaches
bank memory changes nothing. -/
def drainAt (s : State) (k : TaskKey) (e : LogEntry) (pa : Nat) : Exec :=
  if e.maj = 0 then
    let runs := byteRuns 0 e.content
    if performedAtIssue s pa e.scope then do
      placeCheck s pa e.content.length
      .ok (runs.foldl (fun s (i, bs) => writePlace s (pa + i) bs) s)
    else .ok (runs.foldl (fun s (i, bs) => l1Write s k.core (pa + i) bs (.task e.task) e.evict) s)
  else
    let update : Exec := (rmwMem s e.va pa (rmwBytes e.maj e.fn) e.scope e.evict fun m => rmwNew e.maj e.fn m e.comparand e.operand).map (·.1)
    let acquired (x : Exec) : Exec := if MemOrder.acquires e.ord then x.map (acquireBy · k e.scope) else x
    match physKind pa, e.maj with
    | .bank _ _, _ => acquired update
    | _, 0x43 => .ok s
    | _, _ => acquired update

/-- The state without a side-log entry. -/
def dropEntry (s : State) (core id : Nat) : State :=
  setCore s core { coreOf s core with sideLog := (coreOf s core).sideLog.filter (·.id != id) }

/-- What a logged access is to a fault record (R272). -/
def LogEntry.kind (e : LogEntry) : AccessKind := if e.maj = 0 then .store else .atomic

/-- SIDE_LOG_DRAIN (R276): the entry waits for its turn, for its record to be resolved and for its page; otherwise it is performed. -/
def execSideLogDrain (core entry : Nat) (s : State) : Host.Outcome State Fault Refusal :=
  let again := Instr.sideLogDrain core entry
  .next (match (coreOf s core).sideLog.find? (·.id == entry) with
    | none => s
    | some e =>
      match placeOf s e.task with
      | none => push s again
      | some k =>
        let f := taskFault s k e.va false (LogEntry.kind e) (BitVec.ofNat 32 entry)
        if drainBlocked (coreOf s core) e || faultKnown s f then push s again
        else
          let s1 := { s with cur := .task k }
          match translate s1 e.va (if e.maj = 0 then 1 else LogEntry.span e) (e.maj ≠ 0) true with
          | .ok (.mem pa) =>
            match drainAt s1 k e pa with
            | .ok t => dropEntry t core entry
            | .error (.stall t) => push t again
            | .error _ => dropEntry (recordError s e.task.launch 12 0 e.task.x e.task.y e.task.slot) core entry
          | .ok (.page protect) => push (reportFault s { f with protect := protect }) again
          | .ok (.localStore _) => dropEntry s core entry
          | .error (.stall t) => push t again
          | .error _ => push s again)

/-! ### Generations (R270, R416) -/

/-- The distinct space-table entries of a space, one for each value that SPTBASE has (R279). -/
def spaceAddrs (s : State) (space : Nat) : List Nat :=
  ((List.range 4).map fun d => (dieOf s d).sptBase.toNat / 4096 * 4096 + 16 * space).eraseDups

/-- GEN of a space increased by one in every space table (R270, R279). -/
def bumpGen (s : State) (space : Nat) : State :=
  (spaceAddrs s space).foldl (fun s a => homeWrite s (a + 8) [(homeRead s (a + 8) 1).headD 0 + 1]) s

/-- A space number of a controller instruction; a source that is not data traps ILLOP (R414), and so does a number above 65,535. -/
def spaceNo (x : Scalar) : Except Stop Nat :=
  match x with
  | .data w => if w.toNat < 65536 then .ok w.toNat else illop
  | _ => illop

/-- The saved launches of a space that is torn down are killed with SPACE_GONE (R283). -/
def tearDown (s : State) (space : Nat) : State :=
  if spaceValid s 0 space then s
  else
    let ls := s.launches.filter fun (_, a) => a.space == space && a.saved.isSome
    ls.foldl (fun s (l, _) => killWith s l 9 0 0xFF 0xFF 0xFF) s

/-- GENBUMP (R270, R416): its destination receives the new GEN. -/
def execGenbump (o : Operands) (s : State) : Host.Outcome State Fault Refusal :=
  issue { site := false, leaf := false, glob := true } o s (predicated s (Mod.pred o.mod) do
    ready s o
    let n ← spaceNo (scalarOf s o.a)
    let s' := tearDown (bumpGen s n) n
    .ok (retire (produceS s' o.dst (.data (BitVec.ofNat 64 (spaceGen s' 0 n))))))

/-- Every TLB and page-list entry of a space removed (R270). -/
def flushSpace (s : State) (space : Nat) : State :=
  { s with
    dies := s.dies.map fun (i, d) => (i, { d with tlb := d.tlb.filter (·.space != space) }),
    sites := s.sites.map fun (n, x) =>
      (n, { x with tasks := x.tasks.map fun (i, t) =>
        (i, { t with extents := t.extents.map fun e => if e.space = space then { e with granules := [] } else e }) }) }

/-- SPFLUSH (R270, R416). -/
def execSpflush (o : Operands) (s : State) : Host.Outcome State Fault Refusal :=
  issue { site := false, leaf := false, glob := true } o s (predicated s (Mod.pred o.mod) do
    ready s o
    let n ← spaceNo (scalarOf s o.a)
    .ok (retire (flushSpace s n)))

/-! ### Hotness (R278) -/

/-- A hotness entry replaced. -/
def setHot (s : State) (die : Nat) (e : HotEntry) : State :=
  let d := dieOf s die
  setDie s die { d with hot := d.hot.map fun x => if x.space = e.space ∧ x.window = e.window then e else x }

/-- The 16 bytes of a notification (R278). -/
def HotEntry.note (e : HotEntry) (die : Nat) : List Byte :=
  leBytes 8 ((BitVec.ofNat 57 (e.window * 2 ^ 21)).signExtend 64).toNat ++ leBytes 2 e.space ++
    leBytes 1 ((if e.requeued then 128 else 0) + die % 4) ++ leBytes 2 (e.deliv / 256) ++ leBytes 2 (e.starve / 4096) ++ leBytes 1 0

/-- HOTNESS_CROSSING (R278): a notification written, a queued entry marked again, or a full queue's drop. -/
def execHotnessCrossing (die space window : Nat) (s : State) : Host.Outcome State Fault Refusal :=
  let d := dieOf s die
  .next (match d.hot.find? fun e => e.space == space && e.window == window with
    | none => s
    | some e =>
      let head := field d.hotQHead 0 11
      let tail := field d.hotQTail 0 11
      if e.queued then setHot s die { e with requeued := true }
      else if (tail + 2048 - head) % 2048 = 1024 then
        let s := setHot s die { e with deliv := 0, starve := 0 }
        setDie s die { dieOf s die with hotDrop := if d.hotDrop.toNat ≥ 2 ^ 32 - 1 then 0xFFFFFFFF else d.hotDrop + 1 }
      else
        let s := setHot s die { e with queued := true }
        let s := setDie s die { dieOf s die with hotQTail := BitVec.ofNat 64 ((tail + 1) % 2048) }
        homeWrite s (d.hotQBase.toNat + 16 * (tail % 1024)) (HotEntry.note e die))

/-- HOTCLR written (R278): [15:0] space, [56:21] window. -/
def clearHot (s : State) (die : Nat) (w : W64) : State :=
  match (dieOf s die).hot.find? fun e => e.space == field w 0 16 && e.window == field w 21 36 with
  | none => s
  | some e => setHot s die { e with queued := false, requeued := false, deliv := 0, starve := 0 }

/-- HOTCLR (R278). -/
def execHotclr (die : Nat) (w : W64) (s : State) : Host.Outcome State Fault Refusal := .next (clearHot s die w)

end Sys2Proof.Machine
end

