-- ==== Sys2Proof/Machine/Engine.lean ====
section
/-! DEFINITION. What the engines share: node ids, reads and writes by virtual address, results to tasks, and job cards
(R195, R255, R256, R273, R312, R344, R345, R420). -/

namespace Sys2Proof.Machine

/-! ### Node ids (R27, R116, R312) -/

/-- The physical node that a region's node id names, for a task of the region. -/
def nodeAt (s : State) (r : TaskRef) (id : Nat) : Option NodeRef :=
  (regionOf s r.launch r.region).bind fun g => Tab.find? g.nodes id

/-- The node of a kind that an id names, or ILLOP (R312). -/
def nodeOr (s : State) (r : TaskRef) (id : W64) (ks : List NodeKind) : Except Stop NodeRef :=
  match nodeAt s r id.toNat with
  | some n => if id.toNat < 16 ∧ ks.contains n.kind then .ok n else illop
  | none => illop

/-- A source that must be data, or ILLOP (R312, R349). -/
def dataOf (x : Scalar) : Except Stop W64 :=
  match x with
  | .data w => .ok w
  | _ => illop

/-- Lanes 0 to 15 of a descriptor; they must be data and lanes 16 to 63 zero, or ILLOP (R318, R320, R354). A null lane holds zero (R80). -/
def descriptor (ls : Vector Lane 64) : Except Stop (List W32) :=
  let l := ls.toList
  if (l.take 16).all Lane.isData && (l.drop 16).all (fun x => x == .data 0 || x == .null) then .ok ((l.take 16).map Lane.pattern) else illop

/-- Lane `i` of a descriptor. -/
def dlane (d : List W32) (i : Nat) : W32 := d[i]?.getD 0

/-- The 64-bit address in lanes `i` and `i + 1`, low lane first. -/
def daddr (d : List W32) (i : Nat) : W64 := (dlane d (i + 1)).setWidth 64 <<< 32 ||| (dlane d i).setWidth 64

/-- A signed 32-bit distance as 64 bits. -/
def signed32 (w : W32) : W64 := w.signExtend 64

/-! ### Results to tasks (R121, R256) -/

/-- A producer of a task's thread given its value: it fills when it completes next. -/
def Thread.give (t : Thread) (id : Nat) (f : Fill) : Thread :=
  { t with producers := t.producers.map fun p => if p.id = id then { p with state := .ready f } else p }

/-- An engine's result for a task's producer; a task that is gone takes nothing. -/
def giveTask (s : State) (r : TaskRef) (id : Option Nat) (f : Fill) : State :=
  match id, placeOf s r with
  | some i, some k => setTask s k { taskOf s k with thread := Thread.give (taskOf s k).thread i f }
  | _, _ => s

/-- The scalar register that an engine's producer fills. -/
def producerDst (s : State) (r : TaskRef) (id : Nat) : Option (Fin 64) :=
  (placeOf s r).bind fun k =>
    match (taskOf s k).thread.producers.find? (·.id == id) with
    | some p => (match p.state with | .engine (.s i) => some i | _ => none)
    | none => none

/-- A scalar result for a task's producer. -/
def giveScalar (s : State) (r : TaskRef) (id : Option Nat) (x : Scalar) : State :=
  match id.bind (producerDst s r) with
  | some i => giveTask s r id (.scalar i x)
  | none => s

/-- A command's destination marked empty until the engine answers; its producer's number, if it names one (R121). -/
def engineProducer (s : State) (d : Dst) : State × Option Nat :=
  match d with
  | .none => (s, none)
  | d => (startProducer s d (.engine d) none, some (nextProducer s))

/-! ### Engine accesses (R195, R255, R273, R341, R420) -/

/-- Who accesses memory: the core whose L1 it reads through and to which its writes are registered, its die, who walks for it, its TLB,
its space, and the fault record of a failure. -/
structure Accessor where
  core : Nat
  die : Nat
  walker : Walker
  who : Option NodeRef
  space : Nat
  fault : FaultInfo

/-- Translation for an accessor. The local-store window and addresses that are not canonical are present on no page (R131, R262). -/
def accessPa (s : State) (a : Accessor) (va : W64) (wr : Bool) : Except EngineStop Nat :=
  if !canonical va || inWindow va then
    .error (if (launchOf s a.fault.launch).killed then .gone s
      else .fault (reportFault s { a.fault with va := va, gen := spaceGen s a.die a.space,
                                                access := if wr then .engineWrite else .engineRead }) va)
  else engineTranslate s a.die a.walker a.who a.space va wr a.fault

/-- The addresses among `n` bytes that a core's L1 does not hold (R189). -/
def missing (s : State) (c pa n : Nat) : List Nat :=
  ((List.range n).map (pa + ·)).filter fun a => !bit (L1Line.readable (l1Line (coreOf s c) (a / 128))) (a % 128)

/-- Whether a write-back of the core of a word is unanswered: a read of the word follows it (R198, R220). -/
def wbUnanswered (s : State) (c a : Nat) : Bool := (coreOf s c).wbOut.any fun (l, m, _) => l == a / 128 && bit m (a % 128 / 4)

/-- Whether the home of some bytes can serve each of them to a core's engine now, for a launch (R200, R210, R451). -/
def missesReady (s : State) (l c : Nat) : List Nat → Except EngineStop Unit
  | [] => .ok ()
  | a :: r =>
    if wbUnanswered s c a then .error (.hold s)
    else if badIn s a 1 then .error (.hold (reportBad s l a))
    else
      match placeReady s a 1 false false with
      | .ok _ => missesReady s l c r
      | .error (.stall t) => .error (.hold t)
      | .error _ => .error (.hold s)

/-- The words of a line that its home can serve to a core now. -/
def serviceable (s : State) (c line : Nat) : W32 :=
  (List.range 32).foldl (fun m w =>
    let a := 128 * line + 4 * w
    if homeBusyAt s a || !halfReady s a false || wbUnanswered s c a then m else m ||| ((1 : W32) <<< w)) 0

/-- A miss of an engine's read served by its home within the step of the read (log 124): the line fills as a DATA would fill it, and is counted
(R189, R277). A DATA that is under way fills nothing. -/
def fillNow (s : State) (c space : Nat) (va : W64) (line : Nat) : State :=
  let words := serviceable s c line
  let content : LineData := BitVec.ofNat 1024 (leNat (homeRead s (128 * line) 128))
  let s := makeRoom (hotCount s (c / 4) space va) c line
  let x := Core.overtake (coreOf s c) (· == line)
  setCore s c (Core.setLine x line (L1Line.fill (l1Line x line) content words))

/-- The lines of some bytes used by an engine, whose accesses have eviction priority 3 (R189; log 124). -/
def touchLines (s : State) (c pa n : Nat) : State :=
  (linesOf pa n).foldl (fun s l => setCore s c (Core.setLine (coreOf s c) l (L1Line.touch (l1Line (coreOf s c) l) 3 s.clock))) s

/-- `n` bytes within one page as a load at core scope would read them for a launch, through the core's L1 (R341); misses are served by their
homes. -/
def coreRead (s : State) (l c space : Nat) (va : W64) (pa n : Nat) : Except EngineStop (State × List Byte) :=
  let cached : Except EngineStop (State × List Byte) := do
    let away := missing s c pa n
    missesReady s l c away
    let s := ((away.map (· / 128)).eraseDups).foldl (fun s l => fillNow s c space (va + BitVec.ofNat 64 (128 * l - pa)) l) s
    .ok (touchLines s c pa n, (List.range n).map fun i => lineByte (l1Line (coreOf s c) ((pa + i) / 128)).content ((pa + i) % 128))
  match physKind pa with
  | .bank _ _ => .ok (s, readBytes s.mem pa n)
  | .far =>
    match farTarget s (c / 4) pa with
    | .unreachable => .error .unreachable
    | .fabric _ => .ok (noteRemote s (c / 4) pa [], remoteBytes s pa n)
    | .host _ => cached
  | _ => cached

/-- Whether an undrained side-log entry of the core overlaps an access: the engine's access waits until it has drained (R255, R276). -/
def logHolds (s : State) (a : Accessor) (va : W64) (n : Nat) : Bool :=
  (coreOf s a.core).sideLog.any fun e => e.space == a.space && LogEntry.touches e va n

/-- `n` bytes of virtual memory, which may cross a page boundary. -/
def accessRead (s : State) (a : Accessor) (va : W64) (n : Nat) : Except EngineStop (State × List Byte) := do
  if logHolds s a va n then .error (.hold s) else .ok ()
  let first := min n (65536 - va.toNat % 65536)
  let pa ← accessPa s a va false
  let (s1, bs) ← coreRead s a.fault.launch a.core a.space va pa first
  if first = n then .ok (s1, bs)
  else do
    let va2 := va + BitVec.ofNat 64 first
    let pa2 ← accessPa s1 a va2 false
    let (s2, bs2) ← coreRead s1 a.fault.launch a.core a.space va2 pa2 (n - first)
    .ok (s2, bs ++ bs2)

/-- The writer that an accessor's stores are registered for. -/
def Accessor.writer (a : Accessor) : Writer := .node a.fault.launch (a.who.getD { kind := .copych, home := a.core, idx := 0 })

/-- Whether every store of an accessor has been acknowledged by its home (R256, R342). -/
def nodeAcked (s : State) (a : Accessor) : Bool := (coreOf s a.core).regsOut.all fun o => !o.who.contains a.writer

/-- A report to a task of writes made through another L1, or at their homes, is an acquire of them: the clean copies of the task's core are
dropped, but for writes that were made through its own L1 (R256). -/
def reportAcquire (s : State) (r : TaskRef) (writer : Option Nat) : State :=
  match placeOf s r with
  | some k => if writer = some k.core then s else setCore s k.core (Core.dropAllClean (coreOf s k.core))
  | none => s

/-- Whether two fault records are of one engine node. -/
def sameNode (f g : FaultInfo) : Bool := g.source == f.source && g.sourceKind == 1 && g.launch == f.launch

/-- Whether a fault of an engine node is on its way or unresolved (R272, R273). -/
def nodeFaulted (s : State) (f : FaultInfo) : Bool :=
  (coreOf s f.core).faults.any (fun e => sameNode f e.info) || (coreOf s f.core).faultQueue.any (sameNode f) ||
    s.agenda.any fun q => match q with | .faultRecord g => g.core == f.core && sameNode f g | _ => false

/-- The faults of an engine node abandoned: a FLTRES for a record that is already written has no effect, and one on its way is not
written (R274, R359). -/
def abandonFaults (s : State) (f : FaultInfo) : State :=
  let x := coreOf s f.core
  let s := setCore s f.core { x with faults := x.faults.filter fun e => !sameNode f e.info, faultQueue := x.faultQueue.filter fun g => !sameNode f g }
  { s with agenda := s.agenda.filter fun q => match q with | .faultRecord g => !(g.core == f.core && sameNode f g) | _ => true }

/-- `n` bytes read at their place from a die, by a unit that has no L1, for a launch (R193, R356). -/
def placeRead (s : State) (l die pa n : Nat) : Except EngineStop (State × List Byte) :=
  match readFrom s (some l) die pa n false with
  | .ok bs => .ok (noteRemote s die pa [], bs)
  | .error (.stall t) => .error (.hold t)
  | .error _ => .error .unreachable

/-- Several reads of virtual memory, in order. -/
def accessReads (s : State) (a : Accessor) : List (W64 × Nat) → Except EngineStop (State × List (List Byte))
  | [] => .ok (s, [])
  | (va, n) :: r => do
    let (s, bs) ← accessRead s a va n
    let (s, bss) ← accessReads s a r
    .ok (s, bs :: bss)

/-- A write of bytes within one page as a store by the core (R195, R341); the words registered, line by line. -/
def coreWrite (s : State) (c pa : Nat) (bs : List Byte) (who : Writer) : Except EngineStop (State × List (Nat × W32)) :=
  let stored : State × List (Nat × W32) :=
    let ls := linesOf pa bs.length
    (ls.foldl (fun s l =>
      let lo := max pa (128 * l)
      let hi := min (pa + bs.length) (128 * l + 128)
      l1Write s c lo ((bs.drop (lo - pa)).take (hi - lo)) who 3) s, ls.map fun l => (l, wordsIn l pa bs.length))
  match physKind pa with
  | .bank _ _ => .ok (homeWrite s pa bs, [])
  | .far =>
    match farTarget s (c / 4) pa with
    | .unreachable => .error .unreachable
    | .fabric _ => .ok (noteRemote s (c / 4) pa bs, [])
    | .host _ => .ok stored
  | _ => .ok stored

/-- A write of virtual memory, which may cross a page boundary. -/
def accessWrite (s : State) (a : Accessor) (va : W64) (bs : List Byte) : Except EngineStop (State × List (Nat × W32)) := do
  if logHolds s a va bs.length then .error (.hold s) else .ok ()
  let first := min bs.length (65536 - va.toNat % 65536)
  let pa ← accessPa s a va true
  if first = bs.length then coreWrite s a.core pa bs a.writer
  else do
    let pa2 ← accessPa s a (va + BitVec.ofNat 64 first) true
    let (s, ws) ← coreWrite s a.core pa (bs.take first) a.writer
    let (s, ws2) ← coreWrite s a.core pa2 (bs.drop first) a.writer
    .ok (s, ws ++ ws2)

/-- A little-endian 64-bit word in bytes. -/
def le64 (bs : List Byte) : W64 := BitVec.ofNat 64 (leNat bs)

/-- The launch's error, without killing it (R343, R408, R420). -/
def launchError (s : State) (l cause : Nat) : State := recordError s l cause 0 0xFF 0xFF 0xFF

/-- An engine that cannot reach memory stops, and its launch completes with error REMOTE_UNREACHABLE (R420). -/
def engineUnreachable (s : State) (l : Nat) : State := launchError s l 12

/-- The units of a region run once it is dispatched, while its launch is placed and not halted (R39, R55, R435). -/
def unitRuns (s : State) (o : Owner) : Bool := unitsGo s o.launch && (regionOf s o.launch o.region).any (·.dispatched)

/-- An engine node runs with the units of its region, unless it is halted (R39, R55). -/
def engineRuns (s : State) (o : Option (Owner × Nat)) (halted : Bool) : Bool :=
  match o with
  | some (w, _) => unitRuns s w && !halted
  | none => false

/-- A launch that is being pre-empted or halted, whose engine nodes are on the way to their boundaries (R55, R435). -/
def stopping (s : State) (l : Nat) : Bool :=
  (launchOf s l).state == .running && ((launchOf s l).preempt || (launchOf s l).halted)

/-- An engine node of a launch that is being pre-empted or halted goes on to its boundary, unless it has halted or a fault holds it there
(R55, R283, R295, R435). -/
def engineEnds (s : State) (o : Option (Owner × Nat)) (halted held : Bool) : Bool :=
  match o with
  | some (w, _) => stopping s w.launch && (regionOf s w.launch w.region).any (·.dispatched) && !halted && !held
  | none => false

/-! ### Job cards (R344, R345) -/

/-- A byte range of a space, in the numbering of footprints. -/
def spaceRange (space : Nat) (lo : Int) (n : Nat) : Nat × Nat := (space * 2 ^ 64 + (lo % 2 ^ 64).toNat, n)

/-- Whether two lists of ranges share a byte. -/
def rangesMeet (a b : List (Nat × Nat)) : Bool :=
  a.any fun (x, n) => b.any fun (y, m) => decide (0 < n ∧ 0 < m ∧ x < y + m ∧ y < x + n)

/-- Whether the window of 64 cards has room (R345). -/
def cardRoom (s : State) (c : Nat) : Bool := decide ((coreOf s c).cards.length < 64)

/-- The edges of a new card from an earlier one (R345): where the earlier writes what the later reads or writes, its writes must be registered;
where it reads what the later writes, its reads must be performed. -/
def edgesFrom (reads writes : List (Nat × Nat)) (k : Card) : List (Nat × Bool) :=
  (if rangesMeet k.writes reads || rangesMeet k.writes writes then [(k.id, true)] else []) ++
    (if rangesMeet k.reads writes then [(k.id, false)] else [])

/-- A card enters the window with an edge from every earlier card that its footprint meets, and begins in a step to come (R345). -/
def enterCard (s : State) (c launch : Nat) (reads writes : List (Nat × Nat)) : State × Nat :=
  let x := coreOf s c
  let card : Card := { id := x.nextCard, launch := launch, reads := reads, writes := writes,
                       after := x.cards.flatMap (edgesFrom reads writes), begun := false, readsDone := false, writesDone := false }
  (push (setCore s c { x with cards := x.cards ++ [card], nextCard := x.nextCard + 1 }) (.cardBegin c x.nextCard), x.nextCard)

/-- Whether a card has begun. -/
def cardBegun (s : State) (c card : Nat) : Bool := (coreOf s c).cards.any fun k => k.id == card && k.begun

/-- A card changed. -/
def setCard (s : State) (c card : Nat) (f : Card → Card) : State :=
  setCore s c { coreOf s c with cards := (coreOf s c).cards.map fun k => if k.id = card then f k else k }

/-- A card that completes leaves the window. -/
def leaveCard (s : State) (c card : Nat) : State := setCore s c { coreOf s c with cards := (coreOf s c).cards.filter (·.id != card) }

/-- Whether an edge is satisfied: its card has left the window, or has done what the edge waits for (R345). -/
def edgeDone (cards : List Card) (e : Nat × Bool) : Bool :=
  match cards.find? (·.id == e.1) with
  | none => true
  | some k => if e.2 then k.writesDone else k.readsDone

/-- CARD_BEGIN (R345): the card begins once every edge is satisfied. -/
def execCardBegin (core card : Nat) (s : State) : Host.Outcome State Fault Refusal :=
  let x := coreOf s core
  .next (match x.cards.find? (·.id == card) with
    | none => s
    | some k =>
      if k.after.all (edgeDone x.cards) then setCard s core card fun y => { y with begun := true }
      else push s (.cardBegin core card))

end Sys2Proof.Machine
end

