-- ==== Sys2Proof/Machine/Links.lean ====
section
/-! DEFINITION. Routes of tokens (R28, R135). -/

namespace Sys2Proof.Machine

/-- Where a route leads (R135). -/
inductive RouteTo where
  | site (x y chan : Nat)
  | node (id input : Nat)
  deriving DecidableEq, Repr

/-- The destination that a route word names; none where a bit that must be zero is set (R135). -/
def routeTo (w : W32) : Option RouteTo :=
  if bit w 30 || field w 15 3 != 0 then none
  else if bit w 31 then some (.node (field w 26 4) (field w 10 5))
  else if field w 26 4 = 0 then some (.site (field w 18 4) (field w 22 4) (field w 10 5)) else none

/-- The number of inputs of an engine node (R192, R290, R306). -/
def NodeKind.inputs : NodeKind → Nat
  | .acc => 1
  | .topk => 4
  | .stream => 1
  | _ => 0

/-- Whether a route leads to an input channel of a site, or an input of an engine node, of a region (R28, R354). -/
def routeInside (g : Region) (w : W32) : Bool :=
  match routeTo w with
  | some (.site x y _) => decide (x < g.w ∧ y < g.h)
  | some (.node id k) =>
    match Tab.find? g.kinds id with
    | some kind => decide (k < NodeKind.inputs kind)
    | none => false
  | none => false

/-- The region of a task. -/
def regionOfRef (s : State) (r : TaskRef) : Option Region := regionOf s r.launch r.region

/-- A ROUTEW of a descriptor, checked against the issuing task's region (R354, R358). -/
def routeOrIllop (s : State) (r : TaskRef) (w : W32) : Except Stop Unit :=
  match regionOfRef s r with
  | some g => if routeInside g w then .ok () else illop
  | none => illop

end Sys2Proof.Machine
end

