-- ==== Sys2Proof/Machine/Matrix.lean ====
section
/-! DEFINITION. The matrix engine: the arithmetic of a group, the slab's steps, the bound monitor, accumulator and top-k nodes, the ramp
limiter (R284 to R311, R321 to R327, R333 to R337). -/

namespace Sys2Proof.Machine

/-! ### Nodes -/

/-- A slab of a core. -/
def slabOf (s : State) (c i : Nat) : Slab := ((coreOf s c).slabs.toList)[i]?.getD Slab.init
/-- The state with a slab replaced. -/
def setSlab (s : State) (c i : Nat) (x : Slab) : State := setCore s c { coreOf s c with slabs := (coreOf s c).slabs.setIfInBounds i x }
/-- An accumulator node of a core. -/
def accOf (s : State) (c i : Nat) : Acc := ((coreOf s c).accs.toList)[i]?.getD Acc.init
/-- The state with an accumulator node replaced. -/
def setAcc (s : State) (c i : Nat) (x : Acc) : State := setCore s c { coreOf s c with accs := (coreOf s c).accs.setIfInBounds i x }
/-- A top-k node of a core. -/
def topkOf (s : State) (c i : Nat) : TopK := ((coreOf s c).topks.toList)[i]?.getD TopK.init
/-- The state with a top-k node replaced. -/
def setTopk (s : State) (c i : Nat) (x : TopK) : State := setCore s c { coreOf s c with topks := (coreOf s c).topks.setIfInBounds i x }

/-! ### The fields of a tile command (R318, R319) -/

/-- M. -/
def TileCmd.m (t : TileCmd) : Nat := field (dlane t.lanes 0) 16 7 + 1
/-- N. -/
def TileCmd.n (t : TileCmd) : Nat := field (dlane t.lanes 1) 0 8 + 1
/-- K. -/
def TileCmd.k (t : TileCmd) : Nat := (dlane t.lanes 2).toNat
/-- The format of A. -/
def TileCmd.afmt (t : TileCmd) : Fmt := Fmt.ofCode (field (dlane t.lanes 1) 8 3)
/-- The format of B. -/
def TileCmd.bfmt (t : TileCmd) : Fmt := Fmt.ofCode (field (dlane t.lanes 1) 11 3)
/-- The node id of the slab. -/
def TileCmd.slabId (t : TileCmd) : Nat := field (dlane t.lanes 0) 0 4
/-- The node ids of the accumulator nodes: one for M ≤ 64, two above (R290). -/
def TileCmd.accIds (t : TileCmd) : List Nat :=
  if t.m ≤ 64 then [field (dlane t.lanes 0) 4 4] else [field (dlane t.lanes 0) 4 4, field (dlane t.lanes 0) 8 4]

/-- The K-group of a dense format, or none (R285). -/
def Fmt.group : Fmt → Option Nat
  | .e4m3 => some 32 | .e5m2 => some 32 | .int8 => some 32 | .bf16 => some 16 | .hxf4 => some 8 | _ => none

/-- The K-group of a command: 64 in the sparse modes (R285, R299, R300). -/
def TileCmd.group (t : TileCmd) : Nat :=
  match t.form with
  | .mmas => 64
  | .mman => 64
  | _ => (Fmt.group t.afmt).getD 1

/-- G. -/
def TileCmd.groups (t : TileCmd) : Nat := t.k / t.group

/-- Bytes of an element of a dense operand. -/
def Fmt.bytes : Fmt → Nat
  | .bf16 => 2
  | _ => 1

/-- Bytes of one group of a dense row. -/
def groupBytes (f : Fmt) (g : Nat) : Nat := if f = .hxf4 then 4 else g * Fmt.bytes f

/-- KMLO ≤ block < KMLO + KMCNT: the K mask of an MMAB (R319). -/
def TileCmd.masked (t : TileCmd) (g : Nat) : Bool :=
  t.form == .mmab && decide (field (dlane t.lanes 15) 4 14 ≤ g ∧ g < field (dlane t.lanes 15) 4 14 + field (dlane t.lanes 15) 18 14)

/-- The address of row `i` of an operand, with a signed stride. -/
def rowAddr (base : W64) (stride : W32) (i : Nat) : W64 := base + BitVec.ofNat 64 i * signed32 stride

/-- The stride of a scale array: a quarter of the operand's (R319). -/
def quarter (stride : W32) : W32 := stride.sshiftRight 2

/-! ### Sub-tiles (R183, R296, R336) -/

/-- Whether sub-tile (r, c) is live. -/
def TileCmd.live (t : TileCmd) (r c : Nat) : Bool := bit t.mask (8 * r + c)

/-- The row bands of the mask's rectangle that hold rows of the tile. -/
def TileCmd.bands (t : TileCmd) : List Nat :=
  let rs := (List.range 8).filter fun r => (List.range 8).any fun c => t.live r c
  (List.range 8).filter fun r => decide (rs.headD 8 ≤ r ∧ r ≤ rs.getLast?.getD 0 ∧ 16 * r < t.m) && !rs.isEmpty

/-- The 32-column stripes of the mask's rectangle. -/
def TileCmd.stripes (t : TileCmd) : List Nat :=
  let cs := (List.range 8).filter fun c => (List.range 8).any fun r => t.live r c
  (List.range 8).filter fun c => decide (cs.headD 8 ≤ c ∧ c ≤ cs.getLast?.getD 0) && !cs.isEmpty

/-- The elements of a 16-column sub-block that groups are added to, by row and column. -/
def TileCmd.blockElems (t : TileCmd) (b : Nat) : List (Nat × Nat) :=
  ((List.range 16).map (16 * b + ·)).filter (· < t.n) |>.flatMap fun n =>
    ((List.range t.m).filter fun m => t.live (m / 16) (n / 32)).map fun m => (m, n)

/-- The sub-blocks of a verdict-class command that count as decided from its first group: those without a column below N, and those of a stripe
without a live bit (R336). -/
def TileCmd.emptyBlocks (t : TileCmd) : List Nat :=
  (List.range 16).filter fun b => decide (t.n ≤ 16 * b) || !(List.range 8).any fun r => t.live r (b / 2)

/-! ### The arithmetic of one group (R286 to R289, R298 to R300) -/

/-- What a row of A holds in a group: its unmasked elements by k, its block scale, whether the row is bad (R300), and the cycles that a row of its
class takes (R299, R300). -/
structure ARow where
  elems : List (Nat × W32)
  scale : Byte
  bad : Bool
  cost : Nat
  deriving DecidableEq, Repr

/-- What a row of the stored B holds in a group. -/
structure BRow where
  elems : List W32
  scale : Byte
  deriving DecidableEq, Repr

/-- The elements of a stretch of a dense row, lowest k first (R73, R284). -/
def denseElems (f : Fmt) (bs : List Byte) : List W32 :=
  match f with
  | .bf16 => (List.range (bs.length / 2)).map fun i => BitVec.ofNat 32 (leNat ((bs.drop (2 * i)).take 2))
  | .hxf4 => bs.flatMap fun b => [(bits b 0 4).setWidth 32, (bits b 4 4).setWidth 32]
  | _ => bs.map fun b => b.setWidth 32

/-- The pairs of elements whose products a group sums. -/
def groupPairs (a : ARow) (b : BRow) : List (W32 × W32) := a.elems.filterMap fun (k, x) => (b.elems[k]?).map fun y => (x, y)

/-- The exact sum of a group's products (R286); infinities and NaN follow R287. -/
def groupSum (af bf : Fmt) (ps : List (W32 × W32)) : Val :=
  ps.foldl (fun acc (x, y) => Val.add .rne acc (Val.mul (Fmt.value af x) (Fmt.value bf y))) (.fin false 0 0)

/-- Whether a group holds a NaN input (R287). -/
def groupNan (af bf : Fmt) (ps : List (W32 × W32)) : Bool :=
  ps.any fun (x, y) => (Fmt.value af x).isNan || (Fmt.value bf y).isNan

/-- The exact INT8 sum (R288). -/
def groupInt (ps : List (W32 × W32)) : Int := ps.foldl (fun acc (x, y) => acc + (bits x 0 8).toInt * (bits y 0 8).toInt) 0

/-- One element after a floating-point group, with the event that the group is (R286, R287). -/
def addFloat (af bf : Fmt) (c : W32) (ps : List (W32 × W32)) : W32 × Status :=
  let v := groupSum af bf ps
  let new := roundF32 .rne (Val.add .rne (f32Val c) (f32Val (roundF32 .rne v)))
  (new, if groupNan af bf ps then .nanin else if (f32Val new).isNan then .invalid else .none)

/-- One element after an HXF4 block (R76, R289, R323 stages 1 to 4). -/
def addBlock (c : W32) (sa sb : Byte) (ps : List (W32 × W32)) : W32 × Status :=
  match e3m5Scaled sa, e3m5Scaled sb with
  | some x, some y =>
    let q : Int := ps.foldl (fun acc (a, b) => acc + e2m1Twice (bits a 0 4) * e2m1Twice (bits b 0 4)) 0
    let v : Val := .fin (decide (q < 0)) (q.natAbs * x * y) (-16)
    (roundF32 .rne (Val.add .rne (f32Val c) v), .none)
  | _, _ => (c, .scale)

/-! ### A slab whose FP8 datapath has failed (R453, R454, log 33) -/

/-- Whether a format is FP8. -/
def Fmt.fp8 : Fmt → Bool
  | .e4m3 => true
  | .e5m2 => true
  | _ => false

/-- Whether a command's FP8 operands are quantised to HXF4 on a slab (R454). -/
def TileCmd.degraded (t : TileCmd) (core slab : Nat) : Bool :=
  t.form != .mmab && Fmt.fp8 t.afmt && Fmt.fp8 t.bfmt && Config.fp8Failed core slab

/-- The magnitude of an FP8 element in units of 2^−16, of which every FP8 value is a multiple (R64). -/
def fp8Mag (f : Fmt) (x : W32) : Nat :=
  match Fmt.value f x with
  | .fin _ m e => m * 2 ^ (e + 16).toNat
  | _ => 0

/-- The exponent of the band scale: the least from −126 up with amax ÷ 186 ≤ 2^e (R454). -/
def bandExp (amax : Nat) : Int :=
  ((List.range 160).map fun (i : Nat) => Int.ofNat i - 126).find? (fun e => decide (amax * 2 ^ (-16 - e).toNat ≤ 186 * 2 ^ (e + 16).toNat)) |>.getD 0

/-- A power of two as a BF16 band scale. -/
def bandPattern (e : Int) : BitVec 16 := BitVec.ofNat 16 ((e + 127).toNat * 128)

/-- The exponent of a band scale that is a power of two. -/
def bandOf (w : BitVec 16) : Int := (field w 7 8 : Int) - 127

/-- The block scale: amax ÷ (6 × band) as E3M5, rounded up (R454). -/
def blockScale (e : Int) (amax : Nat) : Byte :=
  ((List.range 255).find? fun c =>
    decide (amax * 2 ^ (-9 - e).toNat ≤ ((e3m5Scaled (BitVec.ofNat 8 c)).getD 0) * 6 * 2 ^ (e + 9).toNat)).elim 0xFE (BitVec.ofNat 8)

/-- The E2M1 code of an element ÷ (block × band), to nearest even, saturating (R454). -/
def quantCode (f : Fmt) (e : Int) (scale : Byte) (x : W32) : W32 :=
  let num := fp8Mag f x * 2 ^ (-8 - e).toNat
  let den := (e3m5Scaled scale).getD 0 * 2 ^ (e + 8).toNat
  let mid (i : Nat) : Nat := ([1, 3, 5, 7, 10, 14, 20][i]?).getD 0
  let code := ((List.range 7).filter fun i => decide (mid i * den < 2 * num) || (decide (2 * num = mid i * den) && i % 2 == 1)).length
  if den = 0 then 0 else BitVec.ofNat 32 (code + (if bit x 7 then 8 else 0))

/-- Elements of one block of 8, quantised: the codes with their places, and the block scale. -/
def quantBlock (f : Fmt) (e : Int) (b : Nat) (es : List (Nat × W32)) : List (Nat × W32) × Byte :=
  let xs := es.filter fun (k, _) => k / 8 == b
  let scale := blockScale e ((xs.map fun (_, x) => fp8Mag f x).foldl max 0)
  (xs.map fun (k, x) => (k, quantCode f e scale x), scale)

/-- One element after a group whose FP8 operands are quantised, block by block (R289, R454). -/
def addQuantised (t : TileCmd) (ea eb : Int) (c : W32) (a : ARow) (b : BRow) : W32 × Status :=
  (List.range 8).foldl (fun (c, st) k =>
    let (qa, sa) := quantBlock t.afmt ea k a.elems
    let (qb, sb) := quantBlock t.bfmt eb k ((List.range b.elems.length).zip b.elems)
    let (v, _) := addBlock c sa sb (qa.filterMap fun (i, x) => (qb.find? (·.1 == i)).map fun (_, y) => (x, y))
    (v, st)) (c, Status.none)

/-- One element after a group of a command; `bands` are the band scales of its row and column where the operands are quantised. -/
def addGroup (t : TileCmd) (bands : Option (Int × Int)) (c : W32) (a : ARow) (b : BRow) : W32 × Status :=
  if a.bad then (c, .rowBad)
  else if let some (ea, eb) := bands then addQuantised t ea eb c a b
  else if t.form = .mmab then addBlock c a.scale b.scale (groupPairs a b)
  else if t.afmt = .int8 then (c + BitVec.ofInt 32 (groupInt (groupPairs a b)), .none)
  else addFloat t.afmt t.bfmt c (groupPairs a b)

/-- The key of an element in a node. -/
def elemKey (m n : Nat) : Nat := 256 * (m % 64) + n

/-- An element updated by a group: the first event stays (R287), but a bad row's code 6 replaces it (R300). -/
def Acc.add (x : Acc) (m n : Nat) (f : W32 → W32 × Status) : Acc :=
  let key := elemKey m n
  let old := Tab.get Status.none x.status key
  let (v, e) := f (Tab.get 0 x.sums key)
  let st := if e = .rowBad then e else if old = .none then e else old
  { x with sums := if v = 0 then Tab.del x.sums key else Tab.put x.sums key v,
           status := if st = .none then x.status else Tab.put x.status key st }

/-! ### Fetching a group's operands (R273, R284, R298, R300, R302) -/

/-- The accessor of a slab's load pipe, for the launch that owns it. -/
def slabAccessor (s : State) (c i : Nat) : Accessor :=
  let x := slabOf s c i
  let launch := (x.owner.map (·.1.launch)).getD 0
  let idx := (x.owner.map (·.2)).getD 0
  let n : NodeRef := { kind := .slab, home := c, idx := i }
  { core := c, die := c / 4, walker := .engine n, who := some n, space := (launchOf s launch).space, fault := nodeFault s c launch idx }

/-- A dense row's group, with the block scale of an HXF4 operand. -/
def readDense (s : State) (a : Accessor) (f : Fmt) (base : W64) (stride : W32) (scales : W64) (i g gs : Nat) :
    Except EngineStop (State × List W32 × Byte) := do
  let n := groupBytes f gs
  let (s, bs) ← accessRead s a (rowAddr base stride i + BitVec.ofNat 64 (g * n)) n
  if f = .hxf4 then
    let (s, sc) ← accessRead s a (rowAddr scales (quarter stride) i + BitVec.ofNat 64 g) 1
    .ok (s, denseElems f bs, sc.headD 0)
  else .ok (s, denseElems f bs, 0)

/-- A group of a bitmap row of A (R298). -/
def readBitmap (s : State) (a : Accessor) (t : TileCmd) (d m g : Nat) : Except EngineStop (State × ARow) := do
  let es := Fmt.bytes t.afmt
  let n := 8 + d * es
  let (s, bs) ← accessRead s a (rowAddr (daddr t.lanes 3) (dlane t.lanes 5) m + BitVec.ofNat 64 (g * n)) n
  let map := le64 (bs.take 8)
  let ks := (List.range 64).filter fun k => bit map k
  if ks.length ≤ d then .ok (s, { elems := ks.zip (denseElems t.afmt (bs.drop 8)), scale := 0, bad := false, cost := 32 })
  else
    let j := leNat ((bs.drop 8).take 4)
    let (s, vs) ← accessRead s a (daddr t.lanes 9 + BitVec.ofNat 64 (j * 64 * es)) (64 * es)
    .ok (s, { elems := ((List.range 64).zip (denseElems t.afmt vs)).filter fun (k, _) => bit map k, scale := 0, bad := false, cost := 128 })

/-- The budget of a row code; codes 6 to 255 have none (R300). -/
def rowBudget : Nat → Option Nat
  | 0 => some 0 | 1 => some 2 | 2 => some 4 | 3 => some 8 | 4 => some 16 | 5 => some 32 | _ => none

/-- Whether indices are strictly increasing and at most 63 (R300). -/
def strictlyRising : List Nat → Bool
  | [] => true
  | [x] => decide (x ≤ 63)
  | x :: y :: r => decide (x < y) && strictlyRising (y :: r)

/-- A group of a row-budget row of A (R300). -/
def readBudget (s : State) (a : Accessor) (t : TileCmd) (m g : Nat) : Except EngineStop (State × ARow) := do
  let (s, code) ← accessRead s a (daddr t.lanes 9 + BitVec.ofNat 64 m) 1
  match rowBudget (code.headD 0).toNat with
  | none => .ok (s, { elems := [], scale := 0, bad := true, cost := 0 })
  | some 0 => .ok (s, { elems := [], scale := 0, bad := false, cost := 0 })
  | some b =>
    let es := Fmt.bytes t.afmt
    let n := b * (es + 1)
    let (s, bs) ← accessRead s a (rowAddr (daddr t.lanes 3) (dlane t.lanes 5) m + BitVec.ofNat 64 (g * n)) n
    let ks := (bs.drop (b * es)).map (·.toNat)
    .ok (s, { elems := ks.zip (denseElems t.afmt (bs.take (b * es))), scale := 0, bad := !strictlyRising ks, cost := b })

/-- A group of a row of A: position `g` of the command, group `ga` of A's natural order (R302). -/
def readA (s : State) (a : Accessor) (t : TileCmd) (d m g ga : Nat) : Except EngineStop (State × ARow) :=
  match t.form with
  | .mmas => readBitmap s a t d m g
  | .mman => readBudget s a t m g
  | _ => do
    let (s, es, sc) ← readDense s a t.afmt (daddr t.lanes 3) (dlane t.lanes 5) (daddr t.lanes 9) m ga t.group
    .ok (s, { elems := (List.range es.length).zip es, scale := sc, bad := false, cost := 32 })

/-- A group of a row of the stored B. -/
def readB (s : State) (a : Accessor) (t : TileCmd) (n g : Nat) : Except EngineStop (State × BRow) := do
  let (s, es, sc) ← readDense s a t.bfmt (daddr t.lanes 6) (dlane t.lanes 8) (daddr t.lanes 11) n g t.group
  .ok (s, { elems := es, scale := sc })

/-- A list of rows read in order. -/
def readRows {α : Type} (read : State → Nat → Except EngineStop (State × α)) : State → List Nat → Except EngineStop (State × List (Nat × α))
  | s, [] => .ok (s, [])
  | s, i :: r => do
    let (s, x) ← read s i
    let (s, xs) ← readRows read s r
    .ok (s, (i, x) :: xs)

/-! ### The bound monitor (R302 to R305) -/

/-- RU (R69). -/
def ru (v : Val) : W32 := roundF32 .rup v
/-- RD (R69). -/
def rd (v : Val) : W32 := roundF32 .rdn v

/-- w of the monitor: RU(Rem + RU(Gr × 2^−22 × RU(|P| + Rem))) (R303, R331). -/
def boundWidth (p rem : W32) (gr : Nat) : W32 :=
  let inner := f32Val (ru (Val.add .rup (Val.abs (f32Val p)) (f32Val rem)))
  let slack := ru (Val.mul (.fin false gr (-22)) inner)
  ru (Val.add .rup (f32Val rem) (f32Val slack))

/-- Rem of the monitor (R303). -/
def boundRem (amax tail : BitVec 16) (last : Bool) : W32 := if last then 0 else ru (Val.mul (bf16Val amax) (bf16Val tail))

/-- The decision of one element at a group boundary, if there is one (R303). -/
def decideElem (pred : Verdict) (theta p rem : W32) (gr : Nat) : Option Bool :=
  let w := f32Val (boundWidth p rem gr)
  let hi := f32Val (ru (Val.add .rup (f32Val p) w))
  let lo := f32Val (rd (Val.add .rdn (f32Val p) (Val.neg w)))
  let zero : Val := .fin false 0 0
  match pred with
  | .sign => if Val.holds .gt lo zero then some true else if Val.holds .lt hi zero then some false else none
  | .ge => if Val.holds .gt lo (f32Val theta) then some true else if Val.holds .lt hi (f32Val theta) then some false else none
  | .topk => if Val.holds .lt hi (f32Val theta) then some false else none

/-- The code of a predicate (R305, R325). -/
def Verdict.code : Verdict → Nat
  | .sign => 0 | .ge => 1 | .topk => 2

/-- The abandoned pattern (R305). -/
def abandonedPattern (pred : Verdict) (d : Decision) : W32 :=
  BitVec.ofNat 32 (0x7FD * 2 ^ 20 + (if d.verdict then 2 ^ 19 else 0) + Verdict.code pred * 2 ^ 16 +
    (roundBF16 .rne (f32Val d.partialSum)).toNat)

/-! ### Steps of a slab (R286, R291, R295, R304, R315, R321) -/

/-- The bound nodes of a command, with the tile rows that each holds. -/
def boundNodes (s : State) (t : TileCmd) : List (NodeRef × Nat) :=
  (t.accIds.zipIdx.filterMap fun (id, i) => (nodeAt s t.issuer id).map fun n => (n, i))

/-- An element's update at the node that holds its row. -/
def addAt (nodes : List (NodeRef × Nat)) (s : State) (m n : Nat) (f : W32 → W32 × Status) : State :=
  match nodes.find? fun (_, i) => i = m / 64 with
  | some (r, _) => setAcc s r.home r.idx (Acc.add (accOf s r.home r.idx) m n f)
  | none => s

/-- The sum and status of an element at the node that holds its row. -/
def sumAt (nodes : List (NodeRef × Nat)) (s : State) (m n : Nat) : W32 × Status :=
  match nodes.find? fun (_, i) => i = m / 64 with
  | some (r, _) => (Tab.get 0 (accOf s r.home r.idx).sums (elemKey m n), Tab.get Status.none (accOf s r.home r.idx).status (elemKey m n))
  | none => (0, .none)

/-- The status word (R322). -/
def SlabExec.status (e : SlabExec) : W64 :=
  BitVec.ofNat 64 ((if e.wasHeld then 2 ^ 48 else 0) + e.skipped.length % 2 ^ 16 * 2 ^ 32 + e.gdone % 2 ^ 32)

/-- ROWPROG of the executing command (R295). -/
def SlabExec.rowProg (e : SlabExec) : W32 := BitVec.ofNat 32 (e.next * 256 + 16 * e.band)

/-- The issuing task's ROWPROG takes a command's row progress (R324). -/
def tellRowProg (s : State) (e : SlabExec) : State :=
  if e.cmd.follow then s
  else
    match placeOf s e.cmd.issuer with
    | some k => setTask s k { taskOf s k with thread := { (taskOf s k).thread with rowProg := SlabExec.rowProg e } }
    | none => s

/-- An END token counted by an accumulator node (R291); one that comes when the count is reached counts towards the next release. -/
def Acc.countEnd (x : Acc) (count : W32) (seq : Option (BitVec 12)) : Acc :=
  { x with endCount := x.endCount + 1, items := x.items + count, endSeq := seq }

/-- The END that a command with FIN sends to a node that it binds (R291). -/
def sendEnd (s : State) (r : NodeRef) (g : Nat) : State :=
  let x := accOf s r.home r.idx
  if x.endCount ≥ x.ends then
    push s (.endToken r.home r.idx { route := 0, seq := 0, fmt := .int32, pay := .control .endc (BitVec.ofNat 32 g) })
  else setAcc s r.home r.idx { Acc.countEnd x (BitVec.ofNat 32 g) none with lastInput := 0, lastArrive := s.time }

/-- A command completes: its END tokens, its nodes unbound, its card done and its status given (R321, R322). -/
def finishCommand (s : State) (c i : Nat) (e : SlabExec) : State :=
  let nodes := boundNodes s e.cmd
  let s := if e.cmd.fin then nodes.foldl (fun s (r, _) => sendEnd s r e.groups) s else s
  let s := nodes.foldl (fun s (r, _) => setAcc s r.home r.idx { accOf s r.home r.idx with bound := none }) s
  let s := leaveCard s c e.cmd.card
  let s := giveScalar s e.cmd.issuer e.cmd.producer (.data (SlabExec.status e))
  setSlab s c i { slabOf s c i with exec := none, rowProg := SlabExec.rowProg e, lastFire := if e.cmd.fin then s.time else (slabOf s c i).lastFire }

/-- What a command that is given up tells: its card leaves, and its destination receives a free value (log 25). -/
def giveUp (s : State) (c : Nat) (t : TileCmd) : State :=
  giveScalar (leaveCard s c t.card) t.issuer t.producer (.data (Config.freeWord s.clock 4))

/-- A slab stops because memory cannot be reached or its space is gone (R271, R420): the executing command is given up without an END, and the slab
runs none after it (log 25). -/
def stopSlab (s : State) (c i : Nat) (e : SlabExec) : State :=
  let nodes := boundNodes s e.cmd
  let s := nodes.foldl (fun s (r, _) => setAcc s r.home r.idx { accOf s r.home r.idx with bound := none }) s
  let s := giveUp s c e.cmd
  setSlab s c i { slabOf s c i with exec := none, rowProg := SlabExec.rowProg e, stopped := true }

/-- The tables that a group needs beside its rows: the A group of position g, and for the monitor amax and the next tail row (R302,
R319); for an MMAB its band scales (R323). -/
structure GroupAux where
  ga : Nat
  amax : List (BitVec 16)
  tail : List (BitVec 16)
  bandA : List (BitVec 16)
  bandB : List (BitVec 16)

/-- 16-bit values of a list of bytes. -/
def halves (bs : List Byte) : List (BitVec 16) := (denseElems .bf16 bs).map fun w => bits w 0 16

/-- The band scales of an operand: of each 64 of its rows, from the elements of every group (R454). -/
def quantBands (f : Fmt) (rows : Nat) (groups : Nat) (read : State → Nat → Nat → Except EngineStop (State × List W32)) (s : State) :
    Except EngineStop (State × List (BitVec 16)) := do
  let (s, xs) ← readRows (fun s i => do
    let (s, es) ← readRows (fun s g => read s i g) s (List.range groups)
    .ok (s, (es.flatMap (·.2)).foldl (fun m x => max m (fp8Mag f x)) 0)) s (List.range rows)
  .ok (s, (List.range ((rows + 63) / 64)).map fun b => bandPattern (bandExp ((xs.map fun (i, m) => if i / 64 = b then m else 0).foldl max 0)))

/-- The band scales of both operands of a degraded command (R454). -/
def degradedAux (s : State) (a : Accessor) (t : TileCmd) (d : Nat) (x : GroupAux) : Except EngineStop (State × GroupAux) := do
  let (s, ba) ← quantBands t.afmt t.m t.groups (fun s m g => (readA s a t d m g g).map fun (s, r) => (s, r.elems.map (·.2))) s
  let (s, bb) ← quantBands t.bfmt t.n t.groups (fun s n g => (readB s a t n g).map fun (s, r) => (s, r.elems)) s
  .ok (s, { x with bandA := ba, bandB := bb })

/-- The tables of a group read. -/
def readAux (s : State) (a : Accessor) (t : TileCmd) (g : Nat) : Except EngineStop (State × GroupAux) := do
  let none' : GroupAux := { ga := g, amax := [], tail := [], bandA := [], bandB := [] }
  if t.vd then
    let (s, o) ← accessRead s a (daddr t.lanes 9 + BitVec.ofNat 64 (2 * g)) 2
    let (s, am) ← accessRead s a (daddr t.lanes 14) (2 * t.m)
    if g + 1 < t.groups then
      let (s, tl) ← accessRead s a (rowAddr (daddr t.lanes 11) (dlane t.lanes 13) (g + 1)) (2 * t.n)
      .ok (s, { none' with ga := leNat o, amax := halves am, tail := halves tl })
    else .ok (s, { none' with ga := leNat o, amax := halves am })
  else if t.form = .mmab then
    let (s, ba) ← accessRead s a (daddr t.lanes 9 + signed32 (dlane t.lanes 13)) (2 * ((t.m - 1) / 64 + 1))
    let (s, bb) ← accessRead s a (daddr t.lanes 11 + signed32 (dlane t.lanes 14)) (2 * ((t.n - 1) / 64 + 1))
    .ok (s, { none' with bandA := halves ba, bandB := halves bb })
  else .ok (s, none')

/-- One band of 16 rows of a group added to the live sub-tiles (R295, R296, R304). -/
def addBand (s : State) (a : Accessor) (e : SlabExec) (d : Nat) (quant : Bool) (aux : GroupAux) (r : Nat) :
    Except EngineStop (State × List Nat) := do
  let t := e.cmd
  let rows := ((List.range 16).map (16 * r + ·)).filter (· < t.m)
  let cols := t.stripes.flatMap fun c => ((List.range 32).map (32 * c + ·)).filter (· < t.n)
  let (s, as) ← readRows (fun s m => readA s a t d m e.next aux.ga) s rows
  let (s, bs) ← readRows (fun s n => readB s a t n e.next) s cols
  let nodes := boundNodes s t
  .ok (as.foldl (fun s (m, x) =>
    bs.foldl (fun s (n, y) =>
      let bands := if quant then some (bandOf (aux.bandA[m / 64]?.getD 0), bandOf (aux.bandB[n / 64]?.getD 0)) else none
      if t.live r (n / 32) && !e.dead.contains (n / 16) then addAt nodes s m n fun c => addGroup t bands c x y else s) s) s,
    as.map (·.2.cost))

/-- The bands that are left of a group, in order, up to one that holds: the command with the costs of the rows added, and the band at which it
stops, and why. -/
def addBands (s : State) (a : Accessor) (e : SlabExec) (d : Nat) (quant : Bool) (aux : GroupAux) :
    List Nat → State × SlabExec × Option (Nat × EngineStop)
  | [] => (s, e, none)
  | r :: rs =>
    match addBand s a e d quant aux r with
    | .ok (s, cs) => addBands s a { e with costs := (e.costs ++ cs).eraseDups } d quant aux rs
    | .error x => (s, e, some (r, x))

/-- The decisions of the monitor after a group (R303), for the elements not decided and without status. -/
def decideGroup (s : State) (e : SlabExec) (pred : Verdict) (aux : GroupAux) : Table Decision :=
  let nodes := boundNodes s e.cmd
  let last := e.next + 1 = e.groups
  ((List.range 16).filter fun b => !e.dead.contains b).foldl (fun t b =>
    (e.cmd.blockElems b).foldl (fun t (m, n) =>
      let (p, st) := sumAt nodes s m n
      if (Tab.find? t (256 * m + n)).isSome || st ≠ .none then t
      else
        match decideElem pred e.theta p (boundRem (aux.amax[m]?.getD 0) (aux.tail[n]?.getD 0) last) (e.groups - e.next) with
        | some v => Tab.put t (256 * m + n) { verdict := v, partialSum := p }
        | none => t) t) e.decided

/-- The sub-blocks whose elements are all decided, or have a status (R304). -/
def deadBlocks (s : State) (e : SlabExec) (decided : Table Decision) : List Nat :=
  let nodes := boundNodes s e.cmd
  (List.range 16).filter fun b =>
    e.dead.contains b ||
      (e.cmd.blockElems b).all fun (m, n) => (Tab.find? decided (256 * m + n)).isSome || (sumAt nodes s m n).2 != .none

/-- The elements of a sub-block that skips a group are abandoned (R305). -/
def abandonBlock (s : State) (e : SlabExec) (pred : Verdict) (decided : Table Decision) (b : Nat) : State :=
  let nodes := boundNodes s e.cmd
  (e.cmd.blockElems b).foldl (fun s (m, n) =>
    match nodes.find? fun (_, i) => i = m / 64, Tab.find? decided (256 * m + n) with
    | some (r, _), some d =>
      let x := accOf s r.home r.idx
      if Tab.get Status.none x.status (elemKey m n) = .none then
        setAcc s r.home r.idx { x with abandoned := Tab.put x.abandoned (elemKey m n) (abandonedPattern pred d) }
      else s
    | _, _ => s) s

/-- The cycles of a group on a full tile: by its format (R285), by whether a bitmap row is over its bound (R299), or by the budget classes that it
has (R300). -/
def groupCycles (t : TileCmd) (costs : List Nat) : Nat :=
  let twice := if t.afmt = .bf16 then 2 else 1
  match t.form with
  | .mmab => 4
  | .mma => 32
  | .mmas => twice * costs.foldl max 0
  | .mman => twice * costs.foldl (· + ·) 0

/-- The 16-column sub-blocks of a rectangle that are live (R304, R321). -/
def liveBlocks (e : SlabExec) : List Nat :=
  (e.cmd.stripes.flatMap fun c => [2 * c, 2 * c + 1]).filter fun b => !e.dead.contains b

/-- The band scales of an MMAB, or of a degraded command, recorded at its nodes for their release (R289, R323, R454). -/
def recordBands (s : State) (t : TileCmd) (quant : Bool) (aux : GroupAux) : State :=
  if t.form = .mmab || quant then
    (boundNodes s t).foldl (fun s (r, i) =>
      setAcc s r.home r.idx { accOf s r.home r.idx with bands := some { a := aux.bandA[i]?.getD 0, b := aux.bandB } }) s
  else s

/-- A group boundary reached: the monitor's decisions, the sub-blocks that are out from the next group on, and the count of groups
(R303, R304, R321, R322). -/
def groupDone (s : State) (c i : Nat) (e : SlabExec) (added : Bool) (aux : GroupAux) : State :=
  let pred := (slabOf s c i).cfg.pred.getD .sign
  let decided := if e.cmd.vd then decideGroup s e pred aux else e.decided
  let dead := if e.cmd.vd then deadBlocks s e decided else e.dead
  let skips := if e.cmd.vd && decide (e.next + 1 < e.groups) then dead.filter fun b => !e.cmd.emptyBlocks.contains b else []
  let s := (skips.filter fun b => !e.skipped.contains b).foldl (fun s b => abandonBlock s e pred decided b) s
  let x := coreOf s c
  let s := if added then
      setCore s c { x with rampCount := x.rampCount + (groupCycles e.cmd e.costs * (liveBlocks e).length + 15) / 16 } else s
  let e := { e with next := e.next + 1, band := 0, costs := [], decided := decided, dead := dead, skipped := (e.skipped ++ skips).eraseDups,
                    gdone := if added then e.gdone + 1 else e.gdone, held := false }
  let s := if added then setSlab s c i { slabOf s c i with lastInput := 1, lastArrive := s.time } else s
  let cnode := ownerCnode s (slabOf s c i).owner
  let s := breakpoint s 1 cnode c e.cmd.issuer.launch (some (e.next - 1))
  if e.next ≥ e.groups then finishCommand s c i e else setSlab s c i { slabOf s c i with exec := some e, rowProg := SlabExec.rowProg e }

/-- A slab that holds: on a fault it keeps the bands added, and its task's ROWPROG takes the progress (R295, R324). -/
def holdSlab (s : State) (c i : Nat) (e : SlabExec) (band : Nat) (x : EngineStop) : State :=
  match x with
  | .unreachable => stopSlab (engineUnreachable s e.cmd.issuer.launch) c i { e with band := band }
  | .gone t => stopSlab t c i { e with band := band }
  | .hold t =>
    let e := { e with band := band, held := false }
    setSlab t c i { slabOf t c i with exec := some e, rowProg := SlabExec.rowProg e }
  | .fault t _ =>
    let e := { e with band := band, held := true, wasHeld := true }
    tellRowProg (setSlab t c i { slabOf t c i with exec := some e, rowProg := SlabExec.rowProg e }) e

/-- SLAB_GROUP (R286, R295, R304, R321): the next group is added to the live sub-tiles, band by band, in row order; a group without a
live sub-block, or of masked blocks, adds nothing. -/
def execSlabGroup (core slab : Nat) (s : State) : Host.Outcome State Fault Refusal :=
  let x := slabOf s core slab
  .next (match x.exec with
    | none => s
    | some e =>
      let a := slabAccessor s core slab
      if (liveBlocks e).isEmpty then groupDone s core slab e false { ga := 0, amax := [], tail := [], bandA := [], bandB := [] }
      else
        match readAux s a e.cmd e.next with
        | .error q => holdSlab s core slab e e.band q
        | .ok (s, aux) =>
          let d := 8 * (x.cfg.dcode + 1)
          let quant := e.cmd.degraded core slab
          match (if quant then degradedAux s a e.cmd d aux else .ok (s, aux)) with
          | .error q => holdSlab s core slab e e.band q
          | .ok (s, aux) =>
            let s := recordBands s e.cmd quant aux
            if e.cmd.masked e.next then groupDone s core slab e false aux
            else
              match addBands s a e d quant aux (e.cmd.bands.filter (e.band ≤ ·)) with
              | (s, e, some (r, q)) => holdSlab s core slab e r q
              | (s, e, none) => groupDone s core slab e true aux)

/-- Whether the accumulator nodes of a command can be bound: not bound, not releasing, and no release of an earlier round is due (R290,
R291, R293). -/
def canBind (s : State) (t : TileCmd) : Bool :=
  (boundNodes s t).all fun (r, _) =>
    let x := accOf s r.home r.idx
    x.bound.isNone && !x.releasing && x.endCount < x.ends && x.forced.all (t.order < ·)

/-- A node bound to a command: its rows, chunks and written bits (R290, R292, R296). -/
def Acc.bind (x : Acc) (c i : Nat) (t : TileCmd) (k : Nat) : Acc :=
  let rows := if k = 0 then min t.m 64 else t.m - 64
  let written := (List.range 4).foldl (fun (w : W32) r =>
    if 16 * r < rows then w ||| ((bits t.mask (8 * (4 * k + r)) 8).setWidth 32 <<< (8 * r)) else w) x.written
  { x with bound := some (c, i), rowBase := 64 * k, rows := max x.rows rows, chunks := max x.chunks ((t.n + 63) / 64),
           cols := max x.cols t.n, written := written }

/-- A configuration applied (R325). -/
def SlabCfg.apply (c : SlabCfg) : SlabCmd → SlabCfg
  | .mcfg m d => { c with mode := m, dcode := d }
  | .mvcfg v t => { c with pred := some v, theta := t }
  | .mtkcfg n => { c with topk := some n }
  | .tile _ => c

/-- SLAB_COMMAND_START (R321, R337): the command at the head binds its nodes and begins. A verdict command of a slab with a top-k binding sends it
a start request, and decides nothing before the answer. A slab that has stopped gives the command up (R420). -/
def execSlabCommandStart (core slab : Nat) (s : State) : Host.Outcome State Fault Refusal :=
  let x := slabOf s core slab
  .next (match x.exec, x.queue with
    | none, .tile t :: q =>
      if x.stopped then giveUp (setSlab s core slab { x with queue := q }) core t
      else if canBind s t && cardBegun s core t.card then
        let s := (boundNodes s t).foldl (fun s (r, k) => setAcc s r.home r.idx (Acc.bind (accOf s r.home r.idx) core slab t k)) s
        let asks := t.vd && x.cfg.topk.isSome
        let e : SlabExec := { cmd := t, groups := t.groups, next := 0, band := 0,
                              theta := if x.cfg.pred = some .ge then x.cfg.theta else negInf, thetaKnown := !asks, decided := [],
                              dead := if t.vd then t.emptyBlocks else [], skipped := [], costs := [], gdone := 0, held := false, wasHeld := false }
        let s := setSlab s core slab { x with exec := some e, queue := q, rowProg := 0, lastInput := 0, lastArrive := s.time }
        match asks, x.cfg.topk with
        | true, some n => push s (.startRequest n.home n.idx core slab)
        | _, _ => s
      else s
    | _, _ => s)

/-- CONFIG_AT_HEAD (R315, R325): a configuration takes effect; a top-k binding replaces the earlier one. -/
def execConfigAtHead (core slab : Nat) (s : State) : Host.Outcome State Fault Refusal :=
  let x := slabOf s core slab
  .next (match x.exec, x.queue with
    | none, .tile _ :: _ => s
    | none, c :: q =>
      let s1 := setSlab s core slab { x with cfg := SlabCfg.apply x.cfg c, queue := q }
      match c with
      | .mtkcfg n =>
        let s1 := match x.cfg.topk with
          | some o => setTopk s1 o.home o.idx { topkOf s1 o.home o.idx with slabs := (topkOf s1 o.home o.idx).slabs.filter (· != (core, slab)) }
          | none => s1
        setTopk s1 n.home n.idx { topkOf s1 n.home n.idx with slabs := (topkOf s1 n.home n.idx).slabs ++ [(core, slab)] }
      | _ => s1
    | _, _ => s)

/-! ### Accumulator nodes (R291, R292) -/

/-- END_TOKEN (R291): an END is counted; any other token is discarded and recorded, and the launch has error STRAY_TOKENS. An END that
meets a release counts towards the next one (R293). -/
def execEndToken (core acc : Nat) (token : Token) (s : State) : Host.Outcome State Fault Refusal :=
  let x := accOf s core acc
  .next (match token.pay with
    | .control .endc w =>
      if x.endCount ≥ x.ends || x.releasing then defer s (.endToken core acc token) else setAcc s core acc (Acc.countEnd x w (some token.seq))
    | _ =>
      match x.owner with
      | some (o, _) => launchError s o.launch 2
      | none => s)

/-- A released lane (R77, R292, R323, R336). A NaN that the product of the band scales makes, though neither is NaN or infinite, is a sum like any
other, and is released as data (DESIGN CHOICE, log 125). -/
def Acc.lane (x : Acc) (r n : Nat) : Lane :=
  let key := 256 * r + n
  if !bit x.written (8 * (r / 16) + n / 32) then .null
  else if x.cols ≤ n then .data 0
  else
    match Tab.get Status.none x.status key with
    | .invalid => .err 0
    | .nanin => .err 1
    | .scale => .err 3
    | .rowBad => .err 6
    | .none =>
      match Tab.find? x.abandoned key, x.bands with
      | some p, _ => .data p
      | none, none => .data (Tab.get 0 x.sums key)
      | none, some b =>
        let va := bf16Val b.a
        let vb := bf16Val (b.b[n / 64]?.getD 0)
        let bad : Val → Bool := fun v => match v with | .fin _ _ _ => false | _ => true
        if bad va || bad vb then .err 3
        else .data (roundF32 .rne (Val.mul (f32Val (roundF32 .rne (Val.mul va vb))) (f32Val (Tab.get 0 x.sums key))))

/-- A sequence tag that the manual does not state (log 26). -/
def freeSeq (s : State) (n : Nat) : BitVec 12 := bits (Config.freeWord s.clock n) 0 12

/-- The tokens of a release: each row's chunks in order, and an END with ITEMS, whose tag is given (R292). -/
def Acc.tokens (x : Acc) (endSeq : BitVec 12) : List Token :=
  let fmt : Fmt := if x.int then .int32 else .fp32
  ((List.range x.rows).flatMap fun r => (List.range x.chunks).map fun j =>
    ({ route := bits x.route 0 10, seq := BitVec.ofNat 12 (4 * (x.rowBase + r) + j), fmt := fmt,
       pay := .vector (Vector.ofFn fun i => Acc.lane x r (64 * j + i.val)) } : Token)) ++
  [{ route := bits x.route 0 10, seq := endSeq, fmt := .int32, pay := .control .endc x.items }]

/-- Whether a release is due: the END count is reached, or an MREL's turn has come, and no command is bound; commands accepted before an
MREL come first (R291, R293). -/
def releaseDue (s : State) (core acc : Nat) : Bool :=
  let x := accOf s core acc
  let me : NodeRef := { kind := .acc, home := core, idx := acc }
  let queued (order : Nat) : Bool := s.cores.any fun (_, y) => y.slabs.toList.any fun z => z.queue.any fun q =>
    match q with
    | .tile t => t.order < order && (boundNodes s t).any (·.1 == me)
    | _ => false
  x.bound.isNone && !x.releasing && (x.endCount ≥ x.ends || (match x.forced.head? with | some f => !queued f | none => false))

/-- A release over: the counts are cleared (R293, R327). -/
def Acc.released (x : Acc) : Acc := { x with releasing := false, endCount := 0, items := 0, endSeq := none }

/-- ACCUMULATOR_RELEASE (R292): the tokens are formed, and the sums clear; the tokens leave one by one (R19), and the counts clear with
the last (R293, R327 RELEASING). Tokens of a release that a pre-emption ended go before them (R293). -/
def execAccumulatorRelease (core acc : Nat) (s : State) : Host.Outcome State Fault Refusal :=
  .next (
    if releaseDue s core acc then
      let x := accOf s core acc
      let n : NodeRef := { kind := .acc, home := core, idx := acc }
      let byCount := decide (x.endCount ≥ x.ends)
      let launch := (x.owner.map (·.1.launch)).getD 0
      let y := { x with sums := [], status := [], abandoned := [], written := 0, bands := none, rows := 0, chunks := 0, cols := 0,
                        forced := if byCount then x.forced else x.forced.drop 1,
                        rowBase := 0, releasing := true, out := x.out ++ Acc.tokens x (x.endSeq.getD (freeSeq s 5)), lastFire := s.time }
      let s := breakpoint s 2 (ownerCnode s x.owner) core launch none
      push (setAcc s core acc y) (.tokenArrival (.node n) false)
    else s)

/-! ### Top-k nodes (R306 to R308, R326, R337) -/

/-- θ of a node: the k-th candidate once k are held, and at least what MTHR set (R306, R326). -/
def TopK.theta (x : TopK) : W32 :=
  match x.held[x.k - 1]? with
  | some c => if Val.holds .ge (f32Val x.floor) (f32Val c.value) then x.floor else c.value
  | none => x.floor

/-- Whether one candidate ranks above another (R306). -/
def Candidate.above (a b : Candidate) : Bool :=
  Val.holds .gt (f32Val a.value) (f32Val b.value) || (Val.holds .eq (f32Val a.value) (f32Val b.value) && a.column.ult b.column)

/-- A candidate in its rank; the k best are held (R306). -/
def insertRanked (c : Candidate) : List Candidate → List Candidate
  | [] => [c]
  | d :: r => if Candidate.above c d then c :: d :: r else d :: insertRanked c r

/-- A lane offered to a node (R306): null, error, NaN and abandoned lanes are not offered. -/
def TopK.offer (x : TopK) (l : Lane) (column : W32) : TopK :=
  match l with
  | .data w => if (f32Val w).isNan then x else { x with held := (insertRanked { value := w, column := column } x.held).take x.k }
  | _ => x

/-- THRESH to every slab bound to a node (R307). -/
def sendThresh (s : State) (x : TopK) : State := pushAll s (x.slabs.map fun (c, i) => .thresh c i x.theta)

/-- The lanes of a token offered in order, with THRESH after each that raises θ (R337). -/
def offerLanes (s : State) (core topk : Nat) : List (Lane × W32) → State
  | [] => s
  | (l, col) :: r =>
    let x := topkOf s core topk
    let y := TopK.offer x l col
    let s := setTopk s core topk y
    let s := if Val.holds .gt (f32Val y.theta) (f32Val x.theta) then
        breakpoint (sendThresh s y) 3 (ownerCnode s x.owner) core ((x.owner.map (·.1.launch)).getD 0) none else s
    offerLanes s core topk r

/-- The data lanes of a token offered on an input (R306): lane `i` has column 64 × (SEQ mod 4) + i plus the input's offset. -/
def offerToken (s : State) (core topk input : Nat) (token : Token) : State :=
  let base (i : Nat) : W32 := BitVec.ofNat 32 (64 * (token.seq.toNat % 4) + i) + ((topkOf s core topk).offsets[input]?.getD 0)
  match token.pay with
  | .control _ _ => s
  | .scalar l => offerLanes s core topk [(l, base 0)]
  | .vector ls => offerLanes s core topk (ls.toList.zipIdx.map fun (l, i) => (l, base i))

/-- The conversion node of a region that takes tokens of one format to another: the first in order of y, then x (R83). -/
def converterFor (s : State) (g : Region) (fs fd : Fmt) : Option SiteKey :=
  ((Region.places g).map fun (x, y) => siteAt g x y).find? fun k =>
    match (siteOf s k).node with
    | some (.conv a b _ _ _) => a == fs && b == fd
    | _ => false

/-- A token of a format that a top-k node does not take: sent to input c0 of the node that converts it, where it waits for a free slot; with no
node that converts it, it is an error token, which offers nothing (R83, R124, R137, R306). -/
def divert (s : State) (core topk input : Nat) (token : Token) : State :=
  let x := topkOf s core topk
  match x.owner.bind fun (o, _) => (regionOf s o.launch o.region).bind fun g => converterFor s g token.fmt .fp32 with
  | some k =>
    let y := siteOf s k
    let c := (y.chans.toList)[0]?.getD InChan.empty
    if c.slots.length ≥ 4 then defer s (.topkCandidate core topk input token)
    else
      let s := setTopk s core topk { x with away := x.away ++ [input] }
      setSite s k { y with chans := y.chans.setIfInBounds 0 { slots := c.slots ++ [(token, s.time)] },
                           diversions := y.diversions ++ [some { core := core, topk := topk, input := input }] }
  | none => s

/-- TOPK_CANDIDATE (R83, R306, R308, R337): the data lanes of an FP32 token are offered; an END is counted. Tokens that come once the count
is reached wait for the release, and tokens behind one that is being converted wait for it. -/
def execTopkCandidate (core topk input : Nat) (token : Token) (s : State) : Host.Outcome State Fault Refusal :=
  let x := topkOf s core topk
  .next (
    if x.endCount ≥ x.ends || x.away.contains input then defer s (.topkCandidate core topk input token)
    else
      match token.pay with
      | .control .endc _ => setTopk s core topk { x with endCount := x.endCount + 1, endSeq := some token.seq }
      | _ => if Token.kind token = 0 ∧ token.fmt ≠ .fp32 then divert s core topk input token else offerToken s core topk input token)

/-- The two tokens of a top-k release (R308), with the tag of the END that fired it (R78). -/
def TopK.tokens (x : TopK) (seq : BitVec 12) : List Token :=
  let lane (f : Candidate → W32) (i : Nat) : Lane := match x.held[i]? with | some c => .data (f c) | none => .null
  [{ route := bits x.route 0 10, seq := seq, fmt := .fp32, pay := .vector (Vector.ofFn fun i => lane (·.value) i.val) },
   { route := bits x.route 0 10, seq := seq, fmt := .idx, pay := .vector (Vector.ofFn fun i => lane (·.column) i.val) }]

/-- TOPK_END (R308): at its END count the node sends its values and their columns, and clears. -/
def execTopkEnd (core topk : Nat) (s : State) : Host.Outcome State Fault Refusal :=
  let x := topkOf s core topk
  .next (
    if x.endCount ≥ x.ends && x.out.isEmpty then
      let n : NodeRef := { kind := .topk, home := core, idx := topk }
      let y := { x with held := [], floor := negInf, endCount := 0, out := TopK.tokens x (x.endSeq.getD (freeSeq s 5)), lastFire := s.time }
      push (setTopk s core topk y) (.tokenArrival (.node n) false)
    else s)

/-- A monitor keeps the greater of its θ and a token's (R337). The θ of a GE accumulation is the one that MVCFG gave, and a SIGN one has none
(R321; DEDUCED, log 126). -/
def SlabExec.take (e : SlabExec) (pred : Option Verdict) (theta : W32) : SlabExec :=
  if pred == some .topk && Val.holds .gt (f32Val theta) (f32Val e.theta) then { e with theta := theta } else e

/-- THRESH (R307, R337): taken by the executing verdict command, and discarded where none executes. -/
def execThresh (core slab : Nat) (theta : W32) (s : State) : Host.Outcome State Fault Refusal :=
  let x := slabOf s core slab
  .next (match x.exec with
    | some e => if e.cmd.vd then setSlab s core slab { x with exec := some (SlabExec.take e x.cfg.pred theta) } else s
    | none => s)

/-- START_REQUEST (R321, R337): the node answers with its θ, and the command's monitor may decide from then on. -/
def execStartRequest (core topk slabCore slab : Nat) (s : State) : Host.Outcome State Fault Refusal :=
  let x := slabOf s slabCore slab
  .next (match x.exec with
    | some e =>
      setSlab s slabCore slab { x with exec := some { SlabExec.take e x.cfg.pred (topkOf s core topk).theta with thetaKnown := true } }
    | none => s)

/-! ### The ramp limiter (R310, R311) -/

/-- RAMP_WINDOW (R310): a window ends. Its count is kept within STEP of the window before: issues above it move into the next window, with
empty slots whose number is timing (log 3), and dummy slots fill a fall. -/
def execRampWindow (core : Nat) (s : State) : Host.Outcome State Fault Refusal :=
  let x := coreOf s core
  let step := field x.rampCfg 0 8 * 14400 / 256
  let last := field x.rampStat 0 14
  let count := max (last - step) (min (last + step) (min 14400 x.rampCount))
  let sat (a : W64) (n : Nat) : W64 := BitVec.ofNat 64 (min (2 ^ 32 - 1) (a.toNat + n))
  .next (setCore s core { x with rampStat := BitVec.ofNat 64 count, rampCount := x.rampCount - count,
                                 rampEmpty := if count < x.rampCount then sat x.rampEmpty (Config.cycles s.clock) else x.rampEmpty,
                                 rampDummy := sat x.rampDummy (count - x.rampCount) })

end Sys2Proof.Machine
end

