-- ==== Sys2Proof/Machine/MatrixInstr.lean ====
section
/-! DEFINITION. Major 0x60: tile commands and their checks, configuration, release and queries (R312 to R327, R255, R344). -/

namespace Sys2Proof.Machine

/-! ### The checks of a tile command (R317 to R320) -/

/-- Whether a format pair stands in a command's row (R317). -/
def pairOk : TileForm → Fmt → Fmt → Bool
  | .mmab, a, b => a == .hxf4 && b == .hxf4
  | _, a, b => ((a == .e4m3 || a == .e5m2) && (b == .e4m3 || b == .e5m2)) || (a == .int8 && b == .int8) || (a == .bf16 && b == .bf16)

/-- The slab mode that a command requires (R317, R325). -/
def TileForm.mode : TileForm → Nat
  | .mmas => 1
  | .mman => 2
  | _ => 0

/-- The first lane above those that a command uses (R319). -/
def usedLanes : TileForm → Bool → Nat
  | .mma, vd => if vd then 16 else 9
  | .mmab, _ => 16
  | _, _ => 11

/-- The lanes that hold bases beside A's and B's (R319). -/
def otherBases : TileForm → Bool → List Nat
  | .mma, vd => if vd then [9, 11, 14] else []
  | .mmab, _ => [9, 11]
  | _, _ => [9]

/-- Reserved bits and unused lanes are zero (R318, R319). -/
def TileCmd.reservedOk (t : TileCmd) : Bool :=
  field (dlane t.lanes 0) 23 9 == 0 && field (dlane t.lanes 1) 14 18 == 0 && (t.lanes.drop (usedLanes t.form t.vd)).all (· == 0) &&
    (t.form != .mmab || field (dlane t.lanes 15) 2 2 == 0)

/-- The ranges of K, G and the K mask (R320). -/
def TileCmd.rangesOk (t : TileCmd) : Bool :=
  decide (1 ≤ t.k ∧ t.k ≤ 2 ^ 22) &&
    (match Fmt.group t.afmt with
     | none => true
     | some _ => t.k % t.group == 0) &&
    (!t.vd || (Fmt.group t.afmt).isNone || decide (t.groups ≤ 65536)) &&
    (t.form != .mmab || decide (field (dlane t.lanes 15) 4 14 + field (dlane t.lanes 15) 18 14 ≤ t.k / 8))

/-- The slab and accumulator ids name nodes of those kinds (R312, R318, R320). -/
def TileCmd.nodesOk (t : TileCmd) (s : State) : Bool :=
  let kind (id : Nat) : Option NodeKind := (nodeAt s t.issuer id).map (·.kind)
  kind t.slabId == some .slab && t.accIds.all (fun id => kind id == some .acc) &&
    (if t.m ≤ 64 then field (dlane t.lanes 0) 8 4 == 0 else field (dlane t.lanes 0) 8 4 != field (dlane t.lanes 0) 4 4)

/-- Alignment of bases and strides (R320). -/
def TileCmd.alignOk (t : TileCmd) : Bool :=
  ([3, 5, 6, 8] ++ otherBases t.form t.vd).all (fun i => (dlane t.lanes i).toNat % 4 == 0) &&
    (t.form != .mmab || ((dlane t.lanes 5).toNat % 16 == 0 && (dlane t.lanes 8).toNat % 16 == 0))

/-- Every base is canonical and outside the local-store window (R320). -/
def TileCmd.basesOk (t : TileCmd) : Bool :=
  ([3, 6] ++ otherBases t.form t.vd).all fun i => canonical (daddr t.lanes i) && !inWindow (daddr t.lanes i)

/-- The format rules that need no state of the slab (R317, R319). -/
def TileCmd.formatsOk (t : TileCmd) : Bool :=
  pairOk t.form t.afmt t.bfmt && (!t.vd || (t.form == .mma && t.afmt != .int8)) &&
    (t.form != .mmab || field (dlane t.lanes 15) 0 2 == 0)

/-- A check that traps a cause. -/
def check (b : Bool) (c : Cause) : Except Stop Unit := if b then .ok () else trapOf c

/-- The checks of R320 in its order, but for those that need the slab's state. -/
def checkTile (s : State) (t : TileCmd) : Except Stop Unit := do
  check (t.reservedOk && t.rangesOk && t.nodesOk s) .illop
  check t.alignOk .align
  check t.basesOk .extent
  check t.formatsOk .fmt

/-- The format rules at acceptance: the mode, the predicate and the accumulators' formats (R315, R317). -/
def acceptOk (s : State) (x : Slab) (t : TileCmd) : Bool :=
  x.accepted.mode == t.form.mode && (!t.vd || x.accepted.pred.isSome) &&
    (boundNodes s t).all fun (r, _) => (accOf s r.home r.idx).int == (t.afmt == .int8)

/-! ### Footprints (R344) -/

/-- The bounding range of `rows` rows of `n` bytes at a signed stride. -/
def rowsRange (space : Nat) (base : W64) (stride : Int) (rows n : Nat) : Nat × Nat :=
  spaceRange space (base.toNat + min 0 (((rows : Int) - 1) * stride)) (stride.natAbs * (rows - 1) + n)

/-- Bytes of a row of A: in the sparse modes the most that a row can hold (R298, R300). -/
def TileCmd.aRow (t : TileCmd) (d : Nat) : Nat :=
  match t.form with
  | .mmas => t.groups * (8 + d * Fmt.bytes t.afmt)
  | .mman => t.groups * 32 * (Fmt.bytes t.afmt + 1)
  | _ => t.groups * groupBytes t.afmt t.group

/-- What a tile command reads: the bounding range of each array that its descriptor names (R344). -/
def TileCmd.footprint (t : TileCmd) (space d : Nat) : List (Nat × Nat) :=
  let str (i : Nat) : Int := (dlane t.lanes i).toInt
  [rowsRange space (daddr t.lanes 3) (str 5) t.m (t.aRow d),
   rowsRange space (daddr t.lanes 6) (str 8) t.n (t.groups * groupBytes t.bfmt t.group)] ++
  (match t.form with
   | .mma =>
     if t.vd then
       [rowsRange space (daddr t.lanes 9) 0 1 (2 * t.groups), rowsRange space (daddr t.lanes 11) (str 13) t.groups (2 * t.n),
        rowsRange space (daddr t.lanes 14) 0 1 (2 * t.m)]
     else []
   | .mmab =>
     [rowsRange space (daddr t.lanes 9) (str 5 / 4) t.m (t.k / 8), rowsRange space (daddr t.lanes 11) (str 8 / 4) t.n (t.k / 8),
      rowsRange space (daddr t.lanes 9 + signed32 (dlane t.lanes 13)) 0 1 (2 * ((t.m - 1) / 64 + 1)),
      rowsRange space (daddr t.lanes 11 + signed32 (dlane t.lanes 14)) 0 1 (2 * ((t.n - 1) / 64 + 1))]
   | .mmas => [rowsRange space (daddr t.lanes 9) 0 1 (t.m * t.groups * 64 * Fmt.bytes t.afmt)]
   | .mman => [rowsRange space (daddr t.lanes 9) 0 1 t.m])

/-! ### Offering a command to a slab (R294, R314, R315) -/

/-- The entries of a slab's queue, the executing command among them (R294, R327). -/
def Slab.entries (x : Slab) : Nat := x.queue.length + (if x.exec.isSome then 1 else 0)

/-- Whether a slab can accept (R294). -/
def slabRoom (s : State) (n : NodeRef) : Bool := decide ((slabOf s n.home n.idx).entries < 4)

/-- A command appended to a slab's queue. -/
def enqueue (s : State) (n : NodeRef) (q : SlabCmd) : State :=
  let x := slabOf s n.home n.idx
  setSlab s n.home n.idx { x with queue := x.queue ++ [q], accepted := SlabCfg.apply x.accepted q }

/-- A tile command offered to its slab: it waits for room in the queue and in the card window, meets the slab's checks, and is accepted
(R314, R315, R345). -/
def offerTile (s : State) (n : NodeRef) (t : TileCmd) : Exec := do
  if slabRoom s n && cardRoom s n.home then .ok () else .error (.stall s)
  check (acceptOk s (slabOf s n.home n.idx) t) .fmt
  let d := 8 * ((slabOf s n.home n.idx).accepted.dcode + 1)
  let (s', card) := enterCard s n.home t.issuer.launch (t.footprint (launchOf s t.issuer.launch).space d) []
  .ok (enqueue s' n (.tile { t with card := card, order := s.clock }))

/-- The predicate of a tile command: a bit of its predicate, or under TQ a bit of a tile predicate (R313, R317). -/
def tilePredicate (s : State) (o : Operands) : Bool :=
  match o.mod, o.a with
  | .eng _ _ true, .src x => (bit (Regs.readQ (thread s).regs x.pi) x.lane.val) != x.pn
  | _, f => predHolds (thread s).regs (Field.pred f)

/-- VD of a command. -/
def Mod.vd : Mod → Bool
  | .eng vd _ _ => vd
  | _ => false

/-- FIN of a tile command. -/
def Mod.fin : Mod → Bool
  | .eng _ f _ => f
  | _ => false

/-- The tile command of a descriptor: its mask is read at issue (R296, R318). -/
def tileOf (form : TileForm) (m : Mod) (lanes : List W32) (mask : Fin 8 → W64) (r : TaskRef) (follow : Bool) : TileCmd :=
  { form := form, fin := Mod.fin m, vd := Mod.vd m, lanes := lanes,
    mask := if bit (dlane lanes 0) 15 then mask (bits (dlane lanes 0) 12 3).toFin else BitVec.allOnes 64,
    issuer := r, follow := follow, producer := none, card := 0, order := 0 }

/-- A tile command (R314, R316, R320): predicate, sources, the site's checks, and the offer; a release at core scope for what it reads
(R255). -/
def tileCommand (form : TileForm) (o : Operands) (s : State) : Host.Outcome State Fault Refusal :=
  issue Places.sites o s (
    if !tilePredicate s o then .ok (retire s)
    else do
      ready s o
      let lanes ← descriptor (vectorOf s o.a)
      match s.cur with
      | .task k =>
        let t := tileOf form o.mod lanes (Regs.readQ (thread s).regs) (refOr s k) false
        checkTile s t
        let n ← nodeOr s t.issuer (BitVec.ofNat 64 t.slabId) [.slab]
        memGate s .rel .core
        let (s', id) := engineProducer s o.dst
        match offerTile s' n { t with producer := id } with
        | .ok s'' => .ok (retire s'')
        | .error (.stall _) => .error (.stall s)
        | .error e => .error e
      | _ => illop)

/-- MMA (R317, R321). -/
def execMma (o : Operands) (s : State) : Host.Outcome State Fault Refusal := tileCommand .mma o s
/-- MMAB (R317, R321, R323). -/
def execMmab (o : Operands) (s : State) : Host.Outcome State Fault Refusal := tileCommand .mmab o s
/-- MMAS (R317, R321). -/
def execMmas (o : Operands) (s : State) : Host.Outcome State Fault Refusal := tileCommand .mmas o s
/-- MMAN (R317, R321). -/
def execMman (o : Operands) (s : State) : Host.Outcome State Fault Refusal := tileCommand .mman o s

/-! ### Configuration, release and queries (R325 to R327) -/

/-- An engine-command instruction of a task, once its predicate holds and its sources and destination are ready (R314, R315). -/
def engineIssue (o : Operands) (s : State) (x : TaskRef → Exec) : Host.Outcome State Fault Refusal :=
  issue Places.sites o s (predicated s (Field.pred o.a) do
    ready s o
    match s.cur with
    | .task k => x (refOr s k)
    | _ => illop)

/-- A configuration offered to a slab. -/
def offerConfig (s : State) (n : NodeRef) (q : SlabCmd) : Exec :=
  if slabRoom s n then .ok (retire (enqueue s n q)) else .error (.stall s)

/-- MCFG (R325). -/
def execMcfg (o : Operands) (s : State) : Host.Outcome State Fault Refusal :=
  engineIssue o s fun r => do
    let n ← nodeOr s r (← dataOf (scalarOf s o.a)) [.slab]
    let w ← dataOf (scalarOf s o.b)
    check (field w 0 2 != 3 && field w 4 60 == 0 && (field w 2 2 == 0 || field w 0 2 == 1)) .illop
    offerConfig s n (.mcfg (field w 0 2) (field w 2 2))

/-- PRED of a verdict word (R325, R329). -/
def verdictOf (w : W64) : Except Stop Verdict :=
  match w.toNat with
  | 0 => .ok .sign
  | 1 => .ok .ge
  | 2 => .ok .topk
  | _ => illop

/-- Whether a field of a word is all zero, as a field that is not read must be (R92). -/
def Field.zero : Field → Bool
  | .unread => true
  | .src x => x == { reg := .s 0 }
  | _ => false

/-- θ of a GE predicate, which only that predicate reads from field C (R325, R329). -/
def thetaOf (s : State) (v : Verdict) (c : Field) : Except Stop W32 :=
  match v with
  | .ge => do
    let w ← dataOf (scalarOf s c)
    if (f32Val (bits w 0 32)).isNan then illop else .ok (bits w 0 32)
  | _ => if Field.zero c then .ok negInf else illop

/-- Field C as a source, where field B is there and names the predicate that reads it (R96, R325, R329). -/
def thetaSource (s : State) (o : Operands) : List (Nat × Field) :=
  match available s [(1, o.b)] with
  | .ok _ => if scalarOf s o.b = .data 1 then [(2, o.c)] else []
  | .error _ => []

/-- MVCFG (R325): field C is read for GE only. -/
def execMvcfg (o : Operands) (s : State) : Host.Outcome State Fault Refusal :=
  issue Places.sites o s (predicated s (Field.pred o.a) do
    available s ([(0, o.a), (1, o.b)] ++ thetaSource s o)
    match s.cur with
    | .task k => do
      let n ← nodeOr s (refOr s k) (← dataOf (scalarOf s o.a)) [.slab]
      let v ← verdictOf (← dataOf (scalarOf s o.b))
      let t ← thetaOf s v o.c
      offerConfig s n (.mvcfg v t)
    | _ => illop)

/-- MTKCFG (R325). -/
def execMtkcfg (o : Operands) (s : State) : Host.Outcome State Fault Refusal :=
  engineIssue o s fun r => do
    let n ← nodeOr s r (← dataOf (scalarOf s o.a)) [.slab]
    let k ← nodeOr s r (← dataOf (scalarOf s o.b)) [.topk]
    offerConfig s n (.mtkcfg k)

/-- MREL (R293, R325): the release follows every command accepted before it. -/
def execMrel (o : Operands) (s : State) : Host.Outcome State Fault Refusal :=
  engineIssue o s fun r => do
    let n ← nodeOr s r (← dataOf (scalarOf s o.a)) [.acc]
    let x := accOf s n.home n.idx
    .ok (retire (setAcc s n.home n.idx { x with forced := x.forced ++ [s.clock] }))

/-- Whether a top-k node still has an event to take that reached it before now (R326, R337). -/
def topkBehind (s : State) (n : NodeRef) : Bool :=
  s.agenda.any fun e =>
    match e with
    | .topkCandidate c k _ _ => c == n.home && k == n.idx
    | .startRequest c k _ _ => c == n.home && k == n.idx
    | _ => false

/-- MTHR (R326): it is an event of its node, which takes those that came before it first (R337). A NaN, or a value below θ, traps; an equal one has no effect; a higher one becomes θ and sends THRESH. -/
def execMthr (o : Operands) (s : State) : Host.Outcome State Fault Refusal :=
  engineIssue o s fun r => do
    let n ← nodeOr s r (← dataOf (scalarOf s o.a)) [.topk]
    let w ← dataOf (scalarOf s o.b)
    let v := bits w 0 32
    if topkBehind s n then .error (.stall s) else .ok ()
    let x := topkOf s n.home n.idx
    if (f32Val v).isNan || Val.holds .lt (f32Val v) (f32Val x.theta) then illop
    else if Val.holds .gt (f32Val v) (f32Val x.theta) then
      let y := { x with floor := v }
      .ok (retire (breakpoint (sendThresh (setTopk s n.home n.idx y) y) 3 (ownerCnode s x.owner) n.home r.launch none))
    else .ok (retire s)

/-- A query's answer, which fills its destination later (R316, R327). -/
def answer (s : State) (o : Operands) (w : W64) : Exec := .ok (retire (produceS s o.dst (.data w)))

/-- The word of MRPR (R327). -/
def Slab.progressWord (x : Slab) : W64 :=
  let h := match x.exec with | some e => e.held | none => false
  BitVec.ofNat 64 ((if h then 2 ^ 33 else 0) + (if x.exec.isSome then 2 ^ 32 else 0) + x.rowProg.toNat)

/-- MRPR (R327). -/
def execMrpr (o : Operands) (s : State) : Host.Outcome State Fault Refusal :=
  engineIssue o s fun r => do
    let n ← nodeOr s r (← dataOf (scalarOf s o.a)) [.slab]
    answer s o (slabOf s n.home n.idx).progressWord

/-- The node id of a node in a task's region. -/
def nodeIdOf (s : State) (r : TaskRef) (n : NodeRef) : Nat :=
  ((regionOf s r.launch r.region).bind fun g => (g.nodes.find? (·.2 == n)).map (·.1)).getD 0

/-- The word of MSTAT for a slab (R327). -/
def slabWord (s : State) (r : TaskRef) (x : Slab) : W64 :=
  BitVec.ofNat 64 (
    (match x.cfg.topk with | some n => nodeIdOf s r n * 2 ^ 12 + 2 ^ 11 | none => 0) +
    (match x.cfg.pred with | some v => Verdict.code v * 2 ^ 8 + 2 ^ 7 | none => 0) + x.cfg.dcode * 2 ^ 5 + x.cfg.mode * 2 ^ 3 + x.entries)

/-- The word of MSTAT for an accumulator node (R327). -/
def Acc.word (x : Acc) : W64 :=
  BitVec.ofNat 64 (x.items.toNat * 2 ^ 32 + (if x.releasing then 2 ^ 18 else 0) + (if x.bound.isSome then 2 ^ 17 else 0) +
    x.endCount % 2 ^ 17)

/-- The word of MSTAT for a top-k node (R327). -/
def TopK.word (x : TopK) : W64 := BitVec.ofNat 64 (x.theta.toNat * 2 ^ 32 + x.held.length)

/-- MSTAT (R327). -/
def execMstat (o : Operands) (s : State) : Host.Outcome State Fault Refusal :=
  engineIssue o s fun r => do
    let n ← nodeOr s r (← dataOf (scalarOf s o.a)) [.slab, .acc, .topk]
    answer s o (match n.kind with
      | .acc => (accOf s n.home n.idx).word
      | .topk => (topkOf s n.home n.idx).word
      | _ => slabWord s r (slabOf s n.home n.idx))

end Sys2Proof.Machine
end

