-- ==== Sys2Proof/Machine/Copy.lean ====
section
/-! DEFINITION. Copy channels and transaction barriers: the steps of a channel, and CPHEAD to XBTEST of major 0x70
(R333 to R353, R359). -/

namespace Sys2Proof.Machine

/-! ### Transaction barriers (R346 to R348) -/

/-- An update of a transaction barrier (R347). -/
inductive BarrierUpdate where
  | init (n : Nat)
  | expect (n : Nat)
  | arrive (k : Nat)
  | sector
  | setFault
  deriving DecidableEq, Repr

/-- A transaction barrier's fields (R346). -/
structure XBar where
  sect : Int
  exp : Nat
  arr : Nat
  ovf : Bool
  fault : Bool
  phase : BitVec 4
  deriving DecidableEq, Repr

/-- The fields of 16 bytes (R346). -/
def XBar.ofWord (w : W128) : XBar :=
  { sect := (bits w 80 48).toInt, exp := field w 48 32, arr := field w 16 32, ovf := bit w 5, fault := bit w 4, phase := bits w 0 4 }

/-- The 16 bytes of the fields; reserved bits are zero (R346). -/
def XBar.word (b : XBar) : W128 :=
  BitVec.ofInt 48 b.sect ++ BitVec.ofNat 32 b.exp ++ BitVec.ofNat 32 b.arr ++ (0 : BitVec 10) ++ BitVec.ofBool b.ovf ++
    BitVec.ofBool b.fault ++ b.phase

/-- SECT kept in its range (R347). -/
def XBar.clamp (b : XBar) : XBar :=
  if b.sect < -2 ^ 47 then { b with sect := -2 ^ 47, ovf := true }
  else if b.sect > 2 ^ 47 - 1 then { b with sect := 2 ^ 47 - 1, ovf := true }
  else b

/-- The effect of one update on the counts, before the flip (R347). -/
def XBar.count (b : XBar) : BarrierUpdate → XBar
  | .init n => { sect := 0, exp := n, arr := n, ovf := false, fault := false, phase := 0 }
  | .expect n => { b with sect := b.sect + n }
  | .arrive k => if b.arr < k then { b with arr := 0, ovf := true } else { b with arr := b.arr - k }
  | .sector => { b with sect := b.sect - 1 }
  | .setFault => { b with fault := true }

/-- The flip (R347). -/
def XBar.flip (b : XBar) : XBar :=
  if b.arr = 0 ∧ b.sect = 0 then { b with phase := b.phase + 1, arr := b.exp } else b

/-- Whether an update initialises. -/
def BarrierUpdate.isInit : BarrierUpdate → Bool
  | .init _ => true
  | _ => false

/-- Updates that are performed in one step (R347, R350): their counts in order, then one test for the flip. -/
def XBar.apply (us : List BarrierUpdate) (b : XBar) : XBar :=
  let b' := (us.foldl XBar.count b).clamp
  if us.any BarrierUpdate.isInit then b' else b'.flip

/-- The 16 bytes of a barrier after updates. -/
def barrierBytes (us : List BarrierUpdate) (old : List Byte) : List Byte :=
  leBytes 16 (XBar.apply us (XBar.ofWord (BitVec.ofNat 128 (leNat old)))).word.toNat

/-- Where a barrier lies (R348). -/
inductive BarPlace where
  | site (off : Nat)
  | mem (pa : Nat)
  deriving DecidableEq, Repr

/-- Whether an address lies in HBM4E or LPDDR memory. -/
def isDram (pa : Nat) : Bool :=
  match physKind pa with
  | .hbm _ => true
  | .lpddr _ => true
  | _ => false

/-! ### Local stores seen by an engine (R341) -/

/-- Bytes written to a site's local store; a WAITA of the site on them wakes (R131, R237). -/
def siteWrite (s : State) (k : SiteKey) (va : W64) (bs : List Byte) : State :=
  let x := siteOf s k
  wakeSite (setSite s k { x with localStore := writeBytes x.localStore (va.toNat % 65536) bs }) k fun _ w => w == .waita (va.toNat / 128) true

/-- The site of a logically named task, while its launch is placed. -/
def siteOfRef (s : State) (r : TaskRef) : Option SiteKey := (placeOf s r).map TaskKey.siteKey

/-- Whether an address is a byte of a local store, in the window (R131). -/
def inStore (va : W64) : Bool := inWindow va && field va 16 32 == 0

/-- A channel's read: the local store of the issuing task's site, or memory (R341). -/
def chanRead (s : State) (a : Accessor) (r : TaskRef) (va : W64) (n : Nat) : Except EngineStop (State × List Byte) :=
  match inStore va, siteOfRef s r with
  | true, some k => .ok (s, readBytes (siteOf s k).localStore (va.toNat % 65536) n)
  | _, _ => accessRead s a va n

/-- A channel's write, with the words that it registers. -/
def chanWrite (s : State) (a : Accessor) (r : TaskRef) (va : W64) (bs : List Byte) : Except EngineStop (State × List (Nat × W32)) :=
  match inStore va, siteOfRef s r with
  | true, some k => .ok (siteWrite s k va bs, [])
  | _, _ => accessWrite s a va bs

/-- An update of a barrier in memory by an engine of a launch, at its home (R348). -/
def barrierAt (s : State) (l c pa : Nat) (us : List BarrierUpdate) : Except EngineStop State :=
  match placeReady s pa 16 true true with
  | .error (.stall t) => .error (.hold t)
  | .error _ => .error (.hold s)
  | .ok _ =>
    if badIn s pa 16 then .error (.hold (reportBad s l pa)) else
    let new := barrierBytes us (homeRead s pa 16)
    .ok (refreshCopies (homeWrite s pa new) c pa new)

/-- Updates of a barrier by a channel, at the barrier's place (R348). -/
def chanBarrier (s : State) (a : Accessor) (r : TaskRef) (va : W64) (us : List BarrierUpdate) : Except EngineStop State :=
  match inStore va, siteOfRef s r with
  | true, some k => .ok (siteWrite s k va (barrierBytes us (readBytes (siteOf s k).localStore (va.toNat % 65536) 16)))
  | _, _ => do
    let pa ← accessPa s a va true
    barrierAt s a.fault.launch a.core pa us

/-! ### Channels and their records (R333, R339, R340) -/

/-- A copy channel of a core. -/
def copyOf (s : State) (c i : Nat) : CopyChan := ((coreOf s c).chans.toList)[i]?.getD CopyChan.init
/-- The state with a copy channel replaced. -/
def setCopy (s : State) (c i : Nat) (x : CopyChan) : State := setCore s c { coreOf s c with chans := (coreOf s c).chans.setIfInBounds i x }

/-- The accessor of a channel, for the launch that owns it. -/
def copyAccessor (s : State) (c i : Nat) : Accessor :=
  let x := copyOf s c i
  let launch := (x.owner.map (·.1.launch)).getD 0
  let n : NodeRef := { kind := .copych, home := c, idx := i }
  { core := c, die := c / 4, walker := .engine n, who := some n, space := (launchOf s launch).space,
    fault := nodeFault s c launch ((x.owner.map (·.2)).getD 0) }

/-- The launch of a channel. -/
def CopyChan.launch (x : CopyChan) : Nat := (x.owner.map (·.1.launch)).getD 0

/-- Codes of the states (R339). -/
def ChanState.code : ChanState → Nat
  | .idle => 0 | .fetch => 1 | .copy => 2 | .finish => 3 | .held => 4 | .stopped => 5

/-- The fields of a record's 128 bytes (R333). -/
def Record.ofBytes (bs : List Byte) : Record :=
  let q (i : Nat) : W64 := le64 ((bs.drop (8 * i)).take 8)
  { next := q 0, ctl := q 1, bar := q 2, shape := q 3, src := q 4, dst := q 5, srcStr := q 6, dstStr := q 7,
    cmd := (List.range 16).map fun i => BitVec.ofNat 32 (leNat ((bs.drop (64 + 4 * i)).take 4)) }

/-- LEN0. -/
def Record.len (r : Record) : Nat := field r.shape 0 16
/-- CNT1 to CNT3. -/
def Record.cnt (r : Record) (i : Nat) : Nat := field r.shape (16 * i) 16
/-- The number of runs. -/
def Record.runs (r : Record) : Nat := r.cnt 1 * r.cnt 2 * r.cnt 3
/-- Stride i of 1 to 3, signed. -/
def strideOf (w : W64) (i : Nat) : Int := (bits w (21 * (i - 1)) 21).toInt
/-- The offset of run `n` under three strides: i1 runs fastest (R333). -/
def Record.offset (r : Record) (strs : W64) (n : Nat) : Int :=
  (n % r.cnt 1 : Nat) * strideOf strs 1 + (n / r.cnt 1 % r.cnt 2 : Nat) * strideOf strs 2 +
    (n / (r.cnt 1 * r.cnt 2) : Nat) * strideOf strs 3
/-- The source address of run `n`. -/
def Record.srcAt (r : Record) (n : Nat) : W64 := r.src + BitVec.ofInt 64 (r.offset r.srcStr n)
/-- The destination address of run `n`. -/
def Record.dstAt (r : Record) (n : Nat) : W64 := r.dst + BitVec.ofInt 64 (r.offset r.dstStr n)
/-- CMDV. -/
def Record.cmdv (r : Record) : Bool := bit r.ctl 1

/-- A canonical address that, in the window, lies in the local store (R131, R333). -/
def addressOk (va : W64) : Bool := canonical va && (!inWindow va || inStore va)

/-- Whether a record is well formed, but for its barrier (R333). -/
def Record.ok (r : Record) : Bool :=
  field r.ctl 2 6 == 0 && field r.ctl 22 42 == 0 && r.len != 0 && r.cnt 1 != 0 && r.cnt 2 != 0 && r.cnt 3 != 0 && !bit r.srcStr 63 &&
    !bit r.dstStr 63 && addressOk r.next && r.next.toNat % 128 == 0 && addressOk r.src && addressOk r.dst &&
    (!r.cmdv || (!bit r.ctl 8 && decide (3 ≤ field r.ctl 16 6 ∧ field r.ctl 16 6 ≤ 6)))

/-- Whether BAR can name a barrier: none, or an aligned address (R333). -/
def Record.barOk (r : Record) : Bool := r.bar.toNat % 16 == 0 && addressOk r.bar

/-- The bounding range of a record's runs (R344). -/
def Record.range (r : Record) (space : Nat) (base strs : W64) : Nat × Nat :=
  let span (i : Nat) : Int := ((r.cnt i : Int) - 1) * strideOf strs i
  let lo := min 0 (span 1) + min 0 (span 2) + min 0 (span 3)
  let hi := max 0 (span 1) + max 0 (span 2) + max 0 (span 3)
  spaceRange space (base.toNat + lo) ((hi - lo).toNat + r.len)

/-! ### Ends of a walk and stops (R339, R342, R343, R352) -/

/-- The channel takes its next chain from the head register, or is idle (R339, R340). -/
def CopyChan.endChain (x : CopyChan) : CopyChan :=
  let x := { x with record := none, run := 0, sector := 0, issued := 0, flight := [], stopReq := false, began := false, offered := false, failing := none,
                    page := none }
  match x.head with
  | some h => { x with state := .fetch, cur := some h, head := none }
  | none => { x with state := .idle, cur := none }

/-- The chain ends, and the record's card with it. -/
def endWalk (s : State) (c i : Nat) : State :=
  let x := copyOf s c i
  let s := if x.began then leaveCard s c x.card else s
  setCopy s c i (copyOf s c i).endChain

/-- The channel stops (R339). -/
def stopChan (s : State) (c i : Nat) : State :=
  let x := copyOf s c i
  let s := if x.began then leaveCard s c x.card else s
  setCopy s c i { copyOf s c i with state := .stopped, began := false, stopReq := false, flight := [], failing := none,
                                    page := none }

/-- A channel that holds (R273, R339): HELD on a page fault, stopped where memory cannot be reached (R420), and otherwise it tries again. -/
def holdChan (s : State) (c i : Nat) : EngineStop → State
  | .unreachable => stopChan (engineUnreachable s (copyOf s c i).launch) c i
  | .gone t => stopChan t c i
  | .hold t => t
  | .fault t va => setCopy t c i { copyOf t c i with state := .held, page := some va }

/-- A channel whose last sectors land, or whose record is being completed, that meets a page fault: it waits in its state (R272, R273). -/
def waitChan (s : State) (c i : Nat) : EngineStop → State
  | .fault t va => setCopy t c i { copyOf t c i with page := some va }
  | e => holdChan s c i e

/-- A channel stops on an error, with FAULT set in the barrier of its record (R343): where the barrier's page faults it holds, and stops once it can
reach the barrier. -/
def failChan (s : State) (c i cause : Nat) (r : Record) (issuer : TaskRef) : State :=
  let x := copyOf s c i
  if r.bar = 0 then stopChan (launchError s x.launch cause) c i
  else
    match chanBarrier s (copyAccessor s c i) issuer r.bar [.setFault] with
    | .ok t => stopChan (launchError t x.launch cause) c i
    | .error e => holdChan (setCopy s c i { x with record := some r, failing := some cause }) c i (match e with
        | .fault t va => .fault (setCopy t c i { copyOf t c i with record := some r, failing := some cause }) va
        | .hold t => .hold t
        | e => e)

/-! ### Steps of a channel (R339 to R343) -/

/-- Where a record's barrier lies, once its page is present: none for a barrier that stops the channel (R348). -/
def barrierFound (s : State) (a : Accessor) (r : Record) : Except EngineStop Bool :=
  if r.bar = 0 || inStore r.bar then .ok true
  else do
    let pa ← accessPa s a r.bar true
    .ok (isDram pa)

/-- A fetched record enters COPY as a job card (R339, R344, R345). -/
def beginRecord (s : State) (c i : Nat) (r : Record) : State :=
  if cardRoom s c then
    let x := copyOf s c i
    let space := (launchOf s x.launch).space
    let (s, card) := enterCard s c x.launch [r.range space r.src r.srcStr] [r.range space r.dst r.dstStr]
    setCopy s c i { copyOf s c i with state := .copy, record := some r, run := 0, sector := 0, issued := 0, flight := [], card := card,
                                      began := true, offered := false, page := none, lastArrive := s.time }
  else s

/-- RECORD_FETCH (R333, R339): the record is read, and the channel copies it, ends its chain, or stops. -/
def execRecordFetch (core chan : Nat) (s : State) : Host.Outcome State Fault Refusal :=
  let x := copyOf s core chan
  let a := copyAccessor s core chan
  .next (match x.cur, x.record with
    | some h, none =>
      if x.state ≠ .fetch ∧ x.state ≠ .held then s
      else if x.stopReq then endWalk s core chan
      else
        match chanRead s a h.issuer h.addr 128 with
        | .error e => holdChan s core chan e
        | .ok (t, bs) =>
          let r := Record.ofBytes bs
          if !bit r.ctl 0 then endWalk t core chan
          else if !r.barOk then failChan t core chan 10 { r with bar := 0 } h.issuer
          else
            match barrierFound t a r with
            | .error e => holdChan t core chan e
            | .ok false => failChan t core chan 10 { r with bar := 0 } h.issuer
            | .ok true => if r.ok then beginRecord t core chan r else failChan t core chan 10 r h.issuer
    | _, _ => s)

/-- Whether a byte address lies in a record's runs from a base. -/
def Record.covers (r : Record) (base strs : W64) (va : W64) : Bool :=
  (List.range r.runs).any fun n => (va - (base + BitVec.ofInt 64 (r.offset strs n))).toNat < r.len

/-- Whether a record's source and destination may share a byte. -/
def Record.selfOverlap (r : Record) : Bool := rangesMeet [r.range 0 r.src r.srcStr] [r.range 0 r.dst r.dstStr]

/-- The bytes of a sector as copied: those that lie in both source and destination are free values (R341, log 7). -/
def Record.sectorBytes (r : Record) (clock : Nat) (sa da : W64) (bs : List Byte) : List Byte :=
  if r.selfOverlap then
    bs.zipIdx.map fun (b, i) =>
      if r.covers r.src r.srcStr (da + BitVec.ofNat 64 i) || r.covers r.dst r.dstStr (sa + BitVec.ofNat 64 i) then
        Config.freeByte clock i else b
  else bs

/-- The channel past one sector of `n` bytes; past the last it is in FINISH (R339, R341). -/
def CopyChan.advance (x : CopyChan) (r : Record) (n : Nat) (words : List (Nat × W32)) : CopyChan :=
  let x := { x with issued := x.issued + 1, flight := x.flight ++ [words] }
  if x.sector + n < r.len then { x with state := .copy, sector := x.sector + n }
  else if x.run + 1 < r.runs then { x with state := .copy, sector := 0, run := x.run + 1 }
  else { x with state := .finish, sector := 0, run := x.run + 1 }

/-- SECTOR_ISSUE (R341, R343, R345, R352): the next sector of a record whose card has begun is read and written. A channel asked to stop
leaves its record once the sectors it has issued have landed. -/
def execSectorIssue (core chan : Nat) (s : State) : Host.Outcome State Fault Refusal :=
  let x := copyOf s core chan
  let a := copyAccessor s core chan
  .next (match x.cur, x.record with
    | some h, some r =>
      if x.state ≠ .copy ∧ x.state ≠ .held then s
      else if let some cause := x.failing then failChan s core chan cause r h.issuer
      else if x.stopReq then (if x.flight.isEmpty then endWalk s core chan else s)
      else if !cardBegun s core x.card then s
      else
        let sa := r.srcAt x.run + BitVec.ofNat 64 x.sector
        let da := r.dstAt x.run + BitVec.ofNat 64 x.sector
        let n := min (r.len - x.sector) (32 - da.toNat % 32)
        match chanRead s a h.issuer sa n with
        | .error e => holdChan s core chan e
        | .ok (t, bs) =>
          match chanWrite t a h.issuer da (r.sectorBytes s.clock sa da bs) with
          | .error e => holdChan t core chan e
          | .ok (u, ws) =>
            let y := { (copyOf u core chan).advance r n ws with lastFire := u.time, page := none }
            let u := setCopy u core chan y
            if y.state == .finish then setCard u core x.card fun k => { k with readsDone := true } else u
    | _, _ => s)

/-- Whether the registrations of a sector's words are acknowledged (R342). -/
def acknowledged (s : State) (c : Nat) (ws : List (Nat × W32)) : Bool :=
  ws.all fun (l, m) => (coreOf s c).regsOut.all fun o => o.line != l || (o.mask &&& m) == 0

/-- The position of the first sector in flight that has landed. -/
def landedAt (s : State) (c : Nat) (x : CopyChan) : Option Nat := x.flight.findIdx? (acknowledged s c)

/-- A sector has landed: its record's card has written all once the last one has (R342, R345). -/
def landSector (s : State) (c i n : Nat) : State :=
  let x := copyOf s c i
  let y := { x with flight := x.flight.eraseIdx n }
  let s := setCopy s c i y
  if y.state == .finish && y.flight.isEmpty then setCard s c x.card fun k => { k with writesDone := true } else s

/-- SECTOR_LAND (R342, R348): a sector's registration is acknowledged, and SECT of the record's barrier falls by one. -/
def execSectorLand (core chan : Nat) (s : State) : Host.Outcome State Fault Refusal :=
  let x := copyOf s core chan
  .next (match x.cur, x.record, landedAt s core x with
    | some h, some r, some i =>
      if r.bar = 0 then landSector s core chan i
      else
        match chanBarrier s (copyAccessor s core chan) h.issuer r.bar [.sector] with
        | .ok t => landSector t core chan i
        | .error e => waitChan s core chan e
    | _, _, _ => s)

/-- The follow-on command of a record (R333, R334). -/
def Record.followOn (r : Record) (h : Head) : TileCmd :=
  let form : TileForm := match field r.ctl 16 6 with | 3 => .mma | 4 => .mmab | 5 => .mmas | _ => .mman
  tileOf form (.eng (bit r.ctl 10) (bit r.ctl 9) false) r.cmd (fun q => h.tiles.get q) h.issuer true

/-- A follow-on command sees every byte that its record has written: a slab of another core than the channel's holds no clean copy from before
(R334; DEDUCED, log 127). -/
def followSees (s : State) (chanCore slabCore : Nat) : State :=
  if chanCore = slabCore then s else setCore s slabCore (Core.dropAllClean (coreOf s slabCore))

/-- FOLLOW_ON_OFFER (R334, R342): the command of a record whose sectors have landed is checked as a task's would be, and offered to its
slab; it waits for room, and a failed check stops the channel with COPYCMD. -/
def execFollowOnOffer (core chan : Nat) (s : State) : Host.Outcome State Fault Refusal :=
  let x := copyOf s core chan
  .next (match x.cur, x.record with
    | some h, some r =>
      if x.state == .finish && x.flight.isEmpty && r.cmdv && !x.offered then
        let t := r.followOn h
        match checkTile s t, nodeAt s h.issuer t.slabId with
        | .ok _, some n =>
          if field r.ctl 11 5 ≠ 0 then failChan s core chan 11 r h.issuer
          else
            match offerTile s n t with
            | .ok u => followSees (setCopy u core chan { copyOf u core chan with offered := true }) core n.home
            | .error (.stall _) => s
            | .error _ => failChan s core chan 11 r h.issuer
        | _, _ => failChan s core chan 11 r h.issuer
      else s
    | _, _ => s)

/-- RECORD_FINISH (R342): after the landings and the follow-on command, and once every store of the channel is acknowledged, since the store of OWN is a
release at region scope (R204), the channel clears OWN and goes on at NEXT. -/
def execRecordFinish (core chan : Nat) (s : State) : Host.Outcome State Fault Refusal :=
  let x := copyOf s core chan
  .next (match x.cur, x.record with
    | some h, some r =>
      if x.state == .finish && x.flight.isEmpty && (!r.cmdv || x.offered) && nodeAcked s (copyAccessor s core chan) then
        match chanWrite s (copyAccessor s core chan) h.issuer (h.addr + 8) [bits r.ctl 0 8 &&& 0xFE] with
        | .error e => waitChan s core chan e
        | .ok (t, _) =>
          let t := leaveCard t core x.card
          let y := { copyOf t core chan with began := false, page := none, lastFire := t.time }
          if r.next = 0 || x.stopReq then setCopy t core chan y.endChain
          else setCopy t core chan { y with state := .fetch, cur := some { h with addr := r.next }, record := none, offered := false }
      else s
    | _, _ => s)

/-! ### CPHEAD, CPSTAT, CPSTOP (R335, R351, R352) -/

/-- The descriptor of CPHEAD: its node id and the first record's address (R335, R351). -/
def headDesc (d : List W32) : Except Stop (W64 × W64) :=
  if field (dlane d 0) 4 28 = 0 ∧ (d.drop 3).all (· == 0) then .ok ((dlane d 0).setWidth 64, daddr d 1) else illop

/-- CPHEAD (R340, R351): to an idle channel it starts the walk; to a busy one it fills the head register, and waits while that is full;
to a stopped one it does nothing. -/
def execCphead (o : Operands) (s : State) : Host.Outcome State Fault Refusal :=
  engineIssue o s fun r => do
    let (id, va) ← headDesc (← descriptor (vectorOf s o.a))
    let n ← nodeOr s r id [.copych]
    aligned va 128
    check (addressOk va) .extent
    memGate s .rel .core
    let x := copyOf s n.home n.idx
    let h : Head := { addr := va, issuer := r, tiles := Vector.ofFn fun i => Regs.readQ (thread s).regs i }
    match x.state, x.head with
    | .stopped, _ => .ok (retire s)
    | .idle, _ => .ok (retire (setCopy s n.home n.idx { x with state := .fetch, cur := some h }))
    | _, none => .ok (retire (setCopy s n.home n.idx { x with head := some h }))
    | _, some _ => .error (.stall s)

/-- The channel word (R352). -/
def CopyChan.word (x : CopyChan) : W64 :=
  let addr : W64 := match x.state, x.cur with
    | .idle, _ => 0
    | _, some h => h.addr
    | _, none => 0
  (addr &&& ~~~(127 : W64)) ||| BitVec.ofNat 64 ((if x.head.isSome then 8 else 0) + x.state.code)

/-- CPSTAT (R352). -/
def execCpstat (o : Operands) (s : State) : Host.Outcome State Fault Refusal :=
  engineIssue o s fun r => do
    let n ← nodeOr s r (← dataOf (scalarOf s o.a)) [.copych]
    answer s o (copyOf s n.home n.idx).word

/-- What CPSTOP does to a channel (R339, R352, R359): a held sector is abandoned, and a record whose sectors are all issued is finished
first. -/
def stopNow (s : State) (c i : Nat) : State :=
  let x := copyOf s c i
  let s := if x.state == .held then abandonFaults s (copyAccessor s c i).fault else s
  let s := setCopy s c i { x with head := none }
  match x.state with
  | .idle => s
  | .stopped => setCopy s c i (copyOf s c i).endChain
  | .finish => setCopy s c i { copyOf s c i with stopReq := true }
  | _ => if x.flight.isEmpty then endWalk s c i else setCopy s c i { copyOf s c i with stopReq := true, state := .copy, failing := none, page := none }

/-- CPSTOP (R352): d receives the channel word as it stood. -/
def execCpstop (o : Operands) (s : State) : Host.Outcome State Fault Refusal :=
  engineIssue o s fun r => do
    let n ← nodeOr s r (← dataOf (scalarOf s o.a)) [.copych]
    let w := (copyOf s n.home n.idx).word
    .ok (retire (produceS (stopNow s n.home n.idx) o.dst (.data w)))

/-! ### Barrier instructions (R347 to R350, R353) -/

/-- The place of the barrier that an instruction names (R218, R348, R350). -/
def barrierPlace (s : State) (va : W64) (wr : Bool) : Except Stop BarPlace := do
  aligned va 16
  canonicalOr va
  match ← translate s va 16 true wr with
  | .localStore off => .ok (.site off)
  | .mem pa => if isDram pa then .ok (.mem pa) else trapOf .extent
  | .page protect => .error (pageStall s va protect .atomic)

/-- A barrier updated by the executing task, as one step at its place (R347, R348). -/
def updateBarrier (s : State) (va : W64) (us : List BarrierUpdate) : BarPlace → Exec
  | .site off => .ok (localWrite s va off (barrierBytes us (localRead s off 16)))
  | .mem pa => do
    homeOrdered s va pa 16
    let (t, _) ← placeUpdate s pa 16 (barrierBytes us)
    .ok t

/-- A count within its range, or ILLOP (R350). -/
def countOf (x : Scalar) (lo hi : Nat) : Except Stop Nat := do
  let w ← dataOf x
  if lo ≤ w.toNat ∧ w.toNat ≤ hi then .ok w.toNat else illop

/-- A barrier instruction that updates: its count, its address, its release, and the update (R350). -/
def xbarOp (o : Operands) (s : State) (lo hi : Nat) (ord : MemOrder) (us : Nat → List BarrierUpdate) :
    Host.Outcome State Fault Refusal :=
  engineIssue o s fun _ => do
    let va ← dataOf (scalarOf s o.a)
    let n ← countOf (scalarOf s o.b) lo hi
    let place ← barrierPlace s va true
    memGate s ord .region
    let t ← updateBarrier s va (us n) place
    .ok (retire t)

/-- XBINIT (R347, R350). -/
def execXbinit (o : Operands) (s : State) : Host.Outcome State Fault Refusal :=
  xbarOp o s 1 (2 ^ 32 - 1) .rlx fun n => [.init n]

/-- ARV of XBEXP, and FIN of GTHR and ISECT (R349). -/
def Mod.arv : Mod → Bool
  | .eng _ _ f => f
  | _ => false

/-- XBEXP (R347, R350): with ARV it arrives in the same step, as a release at region scope. -/
def execXbexp (o : Operands) (s : State) : Host.Outcome State Fault Refusal :=
  if Mod.arv o.mod then xbarOp o s 0 (2 ^ 47 - 1) .rel fun n => [.expect n, .arrive 1]
  else xbarOp o s 0 (2 ^ 47 - 1) .rlx fun n => [.expect n]

/-- XBARV (R347, R350): a release at region scope. -/
def execXbarv (o : Operands) (s : State) : Host.Outcome State Fault Refusal :=
  xbarOp o s 1 (2 ^ 32 - 1) .rel fun n => [.arrive n]

/-- The 16 bytes of a barrier read at its place (R353). -/
def readBarrier (s : State) (va : W64) : BarPlace → Except Stop W128
  | .site off => .ok (BitVec.ofNat 128 (leNat (localRead s off 16)))
  | .mem pa => do
    homeOrdered s va pa 16
    let bs ← readAtPlace s pa 16 false
    .ok (BitVec.ofNat 128 (leNat bs))

/-- Whether an XBWAIT on a phase completes (R353). -/
def barrierPassed (w : W128) (phase : BitVec 4) : Bool := bits w 0 4 != phase || bit w 4

/-- XBWAIT (R353): d empties until the barrier passes the phase or faults; it acquires at region scope. -/
def execXbwait (o : Operands) (s : State) : Host.Outcome State Fault Refusal :=
  engineIssue o s fun _ => do
    let va ← dataOf (scalarOf s o.a)
    let b ← dataOf (scalarOf s o.b)
    let _ ← barrierPlace s va false
    memGate s .rlx .task
    match o.dst with
    | .s i => .ok (retire (startProducer s o.dst (.transaction va (bits b 0 4) i) (some .region)))
    | _ => illop

/-- XBTEST (R350): half of the barrier, without acquiring. -/
def execXbtest (o : Operands) (s : State) : Host.Outcome State Fault Refusal :=
  engineIssue o s fun _ => do
    let va ← dataOf (scalarOf s o.a)
    let n ← countOf (scalarOf s o.b) 0 1
    let place ← barrierPlace s va false
    memGate s .rlx .task
    let w ← readBarrier s va place
    .ok (retire (produceS s o.dst (.data (bits w (64 * n) 64))))

/-! ### KILL of a fault (R274, R343) -/

/-- The copy channels of the fault's launch and core that hold on its page, whichever access made the record (R272, R343). -/
def faultChans (s : State) (f : FaultInfo) : List Nat :=
  [0, 1].filter fun i =>
    let x := copyOf s f.core i
    x.launch == f.launch && x.page.any fun va => f.space == (launchOf s f.launch).space && va.toNat / 65536 == f.va.toNat / 65536

/-- FAULT set in the barrier of the record of a channel that KILL stops (R343): through the space as it maps the barrier now. -/
def killFault (s : State) (c i : Nat) : State :=
  match (copyOf s c i).cur, (copyOf s c i).record with
  | some h, some r =>
    if r.bar = 0 then s
    else
      match inStore r.bar, siteOfRef s h.issuer with
      | true, some k => siteWrite s k r.bar (barrierBytes [.setFault] (readBytes (siteOf s k).localStore (r.bar.toNat % 65536) 16))
      | _, _ =>
        match walkPa s (c / 4) (launchOf s (copyOf s c i).launch).space r.bar with
        | some pa => homeWrite s pa (barrierBytes [.setFault] (homeRead s pa 16))
        | none => s
  | _, _ => s

/-- KILL written to FLTRES (R274, R343): the launch ends with error PAGE, and its held and logged accesses are discarded; a channel held on the
fault sets FAULT in its record's barrier. -/
def resolveKill (s : State) (core index : Nat) : State :=
  match faultAt s core index with
  | some f =>
    let s := dropFault s core index
    let s := (faultChans s f).foldl (fun s i => killFault s core i) s
    killWith s f.launch 8 0 (if f.sourceKind = 0 then f.source % 16 else 0xFF) (if f.sourceKind = 0 then f.source / 16 else 0xFF) f.task
  | none => s

/-- FLTRES_KILL (R274). -/
def execFltresKill (core index : Nat) (s : State) : Host.Outcome State Fault Refusal := .next (resolveKill s core index)

end Sys2Proof.Machine
end

