-- ==== Sys2Proof/Machine/Gather.lean ====
section
/-! DEFINITION. GTHR, SCTR and ISECT of major 0x70, and the steps of the fabric-interface units (R354 to R358, R362, R363). -/

namespace Sys2Proof.Machine

/-! ### Descriptors (R354) -/

/-- Element size in bytes, for ESZ 0 to 2. -/
def unitSize (d : List W32) : Nat := 2 ^ field (dlane d 1) 3 2
/-- SRC. -/
def unitSrc (d : List W32) : Bool := bit (dlane d 1) 7
/-- VEC. -/
def unitVec (d : List W32) : Bool := bit (dlane d 1) 6
/-- SX. -/
def unitSx (d : List W32) : Bool := bit (dlane d 1) 5
/-- FMT. -/
def unitFmt (d : List W32) : Fmt := Fmt.ofCode (field (dlane d 1) 0 3)
/-- SEQ. -/
def unitSeq (d : List W32) : Nat := field (dlane d 1) 8 12
/-- N. -/
def unitN (d : List W32) : Nat := (dlane d 2).toNat

/-- Reserved bits and ranges of a gather or scatter descriptor (R354). -/
def unitRanges (d : List W32) (scatter : Bool) : Bool :=
  field (dlane d 1) 20 12 == 0 && field (dlane d 1) 3 2 != 3 && (d.drop 9).all (· == 0) && decide (1 ≤ unitN d ∧ unitN d ≤ 2 ^ 24) &&
    (!(unitSrc d || scatter) || decide (unitN d ≤ 64)) && (!unitSrc d || daddr d 3 == 0) &&
    (if scatter then dlane d 0 == 0 else unitFmt d != .hxf4)

/-- An address that the units can reach: canonical, outside the local-store window (R354). -/
def unitReach (va : W64) : Bool := canonical va && !inWindow va

/-- Alignment and addresses of a gather or scatter descriptor (R354). -/
def checkUnit (d : List W32) : Except Stop Unit := do
  check ((unitSrc d || (dlane d 3).toNat % 4 == 0) && (dlane d 5).toNat % unitSize d == 0 && (dlane d 7).toNat % unitSize d == 0) .align
  check ((unitSrc d || unitReach (daddr d 3)) && unitReach (daddr d 5)) .extent

/-- Whether a field is a vector register or an input channel (R350). -/
def Field.isVC : Field → Bool
  | .src x => (match x.reg with | .v _ => true | .c _ => true | _ => false)
  | _ => false

/-- An index vector (R350, R354): its field is ready, and a channel's token carries tag 000 or 111. -/
def indexOf (s : State) (n : Nat) (f : Field) : Except Stop (Vector Lane 64) := do
  match (Field.chan f).bind (headToken s) with
  | some t => if t.fmt == .int32 || t.fmt == .idx then .ok () else .error (.trap .fmt n 0)
  | none => .ok ()
  .ok (vectorOf s f)

/-! ### Issue (R255, R350, R354) -/

/-- A command accepted by the unit of the issuing die. -/
def startUnit (s : State) (o : Operands) (k : TaskKey) (kind : UnitKind) (d : List W32) (index value : Option (Vector Lane 64)) : State :=
  let (s, id) := engineProducer s o.dst
  let die := k.core / 4
  let x := dieOf s die
  let u : UnitCmd := { kind := kind, issuer := refOr s k, lanes := d, index := index, value := value, fin := Mod.arv o.mod, producer := id,
                       next := 0, gathered := [], done := 0, skipped := 0, unreach := false, out := [], result := .null, heldAt := none }
  setDie s die { x with units := Tab.put x.units x.nextUnit u, nextUnit := x.nextUnit + 1 }

/-- What every command of a unit waits for at issue: its destination, and a release at package scope (R255). -/
def unitGate (s : State) (o : Operands) : Except Stop Unit := do
  dstReady s o.dst
  memGate s .rel .package

/-- A command of a unit by the executing task, once its predicate holds (R349). Until its descriptor is there, the other fields that the
instruction always reads are its sources too (R96). -/
def unitIssue (o : Operands) (s : State) (always : List (Nat × Field)) (x : TaskKey → List W32 → Exec) : Host.Outcome State Fault Refusal :=
  issue Places.sites o s (predicated s (Field.pred o.a) do
    match available s [(0, o.a)] with
    | .ok _ => .ok ()
    | .error _ => available s ((0, o.a) :: always)
    let d ← descriptor (vectorOf s o.a)
    match s.cur with
    | .task k => x k d
    | _ => illop)

/-- GTHR (R350, R354): field B holds the indices under SRC = 1, and is not read otherwise. -/
def execGthr (o : Operands) (s : State) : Host.Outcome State Fault Refusal :=
  unitIssue o s [] fun k d => do
    check (unitRanges d false && (if unitSrc d then Field.isVC o.b else Field.zero o.b)) .illop
    routeOrIllop s (refOr s k) (dlane d 0)
    let fs := if unitSrc d then [(1, o.b)] else []
    available s fs
    checkUnit d
    let idx ← if unitSrc d then (indexOf s 1 o.b).map some else .ok none
    unitGate s o
    .ok (retire (startUnit (consume s (fs.map (·.2))) o k .gather d idx none))

/-- SCTR (R350, R354): field B holds the values, and field C the indices under SRC = 1. -/
def execSctr (o : Operands) (s : State) : Host.Outcome State Fault Refusal :=
  unitIssue o s [(1, o.b)] fun k d => do
    check (unitRanges d true && (if unitSrc d then Field.isVC o.c else Field.zero o.c)) .illop
    let fs := if unitSrc d then [(1, o.b), (2, o.c)] else [(1, o.b)]
    available s fs
    checkUnit d
    let idx ← if unitSrc d then (indexOf s 2 o.c).map some else .ok none
    unitGate s o
    .ok (retire (startUnit (consume s (fs.map (·.2))) o k .scatter d idx (some (vectorOf s o.b))))

/-- ISECT (R358). -/
def execIsect (o : Operands) (s : State) : Host.Outcome State Fault Refusal :=
  unitIssue o s [] fun k d => do
    check ((d.drop 8).all (· == 0) && field (dlane d 7) 12 20 == 0) .illop
    routeOrIllop s (refOr s k) (dlane d 0)
    check ((dlane d 1).toNat % 8 == 0 && (dlane d 3).toNat % 8 == 0) .align
    check (unitReach (daddr d 1) && unitReach (daddr d 3)) .extent
    unitGate s o
    .ok (retire (startUnit s o k .isect d none none))

/-! ### The unit's accesses (R356, R357) -/

/-- A command of a die's unit. -/
def unitOf (s : State) (die id : Nat) : Option UnitCmd := Tab.find? (dieOf s die).units id

/-- The state with a command replaced. -/
def setUnit (s : State) (die id : Nat) (u : UnitCmd) : State := setDie s die { dieOf s die with units := Tab.put (dieOf s die).units id u }

/-- The fault of a command's access, recorded in the issuing core's ring with the issuing task's SRC and TASK (R356). -/
def unitFault (s : State) (k : TaskKey) (va : W64) (wr : Bool) : FaultInfo :=
  taskFault s k va false (if wr then .engineWrite else .engineRead) 0xFFFFFFFF

/-- Whether a command holds on a fault that is not resolved (R273, R360). -/
def unitHolds (s : State) (u : UnitCmd) : Bool :=
  match u.heldAt, placeOf s u.issuer with
  | some va, some k => faultKnown s (unitFault s k va false)
  | _, _ => false

/-- Translation of an element's address; a failure is recorded in the issuing core's ring, with the issuing task's SRC and TASK (R356). -/
def unitPa (s : State) (die id : Nat) (u : UnitCmd) (va : W64) (wr : Bool) : Except EngineStop Nat :=
  match placeOf s u.issuer with
  | none => .error (.hold s)
  | some k =>
    let f := unitFault s k va wr
    if !unitReach va then .error (if (launchOf s u.issuer.launch).killed then .gone s else .fault (reportFault s f) va)
    else engineTranslate s die (.unit die id) none (launchOf s u.issuer.launch).space va wr f

/-- A unit whose request completes as space gone stops: its command ends, its destination stays empty, and its launch has an error (R271). -/
def dropUnit (s : State) (die id : Nat) : State := setDie s die { dieOf s die with units := Tab.del (dieOf s die).units id }

/-- A command that holds on a fault. -/
def holdUnit (s : State) (die id : Nat) (u : UnitCmd) (va : W64) : State := setUnit s die id { u with heldAt := some va }

/-- Bytes read at their home, at package scope (R356). -/
def unitRead (s : State) (die id : Nat) (u : UnitCmd) (va : W64) (n : Nat) : Except EngineStop (State × List Byte) := do
  let pa ← unitPa s die id u va false
  placeRead s u.issuer.launch die pa n

/-- Bytes written at their home, where no owner remains, and of which the issuing core's L1 keeps no copy (R357). -/
def unitWrite (s : State) (die id : Nat) (u : UnitCmd) (va : W64) (bs : List Byte) : Except EngineStop State := do
  let pa ← unitPa s die id u va true
  let core := ((placeOf s u.issuer).map (·.core)).getD 0
  if regPending s core pa bs.length then .error (.hold s)
  else
    match writeOnce s die pa bs with
    | .ok t => .ok (dropRange t core pa bs.length)
    | .error (.stall t) => .error (.hold t)
    | .error _ => .error .unreachable

/-- Index `i` of a command: a lane of its vector, or a word of its list. -/
def unitIndex (s : State) (die id : Nat) (u : UnitCmd) (i : Nat) : Except EngineStop (State × Lane) :=
  match u.index with
  | some ls => .ok (s, (ls.toList)[i]?.getD .null)
  | none => do
    let (s, bs) ← unitRead s die id u (daddr u.lanes 3 + BitVec.ofNat 64 (4 * i)) 4
    .ok (s, .data (BitVec.ofNat 32 (leNat bs)))

/-- The address of the element that an index names. -/
def unitAddr (d : List W32) (w : W32) : W64 := daddr d 5 + w.setWidth 64 * (dlane d 7).setWidth 64

/-- Whether an index is out of range (R354 LIMIT). -/
def outOfRange (d : List W32) (w : W32) : Bool := dlane d 8 != 0 && (dlane d 8).ule w

/-- An element extended to 32 bits (R354 SX, R355). -/
def extend (d : List W32) (bs : List Byte) : W32 :=
  let w := BitVec.ofNat (8 * bs.length) (leNat bs)
  if unitSx d then w.signExtend 32 else w.setWidth 32

/-! ### GATHER_DELIVERY (R355, R356, R363) -/

/-- Element `i` of a gather as a lane, and whether it could not be reached. -/
def gatherElem (s : State) (die id : Nat) (u : UnitCmd) (i : Nat) : Except EngineStop (State × Lane × Bool) :=
  match unitIndex s die id u i with
  | .error .unreachable => .ok (s, .err 6, true)
  | .error e => .error e
  | .ok (s, .null) => .ok (s, .null, false)
  | .ok (s, .err _) => .ok (s, .err 6, false)
  | .ok (s, .data w) =>
    if outOfRange u.lanes w then .ok (s, .null, false)
    else
      match unitRead s die id u (unitAddr u.lanes w) (unitSize u.lanes) with
      | .ok (s, bs) => .ok (s, .data (extend u.lanes bs), false)
      | .error .unreachable => .ok (s, .err 6, true)
      | .error e => .error e

/-- The token of the lanes gathered, with its number (R355, R363). -/
def gatherToken (u : UnitCmd) (ls : List Lane) (number : Nat) : Token :=
  { route := bits (dlane u.lanes 0) 0 10, seq := BitVec.ofNat 12 (unitSeq u.lanes + number), fmt := unitFmt u.lanes,
    pay := if unitVec u.lanes then .vector (Vector.ofFn fun i => ls[i.val]?.getD .null) else .scalar (ls.headD .null) }

/-- An END of a unit; its sequence tag is a free value (log 26). -/
def unitEnd (s : State) (u : UnitCmd) (count : Nat) : Token :=
  { route := bits (dlane u.lanes 0) 0 10, seq := freeSeq s 7, fmt := .int32, pay := .control .endc (BitVec.ofNat 32 count) }

/-- Tokens leave a unit one by one (R19, R362). -/
def unitSend (s : State) (die id : Nat) (u : UnitCmd) (ts : List Token) : State :=
  push (setUnit s die id { u with out := ts }) (.tokenArrival (.unit die id) false)

/-- A command completes: its destination receives the result; without one, an element that could not be reached is the launch's error
(R355 to R358). -/
def finishUnit (s : State) (die id : Nat) (u : UnitCmd) (x : Scalar) : State :=
  let s := dropUnit s die id
  match u.producer with
  | some _ => giveScalar s u.issuer u.producer x
  | none => if u.unreach then engineUnreachable s u.issuer.launch else s

/-- The counts that a gather or scatter returns (R355, R357). -/
def UnitCmd.counts (u : UnitCmd) : Scalar :=
  .data (BitVec.ofNat 64 (u.done % 2 ^ 32 + u.skipped % 2 ^ 24 * 2 ^ 32 + (if u.unreach then 2 ^ 63 else 0)))

/-- A command after one gathered element. -/
def UnitCmd.took (u : UnitCmd) (l : Lane) (unreach : Bool) : UnitCmd :=
  { u with next := u.next + 1, gathered := u.gathered ++ [l], done := u.done + (if Lane.isData l then 1 else 0),
           skipped := u.skipped + (if Lane.isNull l then 1 else 0), unreach := u.unreach || unreach }

/-- GATHER_DELIVERY (R355, R356): the next element is fetched; a full token, and at the end the END of FIN, is sent; once all are accepted
the command completes. -/
def execGatherDelivery (die id : Nat) (s : State) : Host.Outcome State Fault Refusal :=
  .next (match unitOf s die id with
    | none => s
    | some u =>
      if u.kind ≠ .gather ∨ u.out ≠ [] then s
      else if u.next < unitN u.lanes then
        match gatherElem s die id u u.next with
        | .error (.hold t) => t
        | .error (.fault t va) => holdUnit t die id u va
        | .error (.gone t) => dropUnit t die id
        | .error .unreachable => s
        | .ok (t, l, far) =>
          let v := u.took l far
          let per := if unitVec u.lanes then 64 else 1
          if v.next % per = 0 ∨ v.next = unitN u.lanes then
            unitSend t die id { v with gathered := [] } [gatherToken u v.gathered (u.next / per)]
          else setUnit t die id v
      else if u.fin then unitSend s die id { u with fin := false } [unitEnd s u (unitN u.lanes)]
      else finishUnit s die id u u.counts)

/-! ### SCATTER_WRITE (R357) -/

/-- A command after one element of a scatter. -/
def UnitCmd.wrote (u : UnitCmd) (ok unreach : Bool) : UnitCmd :=
  { u with next := u.next + 1, done := u.done + (if ok then 1 else 0), skipped := u.skipped + (if ok then 0 else 1),
           unreach := u.unreach || unreach }

/-- SCATTER_WRITE (R357): the next element in order is written or skipped; after the last the command completes. -/
def execScatterWrite (die id : Nat) (s : State) : Host.Outcome State Fault Refusal :=
  .next (match unitOf s die id with
    | none => s
    | some u =>
      if u.kind ≠ .scatter then s
      else if u.next ≥ unitN u.lanes then finishUnit s die id u u.counts
      else
        let skip (s : State) (far : Bool) : State := setUnit s die id (u.wrote false far)
        match (u.value.bind fun ls => (ls.toList)[u.next]?).getD .null with
        | .data x =>
          match unitIndex s die id u u.next with
          | .error (.hold t) => t
          | .error (.fault t va) => holdUnit t die id u va
          | .error (.gone t) => dropUnit t die id
          | .error .unreachable => skip s true
          | .ok (t, .data w) =>
            if outOfRange u.lanes w then skip t false
            else
              match unitWrite t die id u (unitAddr u.lanes w) (leBytes (unitSize u.lanes) x.toNat) with
              | .ok v => setUnit v die id (u.wrote true false)
              | .error (.hold v) => v
              | .error (.fault v va) => holdUnit v die id u va
              | .error (.gone v) => dropUnit v die id
              | .error .unreachable => skip t true
          | .ok (t, _) => skip t false
        | _ => skip s false)

/-! ### ISECT_RESULT (R358) -/

/-- The positions of the set bits of a word, rising. -/
def positions (m : W64) : List Nat := (List.range 64).filter fun i => bit m i

/-- The number of set bits below a position. -/
def rankBelow (w : W64) (k : Nat) : Nat := ((List.range k).filter fun i => bit w i).length

/-- The index tokens of an intersection (R358). -/
def isectTokens (d : List W32) (a b : W64) : List Token :=
  let m := a &&& b
  let ks := positions m
  let seq := BitVec.ofNat 12 (field (dlane d 7) 0 12)
  let route := bits (dlane d 0) 0 10
  let vec (base : W32) (w : W64) : Vector Lane 64 := Vector.ofFn fun j =>
    match ks[j.val]? with
    | some k => .data (base + BitVec.ofNat 32 (rankBelow w k))
    | none => .null
  if m = 0 then [{ route := route, seq := seq, fmt := .idx, pay := .scalar .null }]
  else [{ route := route, seq := seq, fmt := .idx, pay := .vector (vec (dlane d 5) a) },
        { route := route, seq := seq + 1, fmt := .idx, pay := .vector (vec (dlane d 6) b) }]

/-- The token that stands for words that cannot be read (R358). -/
def isectError (d : List W32) : Token :=
  { route := bits (dlane d 0) 0 10, seq := BitVec.ofNat 12 (field (dlane d 7) 0 12), fmt := .idx, pay := .scalar (.err 6) }

/-- Both bitmap words. -/
def isectWords (s : State) (die id : Nat) (u : UnitCmd) : Except EngineStop (State × W64 × W64) := do
  let (s, a) ← unitRead s die id u (daddr u.lanes 1) 8
  let (s, b) ← unitRead s die id u (daddr u.lanes 3) 8
  .ok (s, le64 a, le64 b)

/-- ISECT_RESULT (R358): both words are read and the tokens sent; once they are accepted the command completes. -/
def execIsectResult (die id : Nat) (s : State) : Host.Outcome State Fault Refusal :=
  .next (match unitOf s die id with
    | none => s
    | some u =>
      if u.kind ≠ .isect ∨ u.out ≠ [] then s
      else if u.next = 0 then
        let ends (n : Nat) : List Token := if u.fin then [unitEnd s u n] else []
        match isectWords s die id u with
        | .ok (t, a, b) =>
          unitSend t die id { u with next := 1, result := .data (a &&& b) } (isectTokens u.lanes a b ++ ends (positions (a &&& b)).length)
        | .error (.hold t) => t
        | .error (.fault t va) => holdUnit t die id u va
        | .error (.gone t) => dropUnit t die id
        | .error .unreachable => unitSend s die id { u with next := 1, result := .err 6, unreach := true } ([isectError u.lanes] ++ ends 0)
      else finishUnit s die id u u.result)

end Sys2Proof.Machine
end

