-- ==== Sys2Proof/Machine/Stream.lean ====
section
/-! DEFINITION. L2 stream programs (R192, R193). -/

namespace Sys2Proof.Machine

/-- A stream program that is not configured. -/
def Stream.init : Stream :=
  { owner := none, fmt := .int32, vec := false, needToken := false, started := false, finished := false, endLevel := none, base := 0,
    route := 0, dims := [], next := 0, seq := none, inbox := [], out := [], halted := false, lastArrive := 0, lastFire := 0 }

/-- A stream program of a die. -/
def streamOf (s : State) (die slot : Nat) : Stream := Tab.get Stream.init (dieOf s die).streams slot

/-- The state with a stream program replaced. -/
def setStream (s : State) (die slot : Nat) (x : Stream) : State := setDie s die { dieOf s die with streams := Tab.put (dieOf s die).streams slot x }

/-- The number of elements. -/
def Stream.total (x : Stream) : Nat := x.dims.foldl (fun n (c, _) => n * c) 1

/-- The offset of element `n` over levels given innermost first (R192). -/
def streamOffset : List (Nat × Int) → Nat → Int
  | [], _ => 0
  | (c, st) :: r, n => (n % c : Nat) * st + streamOffset r (n / c)

/-- The address of element `n` (R192). -/
def Stream.addr (x : Stream) (n : Nat) : W64 := x.base + BitVec.ofInt 64 (streamOffset x.dims.reverse n)

/-- The number of elements in one pass of a level counted from the innermost (R192). -/
def Stream.passSize (x : Stream) (level : Nat) : Nat := (x.dims.reverse.take (level + 1)).foldl (fun n (c, _) => n * c) 1

/-- The core to whose ring a stream program reports its faults: that of the site which forwards its configuration (R136, R272). -/
def streamCore (s : State) (x : Stream) : Nat :=
  match x.owner with
  | some (o, _) => ((regionOf s o.launch o.region).map fun g => (siteAt g o.x o.y).core).getD 0
  | none => 0

/-- Bytes of one line that a stream program reads at their home, a stream port to which the line is delivered (R193, R277). -/
def streamRead (s : State) (die slot : Nat) (x : Stream) (va : W64) (n : Nat) : Except EngineStop (State × List Byte) :=
  let launch := (x.owner.map (·.1.launch)).getD 0
  let node : NodeRef := { kind := .stream, home := die, idx := slot }
  let f := nodeFault s (streamCore s x) launch ((x.owner.map (·.2)).getD 0)
  let space := (launchOf s launch).space
  if !unitReach va then
    .error (if (launchOf s launch).killed then .gone s else .fault (reportFault s { f with va := va, gen := spaceGen s die space }) va)
  else
    match engineTranslate s die (.engine node) (some node) space va false f with
    | .error e => .error e
    | .ok pa => (placeRead s launch die pa n).map fun (t, bs) => (hotCount t die space va, bs)

/-- An element: 4 bytes, or 256 in two lines (R192). -/
def streamFetch (s : State) (die slot : Nat) (x : Stream) : Except EngineStop (State × Payload) :=
  let va := x.addr x.next
  if x.vec then do
    let (s, a) ← streamRead s die slot x va 128
    let (s, b) ← streamRead s die slot x (va + 128) 128
    let bs := a ++ b
    .ok (s, .vector (Vector.ofFn fun i => .data (BitVec.ofNat 32 (leNat ((bs.drop (4 * i.val)).take 4)))))
  else do
    let (s, bs) ← streamRead s die slot x va 4
    .ok (s, .scalar (.data (BitVec.ofNat 32 (leNat bs))))

/-- The tokens of an element: the element, and END with the pass's size after the last of a pass (R192). -/
def Stream.tokens (x : Stream) (pay : Payload) (seq : BitVec 12) : List Token :=
  let route := bits x.route 0 10
  { route := route, seq := seq, fmt := x.fmt, pay := pay } ::
    (match x.endLevel with
     | some l =>
       if (x.next + 1) % x.passSize l = 0 then
         [{ route := route, seq := seq, fmt := .int32, pay := .control .endc (BitVec.ofNat 32 (x.passSize l)) }]
       else []
     | none => [])

/-- STREAM_ELEMENT (R192, R193): the program takes its start token, or reads its next element and sends it; after the last it is finished.
The sequence tag is the start token's (R78), or a free value (log 26). -/
def execStreamElement (die slot : Nat) (s : State) : Host.Outcome State Fault Refusal :=
  let x := streamOf s die slot
  .next (
    if x.finished || !x.out.isEmpty then s
    else if x.needToken && !x.started then
      match x.inbox with
      | (t, at') :: r => setStream s die slot { x with inbox := r, started := true, seq := some t.seq, lastArrive := at' }
      | [] => s
    else if x.next ≥ x.total then setStream s die slot { x with finished := true }
    else
      match streamFetch s die slot x with
      | .error (.hold t) => t
      | .error (.fault t _) => t
      | .error (.gone t) => setStream t die slot { x with finished := true }
      | .error .unreachable => setStream (engineUnreachable s ((x.owner.map (·.1.launch)).getD 0)) die slot { x with finished := true }
      | .ok (t, pay) =>
        let y := { x with started := true, next := x.next + 1, out := x.tokens pay (x.seq.getD (freeSeq s 5)), lastFire := s.time }
        push (setStream t die slot y) (.tokenArrival (.node { kind := .stream, home := die, idx := slot }) false))

end Sys2Proof.Machine
end

