-- ==== Sys2Proof/Machine/Movement.lean ====
section
/-! DEFINITION. Major 0x25: moving lanes, reductions and scans (R173 to R177). -/

namespace Sys2Proof.Machine

/-- A lane index, in range (R175): all 64 bits of the x field are compared with 64, as R143 reads a scalar in majors 0x00 to 0x02 (DESIGN CHOICE,
log 134: R175 does not say whether k is 32 or 64 bits of a scalar register). -/
def laneIndex : Scalar → Option (Fin 64)
  | .data w => if h : w.toNat < 64 then some ⟨w.toNat, h⟩ else none
  | _ => none

/-- The bits of a predicate as a list of lanes. -/
def activeLanes (mask : W64) : List (Fin 64) := (List.finRange 64).filter fun i => bit mask i

/-- An instruction of major 0x25 that writes lanes, without tag checks (R164). -/
def moveOp (o : Operands) (s : State) (f : W64 → W64 × Vector Lane 64) : Host.Outcome State Fault Refusal :=
  issue Places.sites o s do
    ready s o
    let (written, ls) := f (predBits (thread s).regs (Mod.pred o.mod))
    .ok (retire (writeVector (consumeAll s o) o.dst .int32 written ls))

/-- VMOV (R175). -/
def execVmov (o : Operands) (s : State) : Host.Outcome State Fault Refusal :=
  moveOp o s fun mask => (mask, vectorOf s o.a)

/-- VBCAST (R175): an index out of range gives Error(6). -/
def execVbcast (o : Operands) (s : State) : Host.Outcome State Fault Refusal :=
  moveOp o s fun mask =>
    (mask, Vector.replicate 64 (match laneIndex (scalarOf s o.b) with | some k => (vectorOf s o.a).get k | none => .err 6))

/-- VINS (R175): lane k, if it is active and in range. -/
def execVins (o : Operands) (s : State) : Host.Outcome State Fault Refusal :=
  moveOp o s fun mask =>
    (match laneIndex (scalarOf s o.b) with | some k => mask &&& ((1 : W64) <<< k.val) | none => 0,
     Vector.replicate 64 (Scalar.toLane (scalarOf s o.a)))

/-- VEXT (R175): its predicate is tested on bit 0. -/
def execVext (o : Operands) (s : State) : Host.Outcome State Fault Refusal :=
  issue Places.sites o s (predicated s (Mod.pred o.mod) do
    ready s o
    let r : Scalar := match laneIndex (scalarOf s o.b) with
      | some k => Lane.toScalar true ((vectorOf s o.a).get k)
      | none => .err 6
    .ok (retire (writeScalar (consumeAll s o) o.dst .int32 r)))

/-- One lane of VSHUF (R175). -/
def shufLane (a : Vector Lane 64) : Lane → Lane
  | .data w => if h : w.toNat < 64 then a.get ⟨w.toNat, h⟩ else .err 6
  | x => x

/-- VSHUF (R175). -/
def execVshuf (o : Operands) (s : State) : Host.Outcome State Fault Refusal :=
  moveOp o s fun mask =>
    let a := vectorOf s o.a
    let b := vectorOf s o.b
    (mask, Vector.ofFn fun i => shufLane a (b.get i))

/-- VCOMP (R175): the active lanes fill d from lane 0, and every other lane is null. -/
def execVcomp (o : Operands) (s : State) : Host.Outcome State Fault Refusal :=
  moveOp o s fun mask =>
    let a := vectorOf s o.a
    let kept := (activeLanes mask).map fun i => a.get i
    (BitVec.allOnes 64, Vector.ofFn fun i => kept[i.val]?.getD .null)

/-- The number of active lanes below a lane (R175). -/
def activeBelow (mask : W64) (i : Nat) : Nat := ((List.range i).filter fun j => bit mask j).length

/-- VEXP (R175). -/
def execVexp (o : Operands) (s : State) : Host.Outcome State Fault Refusal :=
  moveOp o s fun mask =>
    let a := (vectorOf s o.a).toList
    (mask, Vector.ofFn fun i => a[activeBelow mask i.val]?.getD .null)

/-- VIOTA (R175): the marks of both scalars apply to every lane (R87). -/
def execViota (o : Operands) (s : State) : Host.Outcome State Fault Refusal :=
  moveOp o s fun mask =>
    let a := scalarOf s o.a
    let b := scalarOf s o.b
    (mask, Vector.ofFn fun i =>
      Lane.combine [Scalar.toLane a, Scalar.toLane b]
        (.data (BitVec.ofNat 32 ((Scalar.pattern a).toNat + i.val * (Scalar.pattern b).toNat))))

/-- VPOPC (R175). -/
def execVpopc (o : Operands) (s : State) : Host.Outcome State Fault Refusal :=
  moveOp o s fun mask => (mask, lanesBy [vectorOf s o.a] fun ws => .data (BitVec.ofNat 32 (popcount (at0 0 ws))))

/-! ### The control word of VRED, VSCAN and VAMAX (R173) -/

/-- The operations of VRED and VSCAN (R173). -/
inductive RedOp where
  | add | min | max | and | or | xor
  deriving DecidableEq, Repr

/-- The operation of a code (R173); 6 and 7 are rejected when the word is decoded. -/
def RedOp.ofCode : Nat → RedOp
  | 0 => .add
  | 1 => .min
  | 2 => .max
  | 3 => .and
  | 4 => .or
  | _ => .xor

/-- OP of a control word (R173). -/
def ctlOp (w : W32) : RedOp := RedOp.ofCode (field w 4 3)
/-- EXCL of a control word (R173). -/
def ctlExcl (w : W32) : Bool := bit w 8
/-- TYPE of a control word (R173). -/
def ctlType (w : W32) : Fmt := Fmt.ofCode (field w 0 3)

/-- Whether a format is FP32 or BF16. -/
def Fmt.isFp : Fmt → Bool
  | .fp32 => true
  | .bf16 => true
  | _ => false

/-- A step of a floating-point reduction, in FP32 (R176). -/
def stepFp (op : RedOp) (m : Rounding) (a b : Val) : Val :=
  match op with
  | .min => Val.minV a b
  | .max => Val.maxV a b
  | _ => f32Val (roundF32 m (Val.add m a b))

/-- The identity of a floating-point operation (R85). -/
def idFp : RedOp → Val
  | .min => .inf false
  | .max => .inf true
  | _ => .fin false 0 0

/-- A step of an integer reduction, exact (R176): and, or and xor act on the two's-complement patterns. -/
def stepInt (op : RedOp) (a b : Int) : Int :=
  let bw (f : W64 → W64 → W64) : Int := (f (BitVec.ofInt 64 a) (BitVec.ofInt 64 b)).toInt
  match op with
  | .add => a + b
  | .min => min a b
  | .max => max a b
  | .and => bw fun x y => x &&& y
  | .or => bw fun x y => x ||| y
  | .xor => bw fun x y => x ^^^ y

/-- The identity of an integer operation on elements of `w` bits (R85). -/
def idInt (op : RedOp) (w : Nat) : Int :=
  match op with
  | .min => 2 ^ (w - 1) - 1
  | .max => -(2 ^ (w - 1))
  | .and => -1
  | _ => 0

/-- One level of the pairwise tree (R176). -/
def treeLevel {α : Type} (f : α → α → α) : List α → List α
  | a :: b :: r => f a b :: treeLevel f r
  | l => l

/-- The pairwise tree, `n` levels deep (R176). -/
def tree {α : Type} (f : α → α → α) : Nat → List α → List α
  | 0, l => l
  | n + 1, l => tree f n (treeLevel f l)

/-- The value of an element of an active data lane, or the identity (R176). -/
def redElems {α : Type} (f : Fmt) (mask : W64) (ls : Vector Lane 64) (value : W32 → α) (id : α) : List α :=
  (List.range (64 * f.perLane)).map fun k =>
    let e := elemAt f ls k
    match e.mark with
    | .data _ => if bit mask e.lane then value e.pattern else id
    | _ => id

/-- The signed value of an integer element. -/
def intValue (f : Fmt) (x : W32) : Int := if f == .int8 then (x.setWidth 8).toInt else x.toInt

/-- The lanes of a mask in order. -/
def activeOf (mask : W64) (ls : Vector Lane 64) : List Lane := (activeLanes mask).map fun i => ls.get i

/-- The result of VRED as data (R176). -/
def redValue (op : RedOp) (f : Fmt) (m : Rounding) (sat : Bool) (mask : W64) (ls : Vector Lane 64) : W64 :=
  if Fmt.isFp f then
    let x := (tree (stepFp op m) 8 (redElems f mask ls (Fmt.value f) (idFp op))).headD .nan
    (roundF32 .rne x).setWidth 64
  else
    let x := (tree (stepInt op) 8 (redElems f mask ls (intValue f) (idInt op (Fmt.elemBits f)))).headD 0
    if op = .add then (satOrWrap 32 sat x).signExtend 64
    else if f == .int8 && (op == .and || op == .or || op == .xor) then (BitVec.ofInt 8 x).setWidth 64
    else (BitVec.ofInt 32 x).signExtend 64

/-- The scalar of a reduction: an active error lane, no active data lane, or the value (R176, R177). -/
def redScalar (mask : W64) (ls : Vector Lane 64) (value : W64) : Scalar :=
  let act := activeOf mask ls
  match Lane.firstErr act with
  | some c => .err c
  | none => if act.any Lane.isData then .data value else .null

/-- A reduction to a scalar, with its checks (R164, R166). -/
def redOp (o : Operands) (s : State) (out : Fmt) (value : W64 → Vector Lane 64 → W64) : Host.Outcome State Fault Refusal :=
  issue Places.sites o s do
    let mask := predBits (thread s).regs (Mod.pred o.mod)
    let ty := ctlType (Field.control o.c)
    vecReady s o (fieldsA o) (fun _ => [ty]) (ty == .fp32) mask
    let ls := vectorOf s o.a
    .ok (retire (writeScalar (consumeAll s o) o.dst out (redScalar mask ls (value mask ls))))

/-- VRED (R176). -/
def execVred (o : Operands) (s : State) : Host.Outcome State Fault Refusal :=
  let w := Field.control o.c
  redOp o s (if Fmt.isFp (ctlType w) then .fp32 else .int32)
    fun mask ls => redValue (ctlOp w) (ctlType w) (Mod.rounding o.mod) (Mod.sat o.mod) mask ls

/-- VSCAN over lanes in order (R177): `acc` the exact accumulator, `bad` the code of an error met. -/
def scanLanes {α : Type} (step : α → α → α) (value : W32 → α) (out : α → W32) (excl : Bool) (mask : W64) :
    List (Nat × Lane) → α → Option (BitVec 4) → List Lane
  | [], _, _ => []
  | (i, l) :: r, acc, bad =>
    if bit mask i then
      match bad, l with
      | some c, _ => .err c :: scanLanes step value out excl mask r acc (some c)
      | none, .err c => .err c :: scanLanes step value out excl mask r acc (some c)
      | none, .null => .null :: scanLanes step value out excl mask r acc none
      | none, .data w =>
        let next := step acc (value w)
        .data (out (if excl then acc else next)) :: scanLanes step value out excl mask r next none
    else .null :: scanLanes step value out excl mask r acc bad

/-- The lanes of a scan. -/
def scanVector {α : Type} (step : α → α → α) (value : W32 → α) (out : α → W32) (excl : Bool) (mask : W64) (ls : Vector Lane 64)
    (id : α) : Vector Lane 64 :=
  let r := scanLanes step value out excl mask ((List.finRange 64).map fun i => (i.val, ls.get i)) id none
  Vector.ofFn fun i => r[i.val]?.getD .null

/-- The lanes of VSCAN (R177). -/
def vscan (op : RedOp) (f : Fmt) (m : Rounding) (sat excl : Bool) (mask : W64) (ls : Vector Lane 64) : Vector Lane 64 :=
  if Fmt.isFp f then scanVector (stepFp op m) (Fmt.value f) (roundF32 .rne) excl mask ls (idFp op)
  else scanVector (stepInt op) (intValue f)
    (fun x => if op = .add then satOrWrap 32 sat x else BitVec.ofInt 32 x) excl mask ls (idInt op 32)

/-- VSCAN (R177). -/
def execVscan (o : Operands) (s : State) : Host.Outcome State Fault Refusal :=
  issue Places.sites o s do
    let mask := predBits (thread s).regs (Mod.pred o.mod)
    let w := Field.control o.c
    let ty := ctlType w
    vecReady s o (fieldsA o) (fun _ => [ty]) (ty == .fp32) mask
    let r := vscan (ctlOp w) ty (Mod.rounding o.mod) (Mod.sat o.mod) (ctlExcl w) mask (vectorOf s o.a)
    .ok (retire (writeVector (consumeAll s o) o.dst ty mask r))

/-- VPFX (R177): the exclusive integer scan of the popcounts; it checks no tag (R164). -/
def execVpfx (o : Operands) (s : State) : Host.Outcome State Fault Refusal :=
  moveOp o s fun mask =>
    (mask, scanVector (stepInt .add) (fun w => (popcount w : Int)) (BitVec.ofInt 32) true mask (vectorOf s o.a) 0)

/-- The largest magnitude of active data elements, as BF16 under RUP; a NaN element gives the canonical NaN (R177). -/
def amax (f : Fmt) (mask : W64) (ls : Vector Lane 64) : W64 :=
  let xs := redElems f mask ls (fun w => Val.abs (Fmt.value f w)) (.fin false 0 0)
  (roundBF16 .rup (xs.foldl Val.maxV (.fin false 0 0))).setWidth 64

/-- VAMAX (R177). -/
def execVamax (o : Operands) (s : State) : Host.Outcome State Fault Refusal :=
  redOp o s .bf16 fun mask ls => amax (ctlType (Field.control o.c)) mask ls

end Sys2Proof.Machine
end

