-- ==== Sys2Proof/Machine/TokenOps.lean ====
section
/-! DEFINITION. Majors 0x26 and 0x27: tokens, and tile predicates (R178 to R184). -/

namespace Sys2Proof.Machine

/-! ### Token headers (R78, R80) -/

/-- CODE of a token: the code of its lowest error lane, or its control subkind (R78, R80). -/
def Token.code (t : Token) : Nat :=
  match t.pay with
  | .scalar (.err c) => c.toNat
  | .scalar _ => 0
  | .vector ls => ((Lane.firstErr ls.toList).map (·.toNat)).getD 0
  | .control k _ => (match k with | .endc => 0 | .thresh => 1 | .mark => 2 | .cfg => 3 | .cmd => 4 | .reserved c => c.toNat)

/-- The header without its parity bit. -/
def Token.headerBits (t : Token) : W32 :=
  BitVec.ofNat 32 (t.route.toNat * 2 ^ 22 + t.seq.toNat * 2 ^ 10 + Fmt.code t.fmt * 128 + Token.kind t * 32 + Token.code t * 2)

/-- The header of a token: PAR makes the number of ones even (R78). -/
def Token.header (t : Token) : W32 :=
  let h := Token.headerBits t
  if popcount h % 2 = 1 then h ||| 1 else h

/-- Whether a token is a vector token (R79). -/
def Token.isVector (t : Token) : Bool :=
  match t.pay with
  | .vector _ => true
  | _ => false

/-! ### Sending (R179 to R181) -/

/-- OUT of a send word (R179). -/
def sendOut (w : W32) : Fin 16 := ⟨field w 4 4, by unfold field; omega⟩

/-- The sequence tag that SQ and field B give (R179). -/
def sendSeq (s : State) (o : Operands) : Option (BitVec 12) :=
  if bit (Field.control o.c) 8 then some (bits (Scalar.pattern (scalarOf s o.b)) 0 12) else none

/-- A sending instruction (R178, R180): the channel's route first, then the sources, then room in the send buffer. -/
def sendOp (o : Operands) (s : State) (fmt : Fmt) (pay : Payload) : Host.Outcome State Fault Refusal :=
  issue Places.sites o s (predicated s (Mod.pred o.mod) do
    let out := sendOut (Field.control o.c)
    routeOk s out
    available s (fieldsAB o)
    sendRoom s out
    .ok (retire (sendToken (consumeAll s o) out fmt pay (sendSeq s o))))

/-- What SEND sends of field A: the lanes of a vector register or vector token, or else a scalar (R181). -/
def sendPayload (s : State) (f : Field) : Payload :=
  match f with
  | .src x =>
    match x.reg with
    | .v _ => .vector (vectorOf s f)
    | .c i =>
      match headToken s i with
      | some t => if Token.isVector t then .vector (vectorOf s f) else .scalar (Scalar.toLane (scalarOf s f))
      | none => .scalar .null
    | _ => .scalar (Scalar.toLane (scalarOf s f))
  | _ => .scalar (Scalar.toLane (scalarOf s f))

/-- SEND (R181). -/
def execSend (o : Operands) (s : State) : Host.Outcome State Fault Refusal :=
  sendOp o s (Fmt.ofCode (field (Field.control o.c) 0 3)) (sendPayload s o.a)

/-- SENDN (R180): a null token, scalar or vector by VEC. -/
def execSendn (o : Operands) (s : State) : Host.Outcome State Fault Refusal :=
  sendOp o s (Fmt.ofCode (field (Field.control o.c) 0 3))
    (if bit (Field.control o.c) 9 then .vector (Vector.replicate 64 .null) else .scalar .null)

/-- SENDE (R180): END with its count; a source that is not data sends 0. -/
def execSende (o : Operands) (s : State) : Host.Outcome State Fault Refusal :=
  sendOp o s .int32 (.control .endc (match scalarOf s o.a with | .data w => bits w 0 32 | _ => 0))

/-! ### Looking at channels (R180) -/

/-- The channel of field A and its head token, once one is there. -/
def headOf (s : State) (o : Operands) : Except Stop Token :=
  match (Field.chan o.a).bind (headToken s) with
  | some t => .ok t
  | none => illop

/-- PEEK (R180): the head token as a read would supply it; the token stays. -/
def execPeek (o : Operands) (s : State) : Host.Outcome State Fault Refusal :=
  issue Places.sites o s (predicated s (Mod.pred o.mod) do
    ready s o
    let t ← headOf s o
    .ok (retire (match o.dst with
      | .s i => produce s o.dst (.scalar i (Token.scalar t))
      | .v i => produce s o.dst (.vector i (Token.vector t))
      | _ => s)))

/-- DROP (R180): the head token is consumed and discarded. -/
def execDrop (o : Operands) (s : State) : Host.Outcome State Fault Refusal :=
  issue Places.sites o s (predicated s (Mod.pred o.mod) do
    ready s o
    .ok (retire (consumeAll s o)))

/-- TKIND (R180): the header of the head token, with bit 32 set for a vector token; the token stays. -/
def execTkind (o : Operands) (s : State) : Host.Outcome State Fault Refusal :=
  issue Places.sites o s (predicated s (Mod.pred o.mod) do
    ready s o
    let t ← headOf s o
    let h : W64 := (Token.header t).setWidth 64
    .ok (retire (produceS s o.dst (.data (if Token.isVector t then h ||| 0x100000000 else h)))))

/-! ### Tile predicates (R183) -/

/-- Whether sub-tile (r, c) lies in the rectangle that a names (R183). -/
def inRect (a : W64) (r c : Nat) : Bool :=
  decide (field a 0 3 ≤ r) && decide (r ≤ field a 3 3) && decide (field a 8 3 ≤ c) && decide (c ≤ field a 11 3)

/-- The bits of the rectangle that a scalar names; one that is not data names none (R183). -/
def rectMask : Scalar → W64
  | .data a => (List.range 64).foldl (fun m i => if inRect a (i / 8) (i % 8) then m ||| ((1 : W64) <<< i) else m) 0
  | _ => 0

/-- An instruction that writes a predicate register whole or under a mask, its predicate tested on bit 0 (R183). -/
def tileOp (o : Operands) (s : State) (mask value : W64) : Host.Outcome State Fault Refusal :=
  issue Places.sites o s (predicated s (Mod.pred o.mod) do
    ready s o
    .ok (retire (writePred (consumeAll s o) o.dst mask value)))

/-- QSET (R183). -/
def execQset (o : Operands) (s : State) : Host.Outcome State Fault Refusal :=
  tileOp o s (rectMask (scalarOf s o.a)) (BitVec.allOnes 64)
/-- QCLR (R183). -/
def execQclr (o : Operands) (s : State) : Host.Outcome State Fault Refusal :=
  tileOp o s (rectMask (scalarOf s o.a)) 0

/-- The bit that QTEST reads (R183). -/
def qtestBit : Scalar → Scalar → Bool
  | .data a, .data b => decide (b.toNat < 64) && bit a b.toNat
  | _, _ => false

/-- QTEST (R183). -/
def execQtest (o : Operands) (s : State) : Host.Outcome State Fault Refusal :=
  tileOp o s (BitVec.allOnes 64) (if qtestBit (scalarOf s o.a) (scalarOf s o.b) then BitVec.allOnes 64 else 0)
/-- QZERO (R183). -/
def execQzero (o : Operands) (s : State) : Host.Outcome State Fault Refusal := tileOp o s (BitVec.allOnes 64) 0

end Sys2Proof.Machine
end

