-- ==== Sys2Proof/Machine/Arrival.lean ====
section
/-! DEFINITION. Tokens in flight, their acceptance and refusal, and the token nodes (R19, R72, R83 to R85, R124 to R129). -/

namespace Sys2Proof.Machine

/-! ### Senders -/

/-- A token at the head of a sender: the token, its route word, and the region that it belongs to. -/
structure Outgoing where
  token : Token
  route : W32
  owner : Owner

/-- The head token of a list with its route and owner. -/
def outgoing (ts : List Token) (route : Option W32) (o : Option Owner) : Option Outgoing :=
  match ts, route, o with
  | t :: _, some r, some w => some { token := t, route := r, owner := w }
  | _, _, _ => none

/-- The token that a sender offers next. -/
def headOut (s : State) : Sender → Option Outgoing
  | .chan k o =>
    let x := siteOf s k
    let c := (x.outs.toList)[o]?.getD OutChan.empty
    outgoing c.send c.route x.owner
  | .node n =>
    match n.kind with
    | .acc => let x := accOf s n.home n.idx; outgoing x.out (some x.route) (x.owner.map (·.1))
    | .topk => let x := topkOf s n.home n.idx; outgoing x.out (some x.route) (x.owner.map (·.1))
    | .stream => let x := streamOf s n.home n.idx; outgoing x.out (some x.route) (x.owner.map (·.1))
    | _ => none
  | .unit die id =>
    match unitOf s die id with
    | some u =>
      let r := u.issuer
      outgoing u.out (some (dlane u.lanes 0)) (some { launch := r.launch, region := r.region, x := r.x, y := r.y })
    | none => none

/-- A node's tokens still to go: the next one is offered. -/
def nextOut (s : State) (src : Sender) (rest : List Token) : State := if rest.isEmpty then s else push s (.tokenArrival src false)

/-- The sender's slot is free (R125). An accumulator's release is over with its last token (R292, R327). -/
def popOut (s : State) (src : Sender) : State :=
  match src with
  | .chan k o =>
    let x := siteOf s k
    let c := (x.outs.toList)[o]?.getD OutChan.empty
    setSite s k { x with outs := x.outs.setIfInBounds o { c with send := c.send.drop 1 } }
  | .node n =>
    match n.kind with
    | .acc =>
      let x := accOf s n.home n.idx
      let r := x.out.drop 1
      let y := if r.isEmpty && x.releasing then Acc.released { x with out := r } else { x with out := r }
      nextOut (setAcc s n.home n.idx y) src r
    | .topk =>
      let x := topkOf s n.home n.idx
      nextOut (setTopk s n.home n.idx { x with out := x.out.drop 1 }) src (x.out.drop 1)
    | .stream =>
      let x := streamOf s n.home n.idx
      nextOut (setStream s n.home n.idx { x with out := x.out.drop 1 }) src (x.out.drop 1)
    | _ => s
  | .unit die id =>
    match unitOf s die id with
    | some u => nextOut (setUnit s die id { u with out := u.out.drop 1 }) src (u.out.drop 1)
    | none => s

/-! ### Receivers -/

/-- An error token in a token's shape, all lanes of one code (R80, R83). -/
def Payload.allErr (code : BitVec 4) : Payload → Payload
  | .vector _ => .vector (Vector.replicate 64 (.err code))
  | _ => .scalar (.err code)

/-- Whether a token carries a reserved error code, or is a control token of a reserved subkind (R82, R84). -/
def Token.reserved (t : Token) : Bool :=
  (Token.kind t == 2 && decide (8 ≤ Token.code t)) || (Token.kind t == 3 && decide (5 ≤ Token.code t))

/-- A token as a site or node receives it: one with a reserved error code or subkind counts as an error token with code 7 (R84). -/
def Token.received (t : Token) : Token := if Token.reserved t then { t with pay := Payload.allErr 7 t.pay } else t

/-- The RAS record of a reserved code (R84, R452). -/
def reservedSeen (s : State) (core : Nat) (cnode : W32) (launch : Nat) (t : Token) : State :=
  if Token.reserved t then rasRecord s 9 0 (core / 4) core cnode launch 0 else s

/-- A token into a site's input channel, if a slot is free (R31, R32, R124, R125): waiting tasks wake, and a merge node notes the order. -/
def acceptSite (s : State) (k : SiteKey) (c : Nat) (t : Token) : Option State :=
  let x := siteOf s k
  match (x.chans.toList)[c]? with
  | none => none
  | some ch =>
    if ch.slots.length ≥ 4 then none
    else
      let s := reservedSeen s k.core (siteCnode x) ((x.owner.map (·.launch)).getD 0) t
      let x := siteOf s k
      let t := Token.received t
      let arrivals := match x.node with
        | some (.merge ins _ _) => if ins.contains c then x.mergeArrivals ++ [c] else x.mergeArrivals
        | _ => x.mergeArrivals
      let routed : List (Option Diversion) := match x.node with
        | some (.conv _ _ _ _ _) => if c = 0 then [none] else []
        | _ => []
      let x := { x with chans := x.chans.setIfInBounds c { slots := ch.slots ++ [(t, s.time)] }, mergeArrivals := arrivals,
                        diversions := x.diversions ++ routed }
      some (wakeSite (setSite s k x) k fun slot w => w == .channel c || (w == .wait && x.bindings.contains (t.route, slot)))

/-- The tokens that wait at an input of a node, among the steps to come. -/
def waitingAt (s : State) (p : Instr → Bool) : Nat := (s.agenda.filter p).length

/-- A token to an input of an engine node, which holds four (R291, R306, R192; log 27). -/
def acceptNode (s : State) (n : NodeRef) (input : Nat) (t : Token) : Option State :=
  match n.kind with
  | .acc =>
    let x := accOf s n.home n.idx
    let s := reservedSeen s n.home (ownerCnode s x.owner) ((x.owner.map (·.1.launch)).getD 0) t
    if waitingAt s (fun e => match e with | .endToken c a _ => c == n.home && a == n.idx | _ => false) ≥ 4 then none
    else some (push (setAcc s n.home n.idx { x with lastInput := input, lastArrive := s.time }) (.endToken n.home n.idx (Token.received t)))
  | .topk =>
    let x := topkOf s n.home n.idx
    let s := reservedSeen s n.home (ownerCnode s x.owner) ((x.owner.map (·.1.launch)).getD 0) t
    if waitingAt s (fun e => match e with | .topkCandidate c a i _ => c == n.home && a == n.idx && i == input | _ => false) ≥ 4 then none
    else
      some (push (setTopk s n.home n.idx { x with lastInput := input, lastArrive := s.time }) (.topkCandidate n.home n.idx input (Token.received t)))
  | .stream =>
    let x := streamOf s n.home n.idx
    if x.inbox.length ≥ 4 then none
    else
      let s := reservedSeen s (4 * n.home) (ownerCnode s x.owner) ((x.owner.map (·.1.launch)).getD 0) t
      some (setStream s n.home n.idx { streamOf s n.home n.idx with inbox := x.inbox ++ [(Token.received t, s.time)] })
  | _ => none

/-- A token to the destination of its route (R28, R135). -/
def acceptAt (s : State) (q : Outgoing) : Option State :=
  match regionOf s q.owner.launch q.owner.region with
  | none => none
  | some g =>
    if !routeInside g q.route then none
    else
      match routeTo q.route with
      | some (.site x y c) => acceptSite s (siteAt g x y) c q.token
      | some (.node id i) => (Tab.find? g.nodes id).bind fun n => acceptNode s n i q.token
      | none => none

/-! ### The round robin of an input channel (R125) -/

/-- The input channel that a token is routed to, if it goes to a site. -/
def targetOf (s : State) (q : Outgoing) : Option (SiteKey × Nat) :=
  match regionOf s q.owner.launch q.owner.region, routeTo q.route with
  | some g, some (.site x y c) => some (siteAt g x y, c)
  | _, _ => none

/-- A sender's place in the order in which an input channel grants its slots (R125): by the sending site's logical x, then its y. The
manual orders sites only: the senders of one site come in the order of their output channels, engine nodes and units after them (log 118). -/
def grantPlace (o : Owner) (src : Sender) : Nat :=
  (o.x * 16 + o.y) * 64 + (match src with | .chan _ c => c % 16 | .node n => 16 + n.idx % 16 | .unit _ i => 32 + i % 32)

/-- Of senders with their places, the first in the round robin after a place. -/
def grantNext (last : Nat) (ps : List (Nat × Sender)) : Option Sender :=
  ((sorted (fun a b => decide ((a.1 + 2 ^ 14 - last - 1) % 2 ^ 14 ≤ (b.1 + 2 ^ 14 - last - 1) % 2 ^ 14)) ps).head?).map (·.2)

/-- Whether a channel grants a free slot to a sender, and not to another whose token waits for one (R125). -/
def grants (s : State) (src : Sender) (q : Outgoing) : Bool :=
  match targetOf s q with
  | none => true
  | some (k, c) =>
    let x := siteOf s k
    let rivals := (x.blocked.filter fun b => b.1 == c && b.2 != src).filterMap fun b =>
      (headOut s b.2).bind fun r => if targetOf s r == some (k, c) then some (grantPlace r.owner b.2, b.2) else none
    grantNext (Tab.get (2 ^ 14 - 1) x.granted c) ((grantPlace q.owner src, src) :: rivals) == some src

/-- A sender whose token waits for a slot of its channel, or whose token has been accepted. -/
def noteGrant (s : State) (src : Sender) (q : Outgoing) (accepted : Bool) : State :=
  match targetOf s q with
  | none => s
  | some (k, c) =>
    let x := siteOf s k
    let rest := x.blocked.filter (· != (c, src))
    setSite s k (if accepted then { x with blocked := rest, granted := Tab.put x.granted c (grantPlace q.owner src) }
      else { x with blocked := rest ++ [(c, src)] })

/-! ### TOKEN_ARRIVAL and LINK_FAILED (R125, R126) -/

/-- Parity refusals in a row of a sender's token (R126). -/
def refusalsOf (s : State) (src : Sender) : Nat := ((s.refusals.find? (·.1 == src)).map (·.2)).getD 0

/-- The count of a sender's refusals set. -/
def setRefusals (s : State) (src : Sender) (n : Nat) : State :=
  { s with refusals := (s.refusals.filter (·.1 != src)) ++ (if n = 0 then [] else [(src, n)]) }

/-- The core that a sender belongs to, for records. -/
def senderCore : Sender → Nat
  | .chan k _ => k.core
  | .node n => if n.kind = .stream then 4 * n.home else n.home
  | .unit die _ => 4 * die

/-- CNODE of a sender. -/
def senderCnode (s : State) : Sender → W32
  | .chan k _ => siteCnode (siteOf s k)
  | .node n =>
    match n.kind with
    | .acc => ownerCnode s (accOf s n.home n.idx).owner
    | .topk => ownerCnode s (topkOf s n.home n.idx).owner
    | _ => ownerCnode s (streamOf s n.home n.idx).owner
  | .unit _ _ => noCnode

/-- TOKEN_ARRIVAL (R125, R126): a token that fails parity is refused, counted, and stays with its sender, and the eighth refusal in a row
fails the link. Otherwise the receiver accepts it into a free slot that it grants it, and its sender's slot frees; without one it waits. -/
def execTokenArrival (src : Sender) (parityBad : Bool) (s : State) : Host.Outcome State Fault Refusal :=
  .next (match headOut s src with
    | none => s
    | some q =>
      if parityBad then
        let n := refusalsOf s src + 1
        let core := senderCore src
        let s := rasRecord (setRefusals s src n) 5 0 (core / 4) core (senderCnode s src) q.owner.launch 0
        push s (if n ≥ 8 then .linkFailed src else .tokenArrival src false)
      else
        match acceptAt s q with
        | some t => if grants s src q then noteGrant (popOut (setRefusals t src 0) src) src q true
                    else defer (noteGrant s src q false) (.tokenArrival src false)
        | none => defer (noteGrant s src q false) (.tokenArrival src false))

/-- LINK_FAILED (R126, R452): a RAS record, and the launch is killed with LINK. -/
def execLinkFailed (src : Sender) (s : State) : Host.Outcome State Fault Refusal :=
  .next (match headOut s src with
    | none => s
    | some q =>
      let core := senderCore src
      let s := rasRecord s 6 1 (core / 4) core (senderCnode s src) q.owner.launch 0
      killWith s q.owner.launch 3 0 q.owner.x q.owner.y 0xFF)

/-! ### Token nodes (R129) -/

/-- Whether an output channel of a node can take a token. A channel without a route never can: the node waits without firing (DESIGN CHOICE, log
131: R129 does not say what a node does there). -/
def outReady (x : Site) (o : Nat) : Bool :=
  match (x.outs.toList)[o]? with
  | some c => c.route.isSome && c.send.length < 2
  | none => false

/-- A node's firing: a token with the input's sequence tag on an output (R78, R129), and the input whose token arrived last (R431). -/
def nodeSend (s : State) (k : SiteKey) (o : Nat) (t : Token) (input : Nat) (arrive : W64) : State :=
  let x := siteOf s k
  let c := (x.outs.toList)[o]?.getD OutChan.empty
  let t := { t with route := bits (c.route.getD 0) 0 10 }
  let c := { c with send := c.send ++ [t], nextSeq := t.seq + 1, fired := true, lastInput := input, lastArrive := arrive, lastFire := s.time,
                    lastTask := 0xFF, lastWord := 0xFFFF }
  push (setSite s k { x with outs := x.outs.setIfInBounds o c }) (.tokenArrival (.chan k o) false)

/-- The head token of a site's input channel, with its arrival. -/
def siteHead (x : Site) (c : Nat) : Option (Token × W64) := ((x.chans.toList)[c]?).bind fun ch => ch.slots.head?

/-- A token taken from a site's input channel. -/
def Site.take (x : Site) (c : Nat) : Site :=
  { x with chans := x.chans.setIfInBounds c { slots := (((x.chans.toList)[c]?).getD InChan.empty).slots.drop 1 } }

/-- The selector of a steer node: nonzero data, other data, or a null or error (R129). A vector selector is read as its lane 0, as a scalar
source reads it (R143). -/
def selectorOf (t : Token) : Option Bool :=
  match Token.scalar t with
  | .data w => (match t.pay with | .control _ _ => some false | _ => some (w != 0))
  | _ => none

/-- STEER_NODE_FIRE (R129). -/
def execSteerNodeFire (site : SiteKey) (s : State) : Host.Outcome State Fault Refusal :=
  let x := siteOf s site
  .next (match x.node with
    | some (.steer inp sel outA outB) =>
      match siteHead x inp, siteHead x sel with
      | some (d, da), some (c, ca) =>
        let last := if da.ult ca || (da == ca && sel < inp) then (sel, ca) else (inp, da)
        let taken := setSite s site ((x.take inp).take sel)
        match selectorOf c with
        | some b =>
          let o := if b then outA else outB
          if outReady x o then nodeSend taken site o d last.1 last.2 else s
        | none =>
          let e := { d with pay := Payload.allErr 6 d.pay }
          if outReady x outA && outReady x outB then nodeSend (nodeSend taken site outA e last.1 last.2) site outB e last.1 last.2 else s
      | _, _ => s
    | _ => s)

/-- The input from which a merge node forwards next (R129): in arrival order the oldest, in sequence order one whose tag is the last
forwarded one's or its successor (log 28). -/
def mergeFrom (x : Site) (ins : List Nat) (inOrder : Bool) : Option Nat :=
  match inOrder, x.mergeNext with
  | true, some n =>
    let tagged (p : BitVec 12 → Bool) : Option Nat := ins.find? fun c => match siteHead x c with | some (t, _) => p t.seq | none => false
    match tagged fun q => q + 1 == n with
    | some c => some c
    | none => tagged fun q => q == n
  | _, _ => x.mergeArrivals.head?

/-- MERGE_NODE_FIRE (R129). -/
def execMergeNodeFire (site : SiteKey) (s : State) : Host.Outcome State Fault Refusal :=
  let x := siteOf s site
  .next (match x.node with
    | some (.merge ins inOrder out) =>
      match mergeFrom x ins inOrder with
      | some c =>
        match siteHead x c with
        | some (t, a) =>
          if outReady x out then
            nodeSend (setSite s site { x.take c with mergeNext := some (t.seq + 1), mergeArrivals := x.mergeArrivals.erase c }) site out t c a
          else s
        | none => s
      | none => s
    | _ => s)

/-! ### Conversion nodes (R72, R83, R85) -/

/-- One element converted at a node: the abandoned pattern is error code 2 (R63, R71). -/
def nodeConvert (fs fd : Fmt) (rnd : Rounding) (sat : Bool) (x : W32) : Conv :=
  if fs == .fp32 && isAbandoned x then .error 2 else convert fs fd rnd sat x

/-- A null input lane under a node's null mode: IDENTITY has no value for a conversion, and the lane is a free value (R85, log 29). -/
def nullLane (s : State) (m : NullMode) (l : Lane) : Lane :=
  match m, l with
  | .identity, .null => .data (bits (Config.freeWord s.clock 8) 0 32)
  | _, l => l

/-- The payloads into which a token converts, lowest elements first (R72). -/
def convPayloads (fs fd : Fmt) (cv : W32 → Conv) : Payload → List Payload
  | .vector ls =>
    (List.range (max 1 (fs.perLane / fd.perLane))).map fun p => .vector (Vector.ofFn fun i =>
      let k := 64 * fd.perLane * p + i.val * fd.perLane
      if k < 64 * fs.perLane then convLane fd cv ((List.range fd.perLane).map fun j => Machine.elemAt fs ls (k + j)) else .null)
  | .scalar l =>
    let ls : Vector Lane 64 := (Vector.replicate 64 .null).set 0 l
    (List.range (max 1 (fs.perLane / fd.perLane))).map fun p =>
      .scalar (convLane fd cv ((List.range fd.perLane).map fun j => Machine.elemAt fs ls (p * fd.perLane + j)))
  | p => [p]

/-- Whether a payload holds nothing but nulls. -/
def Payload.allNull : Payload → Bool
  | .scalar l => Lane.isNull l
  | .vector ls => ls.toList.all Lane.isNull
  | .control _ _ => false

/-- The lanes of a payload changed. -/
def Payload.mapLanes (f : Lane → Lane) : Payload → Payload
  | .scalar l => .scalar (f l)
  | .vector ls => .vector (ls.map f)
  | p => p

/-- CONVERSION_NODE_FIRE (R72, R83, R85, R137): the token at the head of c0 that an input diverted there is converted, and the results return to
that input, with its route tag and sequence tag; under ABSORB a result of nulls only is dropped. -/
def execConversionNodeFire (site : SiteKey) (s : State) : Host.Outcome State Fault Refusal :=
  let x := siteOf s site
  .next (match x.node, siteHead x 0, x.diversions with
    | some (.conv fs fd rnd sat nulls), some (k, _), some d :: r =>
      let ps := convPayloads fs fd (nodeConvert fs fd rnd sat) (Payload.mapLanes (nullLane s nulls) k.pay)
      let ps := if nulls = .absorb then ps.filter (!Payload.allNull ·) else ps
      let s := setSite s site { x.take 0 with diversions := r }
      let s := ps.foldl (fun s p => offerToken s d.core d.topk d.input { k with fmt := fd, pay := p }) s
      let y := topkOf s d.core d.topk
      setTopk s d.core d.topk { y with away := y.away.erase d.input }
    | _, _, _ => s)

end Sys2Proof.Machine
end

