-- ==== Sys2Proof/Machine/Barrier.lean ====
section
/-! DEFINITION. Major 0x45: barrier groups (R238 to R243). -/

namespace Sys2Proof.Machine

/-- A group that nothing has used: generation 0, no member (R239). -/
def Group.initial : Group :=
  { gen := 0, members := [], arrived := [], pending := [], short := false, shorts := [], completed := 0 }

/-- A barrier group of a launch: of a region, or of a gang (R238). -/
structure GroupKey where
  gang : Bool
  idx : Nat
  deriving DecidableEq, Repr

/-- The group that a group word names for a task of a region (R238); region groups are kept under 16 × region + INDEX. -/
def groupKey (s : State) (r : TaskRef) (x : Scalar) : Except Stop GroupKey :=
  match x with
  | .data w =>
    if field w 7 57 ≠ 0 then illop
    else if bit w 6 then
      if (launchOf s r.launch).gang then .ok { gang := true, idx := field w 0 6 } else illop
    else if field w 0 6 > 15 then illop
    else .ok { gang := false, idx := 16 * r.region + field w 0 6 }
  | _ => illop

/-- A barrier group of a launch. -/
def groupOf (s : State) (l : Nat) (k : GroupKey) : Group :=
  Tab.get Group.initial (if k.gang then (launchOf s l).gangGroups else (launchOf s l).groups) k.idx

/-- The state with a barrier group replaced. -/
def setGroup (s : State) (l : Nat) (k : GroupKey) (g : Group) : State :=
  let x := launchOf s l
  setLaunch s l (if k.gang then { x with gangGroups := Tab.put x.gangGroups k.idx g }
    else { x with groups := Tab.put x.groups k.idx g })

/-- A member's arrival, or ILLOP for one that is no member or has arrived (R240); the last live member's completes the generation. -/
def Group.arrive (r : TaskRef) (g : Group) : Except Stop Group :=
  if g.members.contains r && !g.arrived.contains r then .ok (Group.settle { g with arrived := g.arrived ++ [r] }) else illop

/-- Joining or leaving: at once before the generation has begun, and otherwise at its completion (R240). -/
def Group.member (r : TaskRef) (join : Bool) (g : Group) : Group :=
  if g.arrived.isEmpty then { g with members := applyMembership g.members (r, join) }
  else { g with pending := g.pending ++ [(r, join)] }

/-- Signed32(G − b) (R240, R241). -/
def Group.ago (g : Group) (b : W32) : Int := (g.gen - b).toInt

/-- STALE of a status (R241). -/
def Group.stale (g : Group) (b : W32) : Bool := decide (g.ago b > 16) || decide (g.ago b > g.completed)

/-- The status of BARW and BARAW for generation b, once it is no longer the current one (R241). -/
def Group.status (g : Group) (b : W32) : Option W64 :=
  if b = g.gen then none
  else
    let stale := Group.stale g b
    some (BitVec.ofNat 64 ((if stale then 2 ^ 33 else 0) + (if !stale && g.shorts.contains b then 2 ^ 32 else 0) + b.toNat))

/-- The result of BARQ (R241). -/
def Group.query (g : Group) (r : TaskRef) : W64 :=
  BitVec.ofNat 64 ((if g.arrived.contains r then 2 ^ 63 else 0) + (if g.members.contains r then 2 ^ 62 else 0) +
    g.arrived.length % 2 ^ 15 * 2 ^ 47 + g.members.length % 2 ^ 15 * 2 ^ 32 + g.gen.toNat)

/-- A wait for a generation: the destination stays empty until it completes; an acquire holds later accesses until then (R240, R243). -/
def barrierWait (s : State) (o : Operands) (k : GroupKey) (b : W32) : State :=
  match o.dst with
  | .s i =>
    startProducer s o.dst (.barrier k.idx k.gang b i) (if MemOrder.acquires (Mod.order o.mod) then some (Mod.scope o.mod) else none)
  | _ => s

/-- A barrier instruction over its group, for the task that executes. -/
def barrierOp (o : Operands) (s : State) (act : State → TaskRef → GroupKey → Exec) : Host.Outcome State Fault Refusal :=
  issue Places.sites o s (predicated s (Field.pred o.a) do
    ready s o
    match s.cur with
    | .task k =>
      match refOf s k with
      | some r => do
        let g ← groupKey s r (scalarOf s o.a)
        memGate s (Mod.order o.mod) (Mod.scope o.mod)
        let s' ← act s r g
        .ok (retire (consumeAll s' o))
      | none => illop
    | _ => illop)

/-- BARA (R240): its destination receives the generation in which the task arrived. -/
def execBara (o : Operands) (s : State) : Host.Outcome State Fault Refusal :=
  barrierOp o s fun s r k => do
    producerRoom s
    let g := groupOf s r.launch k
    let g' ← Group.arrive r g
    .ok (produceAccessS (setGroup s r.launch k g') o.dst (.data (g.gen.setWidth 64)))

/-- BARW (R240): a generation that is to come traps ILLOP. -/
def execBarw (o : Operands) (s : State) : Host.Outcome State Fault Refusal :=
  barrierOp o s fun s r k => do
    producerRoom s
    match scalarOf s o.b with
    | .data w =>
      if (bits w 0 32 - (groupOf s r.launch k).gen).toInt > 0 then illop else .ok (barrierWait s o k (bits w 0 32))
    | _ => illop

/-- BARAW (R240): arrives, and waits for the same generation. -/
def execBaraw (o : Operands) (s : State) : Host.Outcome State Fault Refusal :=
  barrierOp o s fun s r k => do
    producerRoom s
    let g := groupOf s r.launch k
    let g' ← Group.arrive r g
    .ok (barrierWait (setGroup s r.launch k g') o k g.gen)

/-- BARM (R240). -/
def execBarm (o : Operands) (s : State) : Host.Outcome State Fault Refusal :=
  barrierOp o s fun s r k =>
    match scalarOf s o.b with
    | .data w => .ok (setGroup s r.launch k (Group.member r (bit w 0) (groupOf s r.launch k)))
    | _ => illop

/-- BARQ (R241). -/
def execBarq (o : Operands) (s : State) : Host.Outcome State Fault Refusal :=
  barrierOp o s fun s r k => do
    producerRoom s
    .ok (produceAccessS s o.dst (.data (Group.query (groupOf s r.launch k) r)))

end Sys2Proof.Machine
end

