-- ==== Sys2Proof/Machine/Hash.lean ====
section
/-! DEFINITION. SHAKE256 and the verification of SLH-DSA-SHAKE-256s signatures, the hash and the signatures of the device (R24, R442, R446, R448),
as FIPS 202 and FIPS 205 define them (PRESUMED: the manual names them and does not write them out, log 9). -/

namespace Sys2Proof.Machine

/-! ### Keccak-f[1600] -/

/-- A Keccak state: lane (x, y) stands at 5 y + x. -/
abbrev Keccak : Type := Vector W64 25

/-- The lane at (x, y). -/
def Keccak.lane (a : Keccak) (x y : Nat) : W64 := a.get ⟨(5 * (y % 5) + x % 5) % 25, Nat.mod_lt _ (by decide)⟩

/-- The state of a function of (x, y). -/
def Keccak.make (f : Nat → Nat → W64) : Keccak := Vector.ofFn fun i => f (i.val % 5) (i.val / 5)

/-- Step θ. -/
def Keccak.theta (a : Keccak) : Keccak :=
  let c : Vector W64 5 := Vector.ofFn fun x => a.lane x 0 ^^^ a.lane x 1 ^^^ a.lane x 2 ^^^ a.lane x 3 ^^^ a.lane x 4
  let col (x : Nat) : W64 := c.get ⟨x % 5, Nat.mod_lt _ (by decide)⟩
  let d : Vector W64 5 := Vector.ofFn fun x => col (x + 4) ^^^ (col (x + 1)).rotateLeft 1
  Keccak.make fun x y => a.lane x y ^^^ d.get ⟨x % 5, Nat.mod_lt _ (by decide)⟩

/-- The rotation offsets of step ρ, at 5 y + x. -/
def rhoOffsets : List Nat := [0, 1, 62, 28, 27, 36, 44, 6, 55, 20, 3, 10, 43, 25, 39, 41, 45, 15, 21, 8, 18, 2, 61, 56, 14]

/-- Steps ρ and π. -/
def Keccak.rhoPi (a : Keccak) : Keccak :=
  Keccak.make fun x y => (a.lane (x + 3 * y) x).rotateLeft (rhoOffsets[5 * (x % 5) + (x + 3 * y) % 5]?.getD 0)

/-- Step χ. -/
def Keccak.chi (a : Keccak) : Keccak := Keccak.make fun x y => a.lane x y ^^^ (~~~(a.lane (x + 1) y) &&& a.lane (x + 2) y)

/-- The round constants of step ι. -/
def roundConstants : List W64 :=
  [0x0000000000000001, 0x0000000000008082, 0x800000000000808A, 0x8000000080008000, 0x000000000000808B, 0x0000000080000001,
   0x8000000080008081, 0x8000000000008009, 0x000000000000008A, 0x0000000000000088, 0x0000000080008009, 0x000000008000000A,
   0x000000008000808B, 0x800000000000008B, 0x8000000000008089, 0x8000000000008003, 0x8000000000008002, 0x8000000000000080,
   0x000000000000800A, 0x800000008000000A, 0x8000000080008081, 0x8000000000008080, 0x0000000080000001, 0x8000000080008008]

/-- One round. -/
def Keccak.round (a : Keccak) (rc : W64) : Keccak :=
  let b := Keccak.chi (Keccak.rhoPi (Keccak.theta a))
  b.set 0 (b.get 0 ^^^ rc)

/-- The permutation: 24 rounds. -/
def Keccak.permute (a : Keccak) : Keccak := roundConstants.foldl Keccak.round a

/-! ### SHAKE256 -/

/-- Eight bytes, lowest first, as a lane. -/
def laneOfBytes (bs : List Byte) : W64 := bs.foldr (fun b w => w <<< 8 ||| b.setWidth 64) 0

/-- A block of 136 bytes absorbed. -/
def Keccak.absorb (a : Keccak) (block : List Byte) : Keccak :=
  let x : Keccak := Vector.ofFn fun i => if i.val < 17 then a.get i ^^^ laneOfBytes ((block.drop (8 * i.val)).take 8) else a.get i
  Keccak.permute x

/-- A message's blocks absorbed, the last with SHAKE's suffix and padding; `n` whole blocks come before it. -/
def Keccak.absorbAll : Nat → Keccak → List Byte → Keccak
  | 0, a, m =>
    let k := m.length
    Keccak.absorb a (if k = 135 then m ++ [0x9F] else m ++ [0x1F] ++ List.replicate (134 - k) 0 ++ [0x80])
  | n + 1, a, m => Keccak.absorbAll n (Keccak.absorb a (m.take 136)) (m.drop 136)

/-- The first 64 bytes that SHAKE256 gives for a message. -/
def shakeBytes (m : List Byte) : List Byte :=
  let a := Keccak.absorbAll (m.length / 136) (Vector.replicate 25 0) m
  (a.toList.take 8).flatMap fun w => (List.range 8).map fun i => bits w (8 * i) 8

/-- SHAKE256 with 512 bits of output, its first byte lowest (R448). -/
def shake256 (m : List Byte) : BitVec 512 := (shakeBytes m).foldr (fun b w => w <<< 8 ||| b.setWidth 512) 0

/-! ### SLH-DSA-SHAKE-256s (n = 32, h = 64, d = 8, h' = 8, a = 14, k = 22, lg w = 4, m = 47) -/

/-- A number in `n` bytes, highest first. -/
def beBytes (n x : Nat) : List Byte := (List.range n).map fun i => BitVec.ofNat 8 (x / 256 ^ (n - 1 - i))

/-- Bytes as a number, highest first. -/
def beNat (bs : List Byte) : Nat := bs.foldl (fun x b => 256 * x + b.toNat) 0

/-- Digit `i` of a byte string in base 2^b, from its highest bit. -/
def digit (bs : List Byte) (b i : Nat) : Nat := beNat bs / 2 ^ (8 * bs.length - b * (i + 1)) % 2 ^ b

/-- An address: layer, tree, type and its three words. -/
structure Adrs where
  layer : Nat
  tree : Nat
  type : Nat
  w0 : Nat
  w1 : Nat
  w2 : Nat
  deriving DecidableEq, Repr

/-- The 32 bytes of an address. -/
def Adrs.bytes (a : Adrs) : List Byte :=
  beBytes 4 a.layer ++ beBytes 12 a.tree ++ beBytes 4 a.type ++ beBytes 4 a.w0 ++ beBytes 4 a.w1 ++ beBytes 4 a.w2

/-- F, H and T of the scheme: 32 bytes. -/
def slhHash (seed : List Byte) (a : Adrs) (m : List Byte) : List Byte := (shakeBytes (seed ++ Adrs.bytes a ++ m)).take 32

/-- Piece `i` of 32 bytes. -/
def piece32 (bs : List Byte) (i : Nat) : List Byte := (bs.drop (32 * i)).take 32

/-- A chain of `n` steps from step `i`. -/
def slhChain (seed : List Byte) (a : Adrs) : Nat → Nat → List Byte → List Byte
  | 0, _, x => x
  | n + 1, i, x => slhChain seed a n (i + 1) (slhHash seed { a with w2 := i } x)

/-- The 67 digits of a one-time signature's message: 64 of the message, and 3 of their checksum. -/
def wotsDigits (m : List Byte) : List Nat :=
  let ds := (List.range 64).map (digit m 4)
  let csum := ds.foldl (fun c d => c + (15 - d)) 0
  ds ++ (List.range 3).map (digit (beBytes 2 (16 * csum)) 4)

/-- The one-time public key that a signature gives. -/
def wotsKey (seed : List Byte) (layer tree leaf : Nat) (sig m : List Byte) : List Byte :=
  let ends := (wotsDigits m).zipIdx.flatMap fun (d, i) =>
    slhChain seed { layer := layer, tree := tree, type := 0, w0 := leaf, w1 := i, w2 := 0 } (15 - d) d (piece32 sig i)
  slhHash seed { layer := layer, tree := tree, type := 1, w0 := leaf, w1 := 0, w2 := 0 } ends

/-- The root that a node and its authentication path give: the node has index `i` within its tree, and `index` among the nodes of its height. -/
def slhClimb (seed : List Byte) (a : Adrs) (path : List Byte) : Nat → Nat → Nat → Nat → List Byte → List Byte
  | 0, _, _, _, node => node
  | n + 1, j, i, index, node =>
    let b := { a with w1 := j + 1, w2 := index / 2 }
    let sibling := piece32 path j
    slhClimb seed a path n (j + 1) (i / 2) (index / 2) (slhHash seed b (if i % 2 = 0 then node ++ sibling else sibling ++ node))

/-- The root of a Merkle tree that a signature of 75 pieces gives. -/
def xmssRoot (seed : List Byte) (layer tree leaf : Nat) (sig m : List Byte) : List Byte :=
  slhClimb seed { layer := layer, tree := tree, type := 2, w0 := 0, w1 := 0, w2 := 0 } (sig.drop (32 * 67)) 8 0 leaf leaf
    (wotsKey seed layer tree leaf (sig.take (32 * 67)) m)

/-- The root of the hypertree, from a layer on: `n` layers are left. -/
def hyperRoot (seed : List Byte) : Nat → Nat → Nat → Nat → List Byte → List Byte → List Byte
  | 0, _, _, _, _, m => m
  | n + 1, layer, tree, leaf, sig, m =>
    hyperRoot seed n (layer + 1) (tree / 256) (tree % 256) (sig.drop (32 * 75)) (xmssRoot seed layer tree leaf (sig.take (32 * 75)) m)

/-- The few-time public key that a signature of 22 parts of 15 pieces gives. -/
def forsKey (seed : List Byte) (tree leaf : Nat) (sig md : List Byte) : List Byte :=
  let a : Adrs := { layer := 0, tree := tree, type := 3, w0 := leaf, w1 := 0, w2 := 0 }
  let roots := (List.range 22).flatMap fun i =>
    let x := digit md 14 i
    let part := sig.drop (480 * i)
    let index := 16384 * i + x
    slhClimb seed a (part.drop 32) 14 0 x index (slhHash seed { a with w2 := index } (part.take 32))
  slhHash seed { a with type := 4 } roots

/-- Whether a signature over a byte string verifies under a key of 64 bytes, with an empty context (FIPS 205, the pure form). -/
def slhVerify (key msg sig : List Byte) : Bool :=
  let seed := key.take 32
  let dig := (shakeBytes (sig.take 32 ++ key.take 64 ++ [0, 0] ++ msg)).take 47
  let tree := beNat ((dig.drop 39).take 7)
  let leaf := beNat ((dig.drop 46).take 1)
  let fors := sig.drop 32
  key.length == 64 && sig.length == 29792 &&
    hyperRoot seed 8 0 tree leaf (fors.drop (32 * 330)) (forsKey seed tree leaf (fors.take (32 * 330)) (dig.take 39)) == (key.drop 32).take 32

end Sys2Proof.Machine
end

