-- ==== Sys2Proof/Machine/Queue.lean ====
section
/-! DEFINITION. Launch packets, queue control blocks, and publishing a packet as LQSEND does (R404, R405, R407, R408, R417). -/

namespace Sys2Proof.Machine

/-! ### Fields of little-endian bytes -/

/-- `n` bytes at an offset, as a number. -/
def at' (bs : List Byte) (off n : Nat) : Nat := leNat ((bs.drop off).take n)

/-- A 64-bit word at an offset. -/
def word64At (bs : List Byte) (off : Nat) : W64 := BitVec.ofNat 64 (at' bs off 8)

/-! ### The launch packet (R407) -/

/-- A canonical address with the alignment given (R216). -/
def alignedVa (va : W64) (n : Nat) : Bool := canonical va && va.toNat % n == 0

/-- Whether the completion-signal word of a packet can be updated (R407, R409). -/
def signalUsable (p : List Byte) : Bool := alignedVa (word64At p 24) 8 && word64At p 24 != 0

/-- Whether a packet keeps R407; only a task queue's packet names a parent. -/
def packetOk (p : List Byte) (taskq : Bool) : Bool :=
  let type := at' p 0 1
  let gang := type == 2
  (type == 1 || gang) && decide (at' p 1 1 ≤ 1) && decide (at' p 2 1 ≤ 7) && at' p 3 1 == 0 &&
    (if gang then at' p 4 2 == 0 && decide (2 ≤ at' p 6 2 ∧ at' p 6 2 ≤ 64) && at' p 16 8 == 0
     else decide (1 ≤ at' p 4 1 ∧ at' p 4 1 ≤ 16 ∧ 1 ≤ at' p 5 1 ∧ at' p 5 1 ≤ 16) && at' p 6 2 == 0 && alignedVa (word64At p 16) 8) &&
    alignedVa (word64At p 8) 64 && signalUsable p && (taskq || at' p 32 4 == 0) && at' p 36 4 == 0 &&
    alignedVa (word64At p 40) 64 && alignedVa (word64At p 48) 16 && at' p 56 8 == 0

/-! ### Queue control blocks (R404) -/

/-- A queue control block as its home holds it. -/
structure Qcb where
  rbase : Nat
  log2n : Nat
  prio : Nat
  space : Nat
  flags : W32
  head : W64
  tail : W64
  resv : W64
  deriving DecidableEq, Repr

/-- The fields of a block's bytes. -/
def Qcb.ofBytes (bs : List Byte) : Qcb :=
  { rbase := at' bs 0 8, log2n := at' bs 8 1, prio := at' bs 9 1, space := at' bs 10 2, flags := BitVec.ofNat 32 (at' bs 12 4),
    head := word64At bs 16, tail := word64At bs 24, resv := word64At bs 32 }

/-- The block of a queue at its home. -/
def qcbOf (s : State) (q : Nat) : Qcb := Qcb.ofBytes (homeRead s (qcbAddr s q) 64)

/-- VALID, TASKQ and PAUSED. -/
def Qcb.valid (b : Qcb) : Bool := bit b.flags 0
/-- TASKQ. -/
def Qcb.taskq (b : Qcb) : Bool := bit b.flags 1
/-- PAUSED. -/
def Qcb.paused (b : Qcb) : Bool := bit b.flags 2
/-- The number of slots. -/
def Qcb.slots (b : Qcb) : Nat := 2 ^ min b.log2n 16
/-- The address of the slot of a count. -/
def Qcb.slotAt (b : Qcb) (t : Nat) : Nat := b.rbase + 64 * (t % b.slots)

/-- A packet's name in the rings: its queue and its count. -/
def packetId (q count : Nat) : Nat := q * 2 ^ 64 + count

/-! ### LQSEND's publishing (R46, R258, R417) -/

/-- What became of a packet. -/
inductive SendCode where
  | queue
  | limit
  | full
  | sent (count : Nat)
  deriving DecidableEq, Repr

/-- The bytes of a packet with its PARENT. -/
def withParent (p : List Byte) (l : Nat) : List Byte := p.take 32 ++ leBytes 4 l ++ p.drop 36

/-- What keeps a launch's packet from a queue before its release: the queue is not one of its task queues, or it has too many children
(R46, R417). -/
def sendRefused (s : State) (l : Nat) (q : W64) : Except Stop (Option SendCode) :=
  if q.toNat ≥ s.glob.qtSize.toNat then .ok (some .queue)
  else do
    placeReady s (qcbAddr s q.toNat) 64 true true
    let b := qcbOf s q.toNat
    .ok (if !b.valid || !b.taskq || b.space ≠ (launchOf s l).space then some .queue
      else if (launchOf s l).childrenLive ≥ 65535 then some .limit else none)

/-- A packet reserved, written and published by a launch from a die, as one step (R417). The slot is reserved only when every earlier one is
published, so that the wait for TAIL comes before the reservation (log 31). -/
def publish (s : State) (die l : Nat) (q : W64) (p : List Byte) : Except Stop (State × SendCode) := do
  match ← sendRefused s l q with
  | some c => .ok (s, c)
  | none => do
    let pa := qcbAddr s q.toNat
    let b := qcbOf s q.toNat
    if (b.resv - b.head).toNat ≥ b.slots then .ok (s, .full)
    else if b.tail ≠ b.resv then .error (.stall s)
    else do
      let s ← writeOnce s die (b.slotAt b.resv.toNat) (withParent p l)
      let next := leBytes 8 (b.resv + 1).toNat
      let s := homeWrite (homeWrite s (pa + 32) next) (pa + 24) next
      let a := launchOf s l
      .ok (setLaunch s l { a with childrenLive := a.childrenLive + 1 }, .sent b.resv.toNat)

/-! ### Children (R46 to R48, R417) -/

/-- A child of a task marked complete. -/
def Task.childDone (id : Nat) (error : Bool) (t : Task) : Task :=
  { t with children := t.children.map fun c => if c.id = id then { c with complete := true, error := error } else c }

/-- A child marked complete in whichever task of a site created it. -/
def Site.childDone (id : Nat) (error : Bool) (x : Site) : Site :=
  { x with tasks := x.tasks.map fun (i, t) => (i, Task.childDone id error t) }

/-- A child marked complete in the task that created it, resident or saved. -/
def childDone (s : State) (id : Nat) (error : Bool) : State :=
  { s with
    sites := s.sites.map fun (k, x) => (k, Site.childDone id error x),
    launches := s.launches.map fun (l, a) => (l, { a with saved := a.saved.map fun v =>
      { v with sites := v.sites.map fun (r, x, y, st) => (r, x, y, Site.childDone id error st) } }) }

end Sys2Proof.Machine
end

