-- ==== Sys2Proof/Machine/MatchNet.lean ====
section
/-! DEFINITION. The match network: its image, the instantiations that working memory gives, their order, and which of them fire together
(R368 to R370, R373, R377, R379). -/

namespace Sys2Proof.Machine

/-! ### Instantiations (R368, R369) -/

/-- The compare condition of a test. -/
def NetTest.holds (t : NetTest) (a : W32) : Bool := Cond.holds ((Cond.ofCode t.cond).getD .eq) a t.value

/-- One test of an element under bindings: a variable that is not bound yet is bound (R368). -/
def NetTest.apply (e : WmElem) (b : Option (Table W32)) (t : NetTest) : Option (Table W32) :=
  b.bind fun b =>
    let a := e.attrs[t.attr]?.getD 0
    if t.var then
      match Tab.find? b t.value.toNat with
      | some w => if a = w then some b else none
      | none => some (Tab.put b t.value.toNat a)
    else if t.holds a then some b else none

/-- The bindings after an element matches a condition, if it does. -/
def NetCond.match? (c : NetCond) (e : WmElem) (b : Table W32) : Option (Table W32) :=
  if e.live && e.cls == c.cls then c.tests.foldl (NetTest.apply e) (some b) else none

/-- What the network finds: the instantiations, the score conditions that partial matches have reached, each by its number within the rule,
and how many partial matches there are. -/
structure Found where
  insts : List Inst
  points : List (Inst × Nat)
  count : Nat
  deriving DecidableEq, Repr

/-- Nothing found. -/
def Found.none : Found := { insts := [], points := [], count := 0 }

/-- Findings together. -/
def Found.join (a b : Found) : Found := { insts := a.insts ++ b.insts, points := a.points ++ b.points, count := a.count + b.count }

/-- The findings of the conditions left of a rule, for a partial match of the elements `es` under bindings, with `n` score conditions
behind it. `outcome` is what is known of a score condition. -/
def findFrom (els : Table WmElem) (outcome : Inst × Nat → Option Bool) (rule : Nat) :
    List NetItem → List Nat → Table W32 → Nat → Found
  | [], es, _, _ => { Found.none with insts := [{ rule := rule, elems := es }] }
  | .pos c :: r, es, b, n =>
    els.foldl (fun f (id, e) =>
      match NetCond.match? c e b with
      | some b' => Found.join f (let g := findFrom els outcome rule r (es ++ [id]) b' n
                                 { g with count := g.count + 1 })
      | Option.none => f) Found.none
  | .neg c :: r, es, b, n => if els.any fun (_, e) => (NetCond.match? c e b).isSome then Found.none else findFrom els outcome rule r es b n
  | .score _ :: r, es, b, n =>
    let p := ({ rule := rule, elems := es }, n)
    Found.join { Found.none with points := [p] } (if outcome p == some true then findFrom els outcome rule r es b (n + 1) else Found.none)

/-- The outcome of a score condition that an engine knows. -/
def Match.outcome (m : Match) (p : Inst × Nat) : Option Bool :=
  if m.passed.contains p then some true else if m.failed.contains p then some false else none

/-- The elements that the network has seen: after a NETLD, those that it has asserted already (R386). -/
def Match.seen (m : Match) : Table WmElem := m.elems.filter fun (id, _) => !m.deltas.contains (.load id)

/-- All that the network of an engine finds (R369, R373). -/
def Match.find (m : Match) : Found :=
  m.net.foldl (fun f r => Found.join f (findFrom m.seen m.outcome r.rule r.items [] [] 0)) Found.none

/-- The conflict set brought up to date (R369, R371, R372): instantiations that no longer stand go, and new ones enter; outcomes and waits
last as long as their partial matches; and the partial matches are to be written to the beta area (R366). -/
def Match.rematch (m : Match) : Match × Found :=
  let f := m.find
  let new := f.insts.filter fun i => !m.known.contains i
  ({ m with conflict := m.conflict.filter f.insts.contains ++ new, known := m.known.filter f.insts.contains ++ new,
            passed := m.passed.filter f.points.contains, failed := m.failed.filter f.points.contains,
            waits := m.waits.filter fun w => f.points.contains (w.inst, w.cond),
            betaDue := List.range (min f.count (m.betaBytes / 64)) }, f)

/-- Whether the beta area or the conflict set is over its limit (R367). -/
def Match.tooMany (m : Match) (f : Found) : Bool := decide (64 * f.count > m.betaBytes) || decide (m.conflict.length > 65536)

/-- A rule of the network. -/
def Match.rule (m : Match) (r : Nat) : Option NetRule := m.net.find? (·.rule == r)

/-- The score conditions of a rule. -/
def NetRule.scores (r : NetRule) : List NetScore := r.items.filterMap fun i => match i with | .score c => some c | _ => none

/-- The score condition at a point, with its key's element ids (R373). -/
def Match.scoreAt (m : Match) (p : Inst × Nat) : Option (NetScore × List Nat) :=
  (m.rule p.1.rule).bind fun r => (r.scores[p.2]?).map fun c => (c, c.keys.map fun k => p.1.elems[k - 1]?.getD 0)

/-- Whether a VALUE passes a score condition (R377). -/
def scorePasses (v theta : W32) : Bool :=
  if isAbandoned v then field v 16 3 == 1 && bit v 19 else Val.holds .ge (f32Val v) (f32Val theta)

/-! ### Selection (R379) -/

/-- The timestamp of an element. -/
def Match.ts (m : Match) (id : Nat) : Nat := ((Tab.find? m.elems id).map (·.ts)).getD 0

/-- A number put in its place in a falling list. -/
def insertFalling (x : Nat) : List Nat → List Nat
  | [] => [x]
  | y :: r => if x ≥ y then x :: y :: r else y :: insertFalling x r

/-- The timestamps of an instantiation, falling. -/
def Match.recency (m : Match) (i : Inst) : List Nat := (i.elems.map m.ts).foldl (fun acc x => insertFalling x acc) []

/-- Comparison of two lists element by element; a proper prefix is the lesser. -/
def lexCompare : List Nat → List Nat → Ordering
  | [], [] => .eq
  | [], _ :: _ => .lt
  | _ :: _, [] => .gt
  | a :: r, b :: q => if a < b then .lt else if b < a then .gt else lexCompare r q

/-- The salience of an instantiation. -/
def Match.salience (m : Match) (i : Inst) : Int := ((m.rule i.rule).map (·.salience)).getD 0

/-- Whether one instantiation stands before another in the order of R379. -/
def Match.before (m : Match) (a b : Inst) : Bool :=
  if m.salience a ≠ m.salience b then decide (m.salience b < m.salience a)
  else
    match lexCompare (m.recency a) (m.recency b) with
    | .gt => true
    | .lt => false
    | .eq => if a.rule ≠ b.rule then decide (a.rule < b.rule) else lexCompare a.elems b.elems == .lt

/-- An instantiation put in its place. -/
def Match.insert (m : Match) (x : Inst) : List Inst → List Inst
  | [] => [x]
  | y :: r => if m.before x y then x :: y :: r else y :: m.insert x r

/-- The conflict set in order. -/
def Match.ordered (m : Match) : List Inst := m.conflict.foldl (fun acc x => m.insert x acc) []

/-- The positive conditions of a rule, in order. -/
def NetRule.pos (r : NetRule) : List NetCond := r.items.filterMap fun i => match i with | .pos c => some c | _ => none

/-- The classes that a rule's negated conditions name. -/
def NetRule.negClasses (r : NetRule) : List Nat := r.items.filterMap fun i => match i with | .neg c => some c.cls | _ => none

/-- Del of an instantiation. -/
def Match.dels (m : Match) (i : Inst) : List Nat :=
  match m.rule i.rule with
  | some r => (r.del ++ r.mod).map fun k => i.elems[k - 1]?.getD 0
  | none => []

/-- Cls of an instantiation. -/
def Match.classesOf (m : Match) (i : Inst) : List Nat :=
  match m.rule i.rule with
  | some r => r.adds ++ r.mod.filterMap fun k => (r.pos[k - 1]?).map (·.cls)
  | none => []

/-- Whether an admitted instantiation keeps another out. -/
def Match.bars (m : Match) (j i : Inst) : Bool :=
  (m.dels j).any i.elems.contains ||
    (match m.rule i.rule with | some r => r.negClasses.any (m.classesOf j).contains | none => false)

/-- The walk of the order: those admitted, and how many were withdrawn; it stops once `max` are admitted. -/
def Match.admitted (m : Match) (max : Nat) : List Inst → List Inst → Nat → List Inst × Nat
  | [], acc, n => (acc, n)
  | i :: r, acc, n =>
    if acc.length ≥ max then (acc, n)
    else if acc.any fun j => m.bars j i then m.admitted max r acc (n + 1)
    else m.admitted max r (acc ++ [i]) n

/-! ### The network image (R368, R370) -/

/-- What an image may name: the classes declared, the scorers of the node, and whether it has a score table. -/
structure NetEnv where
  classes : List Nat
  scorers : List Nat
  table : Bool
  deriving DecidableEq, Repr

/-- One test of a condition; `bound` lists the variables bound before, and a negated condition binds none (R368, R370). -/
def testOf (neg : Bool) (bound : List Nat) (w : W64) : Option (NetTest × List Nat) :=
  let t : NetTest := { attr := field w 0 4, cond := field w 4 4, var := bit w 8, value := bits w 32 32 }
  let v := t.value.toNat
  if field w 9 23 ≠ 0 ∨ t.attr > 13 ∨ t.cond > 9 then none
  else if t.var then
    if t.cond ≠ 0 ∨ v > 31 then none
    else if bound.contains v then some (t, bound)
    else if neg then none
    else some (t, bound ++ [v])
  else some (t, bound)

/-- `n` tests from a list of words. -/
def testsOf (neg : Bool) : Nat → List Nat → List W64 → Option (List NetTest × List Nat × List W64)
  | 0, bound, ws => some ([], bound, ws)
  | _ + 1, _, [] => none
  | n + 1, bound, w :: ws => do
    let (t, bound) ← testOf neg bound w
    let (ts, bound, ws) ← testsOf neg n bound ws
    some (t :: ts, bound, ws)

/-- A score condition, with `p` positive conditions before it. -/
def scoreOf (env : NetEnv) (p : Nat) (w : W64) : Option NetScore :=
  let n := field w 10 4
  let ks := (List.range 4).map fun i => field w (14 + 4 * i) 4
  let keys := ks.take n
  if field w 30 2 = 0 ∧ 1 ≤ n ∧ n ≤ 4 ∧ (keys.all fun k => decide (1 ≤ k ∧ k ≤ p)) ∧ (ks.drop n).all (· == 0) ∧
      env.table ∧ env.scorers.contains (field w 2 8) ∧ !(f32Val (bits w 32 32)).isNan then
    some { scorer := field w 2 8, keys := keys, theta := bits w 32 32 }
  else none

/-- The conditions of a rule: `n` of them from a list of words, with the number of positive ones and the variables bound so far. -/
def itemsOf (env : NetEnv) : Nat → Nat → List Nat → List W64 → Option (List NetItem × List W64)
  | 0, _, _, ws => some ([], ws)
  | _ + 1, _, _, [] => none
  | n + 1, p, bound, w :: ws =>
    if field w 0 2 = 2 then do
      let c ← scoreOf env p w
      let (r, ws) ← itemsOf env n p bound ws
      some (.score c :: r, ws)
    else if field w 0 2 = 3 ∨ field w 2 2 ≠ 0 ∨ field w 20 44 ≠ 0 ∨ field w 16 4 > 14 ∨ !env.classes.contains (field w 4 12) then none
    else do
      let neg := field w 0 2 == 1
      let (ts, bound, ws) ← testsOf neg (field w 16 4) bound ws
      let c : NetCond := { cls := field w 4 12, tests := ts }
      let (r, ws) ← itemsOf env n (if neg then p else p + 1) bound ws
      some ((if neg then .neg c else .pos c) :: r, ws)

/-- The condition numbers of a mask. -/
def posMask (w : W64) (lo : Nat) : List Nat := ((List.range 15).filter fun i => bit w (lo + i)).map (· + 1)

/-- A rule from its header's two words and the words after them. -/
def ruleOf (env : NetEnv) (lo hi : W64) (ws : List W64) : Option (NetRule × List W64) := do
  let npos := field lo 12 4
  let nneg := field lo 16 3
  let nsc := field lo 19 2
  let nadd := field lo 21 3
  let adds := (List.range 4).map fun i => field hi (16 + 12 * i) 12
  let del := posMask lo 48
  let mod := posMask hi 0
  if npos = 0 ∨ nneg > 4 ∨ nsc > 2 ∨ nadd > 4 ∨ field lo 24 8 ≠ 0 ∨ bit lo 63 ∨ bit hi 15 then none
  else if (del ++ mod).any (· > npos) ∨ del.any mod.contains then none
  else if !(adds.take nadd).all env.classes.contains ∨ (adds.drop nadd).any (· != 0) then none
  else do
    let (items, ws) ← itemsOf env (npos + nneg + nsc) 0 [] ws
    let count (p : NetItem → Bool) : Nat := (items.filter p).length
    if count (fun i => match i with | .pos _ => true | _ => false) = npos ∧ count (fun i => match i with | .neg _ => true | _ => false) = nneg then
      some ({ rule := field lo 0 12, salience := (bits lo 32 16).toInt, del := del, mod := mod, adds := adds.take nadd, items := items }, ws)
    else none

/-- The rules of an image, `n` of them, with no number repeated and nothing left over. -/
def rulesOf (env : NetEnv) : Nat → List Nat → List W64 → Option (List NetRule)
  | 0, _, [] => some []
  | n + 1, seen, lo :: hi :: ws => do
    let (r, ws) ← ruleOf env lo hi ws
    if seen.contains r.rule then none
    else do
      let rs ← rulesOf env n (r.rule :: seen) ws
      some (r :: rs)
  | _, _, _ => none

/-- The 64-bit words of bytes. -/
def wordsOfBytes : Nat → List Byte → List W64
  | 0, _ => []
  | n + 1, bs => word64At bs 0 :: wordsOfBytes n (bs.drop 8)

/-- The greatest length of an image (R370). -/
def maxImage : Nat := 9469968

/-- The length that an image's header gives, if the header is well formed. -/
def imageLength (h : List Byte) : Option Nat :=
  let n := at' h 4 4
  if 1 ≤ at' h 0 4 ∧ at' h 0 4 ≤ 4096 ∧ at' h 8 8 = 0 ∧ n % 8 = 0 ∧ 16 ≤ n ∧ n ≤ maxImage then some n else none

/-- The network of an image, header included. -/
def networkOf (env : NetEnv) (bs : List Byte) : Option (List NetRule) :=
  rulesOf env (at' bs 0 4) [] (wordsOfBytes ((bs.length - 16) / 8) (bs.drop 16))

end Sys2Proof.Machine
end

