-- ==== Sys2Proof/Machine/Match.lean ====
section
/-! DEFINITION. Match engines: working memory, deltas, scores, selection rounds, and major 0x78 (R364 to R367, R371 to R396). -/

namespace Sys2Proof.Machine

/-! ### The engine of a core -/

/-- The match engine of a core. -/
def matchOf (s : State) (c : Nat) : Match := (coreOf s c).match_
/-- The state with a match engine replaced. -/
def setMatch (s : State) (c : Nat) (m : Match) : State := setCore s c { coreOf s c with match_ := m }
/-- The launch of an engine. -/
def Match.launch (m : Match) : Nat := (m.owner.map (·.1.launch)).getD 0

/-- The accessor of an engine (R366, R389). -/
def matchAccessor (s : State) (c : Nat) : Accessor :=
  let m := matchOf s c
  let n : NodeRef := { kind := .match_, home := c, idx := 0 }
  { core := c, die := c / 4, walker := .engine n, who := some n, space := (launchOf s m.launch).space,
    fault := nodeFault s c m.launch ((m.owner.map (·.2)).getD 0) }

/-- A write of an engine to its areas. -/
def matchWrite (s : State) (c : Nat) (va : W64) (bs : List Byte) : Except EngineStop State :=
  (accessWrite s (matchAccessor s c) va bs).map (·.1)

/-- The launch of an engine killed with MATCH_FULL (R52, R365, R367). -/
def matchFull (s : State) (c : Nat) : State := killWith s (matchOf s c).launch 13 0 0xFF 0xFF 0xFF

/-- An engine that cannot reach memory stops, and its launch has an error (R420). -/
def matchLost (s : State) (c : Nat) : State :=
  setMatch (engineUnreachable s (matchOf s c).launch) c { matchOf s c with halted := true }

/-- Whether an engine holds on a fault that is not resolved (R273, R391). -/
def matchHolds (s : State) (c : Nat) : Bool :=
  match (matchOf s c).heldAt with
  | some va => faultKnown s { (matchAccessor s c).fault with va := va }
  | none => false

/-- What an engine's step leaves when an access was not performed. -/
def matchHeld (s : State) (c : Nat) : EngineStop → State
  | .hold t => t
  | .fault t va => setMatch t c { matchOf t c with heldAt := some va }
  | .unreachable => matchLost s c
  | .gone t => setMatch t c { matchOf t c with halted := true }

/-- The conflict set brought up to date, within its limits (R367, R371). -/
def refresh (s : State) (c : Nat) : State :=
  let (m, f) := (matchOf s c).rematch
  let s := setMatch s c m
  if m.tooMany f then matchFull s c else s

/-! ### Working memory (R364, R365, R371, R372) -/

/-- The address of an element. -/
def Match.elemAddr (m : Match) (id : Nat) : W64 := m.wmBase + BitVec.ofNat 64 (64 * id)
/-- The address of a score entry. -/
def Match.entryAddr (m : Match) (slot : Nat) : W64 := m.scoreBase + BitVec.ofNat 64 (64 * slot)

/-- The 16 words of an element (R364). -/
def WmElem.words (e : WmElem) : List W32 :=
  BitVec.ofNat 32 (e.cls + (if e.live then 2 ^ 16 else 0) + e.uflags % 256 * 2 ^ 24) :: BitVec.ofNat 32 e.ts ::
    (List.range 14).map fun i => e.attrs[i]?.getD 0

/-- The 64 bytes of an element. -/
def WmElem.bytes (e : WmElem) : List Byte := e.words.flatMap fun w => leBytes 4 w.toNat

/-- Codes of a score entry's STATE (R374). -/
def EntryState.code : EntryState → Nat
  | .pending => 1 | .valid => 2 | .dead => 3

/-- STATE of a score entry written: none for EMPTY. -/
def setEntryState (s : State) (c slot : Nat) (st : Option EntryState) : Except EngineStop State := do
  let s ← matchWrite s c ((matchOf s c).entryAddr slot + 17) (leBytes 1 ((st.map EntryState.code).getD 0))
  let m := matchOf s c
  .ok (setMatch s c { m with scores := match st, Tab.find? m.scores slot with
    | some st, some e => Tab.put m.scores slot { e with state := st }
    | _, _ => Tab.del m.scores slot })

/-- The score entries whose key holds a retracted element: a pending one becomes dead, a valid one is removed (R372). -/
def dropScores (s : State) (c id : Nat) : Table ScoreEntry → Except EngineStop State
  | [] => .ok s
  | (slot, e) :: r => do
    let s ← (if e.ids.contains id then
      match e.state with
      | .pending => setEntryState s c slot (some .dead)
      | .valid => setEntryState s c slot none
      | .dead => .ok s
    else .ok s)
    dropScores s c id r

/-- A retraction: LIVE is cleared, the element's score entries go, and what was built from it (R365, R372). -/
def retract (s : State) (c id : Nat) : Except EngineStop State := do
  let m := matchOf s c
  let s ← matchWrite s c (m.elemAddr id + 2) [0]
  let s ← dropScores s c id m.scores
  let m := matchOf s c
  let m := match Tab.find? m.elems id with
    | some e => { m with elems := Tab.put m.elems id { e with live := false } }
    | none => m
  .ok (setMatch s c { m with known := m.known.filter fun i => !i.elems.contains id, conflict := m.conflict.filter fun i => !i.elems.contains id,
                             passed := m.passed.filter fun p => !p.1.elems.contains id, failed := m.failed.filter fun p => !p.1.elems.contains id,
                             waits := m.waits.filter fun w => !w.inst.elems.contains id })

/-- An assertion: the element is written with the next timestamp (R364, R365). -/
def assertElem (s : State) (c id cls uflags : Nat) (attrs : List W32) : Except EngineStop State := do
  let m := matchOf s c
  if m.tsNext > 2 ^ 32 - 1 then .ok (matchFull s c)
  else do
    let e : WmElem := { cls := cls, uflags := uflags, ts := m.tsNext, attrs := attrs, live := true }
    let s ← matchWrite s c (m.elemAddr id) e.bytes
    let m := matchOf s c
    .ok (setMatch s c { m with elems := Tab.put m.elems id e, tsNext := m.tsNext + 1 })

/-- Whether an element is live. -/
def Match.liveElem (m : Match) (id : Nat) : Bool := ((Tab.find? m.elems id).map (·.live)).getD false

/-- A delta applied to working memory; `between` brings the network up to date between the two halves of a modification (R371, R380,
R381). NETLD's assertions write nothing (R386). -/
def applyDelta (between : State → State) (s : State) (c : Nat) : Delta → Except EngineStop State
  | .assert id cls uflags attrs => assertElem s c id cls uflags attrs
  | .retract id =>
    if (matchOf s c).liveElem id then do
      let s ← retract s c id
      let m := matchOf s c
      .ok (setMatch s c { m with freed := m.freed ++ [id] })
    else .ok s
  | .modify id cls uflags attrs =>
    if (matchOf s c).liveElem id then do
      let s ← retract s c id
      assertElem (between s) c id cls uflags attrs
    else .ok s
  | .load _ => .ok s

/-! ### Scores (R373 to R377) -/

/-- The four slots that a key probes (R374). -/
def Match.probes (m : Match) (scorer : Nat) (ids : List Nat) : List Nat :=
  (List.range 4).map fun i => (Config.scoreHash (scorer :: ids) + i) % m.scoreEntries

/-- The slot of a key's entry in one of the states given. -/
def Match.entryOf (m : Match) (scorer : Nat) (ids : List Nat) (ok : EntryState → Bool) : Option (Nat × ScoreEntry) :=
  (m.probes scorer ids).findSome? fun i =>
    match Tab.find? m.scores i with
    | some e => if e.scorer = scorer ∧ e.ids = ids ∧ ok e.state then some (i, e) else none
    | none => none

/-- Whether a key's entry can be found by a lookup. -/
def EntryState.found : EntryState → Bool
  | .dead => false
  | _ => true

/-- The slot that a new entry takes: the first that is EMPTY or DEAD, or else the first VALID one; none while all four are PENDING. -/
def Match.freeSlot (m : Match) (scorer : Nat) (ids : List Nat) : Option Nat :=
  let ps := m.probes scorer ids
  let st (i : Nat) : Option EntryState := (Tab.find? m.scores i).map (·.state)
  match ps.find? fun i => st i == none || st i == some .dead with
  | some i => some i
  | none => ps.find? fun i => st i == some .valid

/-- The bytes of an entry before its VALUE (R374). -/
def entryHead (scorer : Nat) (ids : List Nat) (st : EntryState) : List Byte :=
  (List.range 4).flatMap (fun i => leBytes 4 (ids[i]?.getD 0xFFFFFFFF)) ++ leBytes 1 scorer ++ leBytes 1 st.code ++ [0, 0]

/-- A new entry written and kept. VALUE keeps its bytes, but for one that is VALID at once. -/
def writeEntry (s : State) (c slot scorer : Nat) (ids : List Nat) (st : EntryState) (theta : W32) (value : Option W32) :
    Except EngineStop State := do
  let va := (matchOf s c).entryAddr slot
  let s ← matchWrite s c va (entryHead scorer ids st)
  let s ← matchWrite s c (va + 24) (leBytes 4 theta.toNat ++ List.replicate 28 0)
  let s ← match value with | some v => matchWrite s c (va + 20) (leBytes 4 v.toNat) | none => .ok s
  let m := matchOf s c
  let e : ScoreEntry := { scorer := scorer, ids := ids, state := st, sent := false, theta := theta }
  .ok (setMatch s c { m with scores := Tab.put m.scores slot e })

/-- VALUE of an entry. -/
def entryValue (s : State) (c slot : Nat) : Except EngineStop (State × W32) := do
  let (s, bs) ← accessRead s (matchAccessor s c) ((matchOf s c).entryAddr slot + 20) 4
  .ok (s, BitVec.ofNat 32 (leNat bs))

/-- A point tested with a value (R377). -/
def Match.test (m : Match) (p : Inst × Nat) (v : W32) : Match :=
  match m.scoreAt p with
  | some (c, _) => if scorePasses v c.theta then { m with passed := m.passed ++ [p] } else { m with failed := m.failed ++ [p] }
  | none => m

/-- The partial matches that wait on an entry tested, and the network brought up to date (R376). -/
def testWaits (s : State) (c slot : Nat) (v : W32) : State :=
  let m := matchOf s c
  let (mine, others) := m.waits.partition (·.entry == slot)
  refresh (setMatch s c (mine.foldl (fun m w => m.test (w.inst, w.cond) v) { m with waits := others })) c

/-- The points that no outcome and no wait has settled. -/
def Match.open (m : Match) : List (Inst × Nat) :=
  m.find.points.filter fun p => (m.outcome p).isNone && !m.waits.any fun w => w.inst == p.1 && w.cond == p.2

/-- Whether a point's lookup can go on: its entry is there, or a slot is free for it (R374). -/
def Match.canLookup (m : Match) (p : Inst × Nat) : Bool :=
  match m.scoreAt p with
  | some (c, ids) => (m.entryOf c.scorer ids EntryState.found).isSome || (m.freeSlot c.scorer ids).isSome
  | none => false

/-- The lookup of a point (R373). -/
def lookup (s : State) (c : Nat) (p : Inst × Nat) : Except EngineStop State := do
  let m := matchOf s c
  let wait (s : State) (slot : Nat) : State :=
    let m := matchOf s c
    setMatch s c { m with waits := m.waits ++ [{ inst := p.1, cond := p.2, entry := slot }] }
  match m.scoreAt p with
  | none => .ok s
  | some (k, ids) =>
    match m.entryOf k.scorer ids EntryState.found with
    | some (slot, e) =>
      if e.state = .valid then do
        let (s, v) ← entryValue s c slot
        .ok (refresh (setMatch s c ((matchOf s c).test p v)) c)
      else .ok (wait s slot)
    | none =>
      match m.freeSlot k.scorer ids with
      | some slot => do
        let s ← writeEntry s c slot k.scorer ids .pending k.theta none
        .ok (wait s slot)
      | none => .ok s

/-! ### The steps of an engine (R371, R375, R376, R378 to R380) -/

/-- A partial match written to its place of the beta area: 64 bytes, whose contents the manual does not give (R366, R367; log 94). -/
def writeBeta (s : State) (c i : Nat) : Except EngineStop State := do
  let s ← matchWrite s c ((matchOf s c).betaBase + BitVec.ofNat 64 (64 * i))
    ((List.range 8).flatMap fun j => leBytes 8 (Config.freeWord s.clock (80 + j)).toNat)
  .ok (setMatch s c { matchOf s c with betaDue := (matchOf s c).betaDue.drop 1 })

/-- The engine as a step leaves it, or held. -/
def orHeld (s : State) (c : Nat) : Except EngineStop State → State
  | .ok t => t
  | .error e => matchHeld s c e

/-- DELTA_PROPAGATE (R366, R371, R373): what is left of the delta under way goes on: a partial match is written, or one that has reached a
score condition is looked up; and then the next delta is applied and the network brought up to date. -/
def execDeltaPropagate (core : Nat) (s : State) : Host.Outcome State Fault Refusal :=
  let m := matchOf s core
  .next (match m.betaDue, m.open.find? m.canLookup, m.deltas with
    | i :: _, _, _ => orHeld s core (writeBeta s core i)
    | [], some p, _ => orHeld s core (lookup s core p)
    | [], none, d :: r =>
      orHeld s core ((applyDelta (refresh · core) s core d).map fun t => refresh (setMatch t core { matchOf t core with deltas := r }) core)
    | [], none, [] => s)

/-- Whether an engine's current delta is propagated, so far as its lookups can go on (R371). -/
def Match.between (m : Match) : Bool := m.betaDue.isEmpty && !m.open.any m.canLookup

/-- Whether an engine has no delta and no lookup that can go on. -/
def Match.settled (m : Match) : Bool := m.deltas.isEmpty && m.between

/-- Whether an engine propagates nothing at all. -/
def Match.idle (m : Match) : Bool := m.deltas.isEmpty && m.betaDue.isEmpty && m.open.isEmpty

/-- The packet of a scorer launch (R375). -/
def scorerPacket (m : Match) (prio : Nat) (k : Scorer) (slot : Nat) : List Byte :=
  let e := m.entryAddr slot
  [1, 0] ++ leBytes 1 prio ++ [0] ++ leBytes 1 k.w ++ leBytes 1 k.h ++ [0, 0] ++ leBytes 8 k.image.toNat ++ leBytes 8 e.toNat ++
    leBytes 8 (e + 56).toNat ++ List.replicate 32 0

/-- An entry becomes VALID with a value written, and its waiting partial matches are tested. -/
def validate (s : State) (c slot : Nat) (v : W32) : Except EngineStop State := do
  let s ← matchWrite s c ((matchOf s c).entryAddr slot + 20) (leBytes 4 v.toNat)
  let s ← setEntryState s c slot (some .valid)
  .ok (testWaits s c slot v)

/-- The queue of an engine's scorer launches (R367); an address below the queue table names none. -/
def scorerQueue (s : State) (c : Nat) : Except EngineStop W64 := do
  let pa ← accessPa s (matchAccessor s c) (matchOf s c).squeue false
  .ok (if pa < s.glob.qtBase.toNat then BitVec.allOnes 64 else BitVec.ofNat 64 ((pa - s.glob.qtBase.toNat) / 64))

/-- A pending entry's scorer packet written once every store of the engine is registered, which is its release at system scope (R258, R417);
on FULL or LIMIT it is written again later, and on QUEUE the entry becomes VALID with the canonical NaN (R375). -/
def sendScorer (s : State) (c slot : Nat) (k : Scorer) : Except EngineStop State := do
  let m := matchOf s c
  let q ← scorerQueue s c
  let s ← matchWrite s c (m.entryAddr slot + 56) (List.replicate 8 0)
  if !nodeAcked s (matchAccessor s c) then .error (.hold s)
  else
    match publish s (c / 4) m.launch q (scorerPacket m (launchOf s m.launch).prio k slot) with
    | .error (.stall t) => .error (.hold t)
    | .error _ => .error .unreachable
    | .ok (t, .sent _) =>
      let m := matchOf t c
      .ok (match Tab.find? m.scores slot with
        | some e => setMatch t c { m with scores := Tab.put m.scores slot { e with sent := true } }
        | none => t)
    | .ok (t, .queue) => validate t c slot 0x7FC00000
    | .ok (t, _) => .ok t

/-- SCORER_PACKET_WRITE (R375). -/
def execScorerPacketWrite (core entry : Nat) (s : State) : Host.Outcome State Fault Refusal :=
  let m := matchOf s core
  .next (match Tab.find? m.scores entry with
    | some e =>
      match e.state == .pending && !e.sent, m.scorers.find? (·.id == e.scorer) with
      | true, some k =>
        orHeld s core (sendScorer s core entry k)
      | _, _ => s
    | none => s)

/-- What a changed SIG does to an entry (R376). -/
def sigChanged (s : State) (c slot : Nat) (e : ScoreEntry) : Except EngineStop State := do
  let s := setCore s c (Core.dropAllClean (coreOf s c))
  let (s, bs) ← accessRead s (matchAccessor s c) ((matchOf s c).entryAddr slot + 56) 8
  if leNat bs = 0 then .ok s
  else if e.state = .dead then setEntryState s c slot none
  else if leNat (bs.drop 4) ≠ 0 then validate s c slot 0x7FC00000
  else do
    let (s, v) ← entryValue s c slot
    let s ← setEntryState s c slot (some .valid)
    .ok (testWaits s c slot v)

/-- SIG_CHANGE (R376): an acquire at system scope, and then the entry becomes VALID, or EMPTY if it was DEAD. -/
def execSigChange (core entry : Nat) (s : State) : Host.Outcome State Fault Refusal :=
  .next (match Tab.find? (matchOf s core).scores entry with
    | some e =>
      if e.sent && e.state != .valid then orHeld s core (sigChanged s core entry e) else s
    | none => s)

/-- Whether every firing of the round has been taken and closed (R378). -/
def Match.roundClosed (m : Match) : Bool := !m.roundExists || m.firings.all fun f => f.taken && f.closed

/-- What a waiting AGRND can do next: apply the round's buffered deltas, or select. -/
def Match.canSelect (m : Match) : Bool :=
  !m.rounds.isEmpty && m.roundClosed && m.deltas.isEmpty && m.betaDue.isEmpty &&
    ((m.roundExists && m.firings.any fun f => !f.deltas.isEmpty) || (m.open.isEmpty && m.waits.isEmpty))

/-- The AGRND report (R387). -/
def roundReport (size withdrawn admitted : Nat) : W64 := BitVec.ofNat 64 (size * 2 ^ 32 + withdrawn % 2 ^ 24 * 2 ^ 8 + admitted)

/-- Steps 4 and 5 of a round (R379, R394). -/
def Match.select (m : Match) (max : Nat) : Match × W64 :=
  let (js, n) := m.admitted max m.ordered [] 0
  ({ m with conflict := m.conflict.filter fun i => !js.contains i,
            firings := js.map fun i => { inst := i, taken := false, closed := false, deltas := [] },
            firingRound := m.round, round := m.round + 1, roundExists := true, rounds := m.rounds.drop 1 },
   roundReport m.conflict.length n js.length)

/-- SELECTION_ROUND (R256, R378 to R380, R389, R395): the oldest AGRND goes on: the closed round's buffered deltas enter the engine in the
order of its firings; and once nothing propagates, no partial match waits and every store of the engine is registered, the round is selected
and reported. -/
def execSelectionRound (core : Nat) (s : State) : Host.Outcome State Fault Refusal :=
  let m := matchOf s core
  .next (match m.rounds with
    | [] => s
    | r :: _ =>
      if !m.canSelect then s
      else if m.roundExists && m.firings.any fun f => !f.deltas.isEmpty then
        setMatch s core { m with deltas := m.firings.flatMap (·.deltas), firings := m.firings.map fun f => { f with deltas := [] } }
      else if !nodeAcked s (matchAccessor s core) then s
      else
        let (m', report) := m.select r.maxAdmit
        let s := giveScalar (setMatch s core { m' with lastFire := s.time }) r.task r.producer (.data report)
        breakpoint s 4 (ownerCnode s m.owner) core m.launch none)

/-! ### Instructions: what they share (R312, R314, R382, R389, R393) -/

/-- Whether a NETLD of another task is under way at an engine: it came first, and later commands wait (R393). -/
def Match.taken (m : Match) (r : TaskRef) : Bool := m.loading.any (·.task != r)

/-- A command to the match engine that a node id names: the engine must run; the command releases at a scope (R389). -/
def matchIssue (s : State) (node : W64) (r : TaskRef) (scope : Scope) (x : Nat → Match → Exec) : Exec := do
  let n ← nodeOr s r node [.match_]
  memGate s .rel scope
  if (matchOf s n.home).halted || (matchOf s n.home).taken r then .error (.stall s) else x n.home { matchOf s n.home with lastArrive := s.time }

/-- A command whose node id is field B. -/
def matchB (o : Operands) (s : State) (scope : Scope) (x : TaskRef → Nat → Match → Exec) : Host.Outcome State Fault Refusal :=
  engineIssue o s fun r => do
    let b ← dataOf (scalarOf s o.b)
    matchIssue s b r scope (x r)

/-- The engine takes no command that must follow its deltas until they are propagated (R393); a NETLD under way goes on. -/
def whenIdle (s : State) (m : Match) (x : Exec) : Exec := if m.idle || m.loading.isSome then x else .error (.stall s)

/-- A command done: the engine as it leaves it, and its destination's value (R121). -/
def matchDone (s : State) (o : Operands) (c : Nat) (m : Match) (d : Scalar) : Exec := .ok (retire (produceS (setMatch s c m) o.dst d))

/-- A destination's value that the engine of a node gives once its deltas are applied and every write of them is registered (R256). -/
def produceAfter (s : State) (d : Dst) (node : Nat) (x : Scalar) : State :=
  match d with
  | .s i => startProducer s d (.delta node (.scalar i x)) none
  | _ => s

/-- A delta accepted: one that is buffered in a firing is reported at once, and another once it has reached memory (R256, R385). -/
def deltaTaken (s : State) (o : Operands) (c : Nat) (m : Match) (f : Option (Nat × Firing)) (d : Delta) (x : W64) : Exec :=
  let m' := match f with
    | none => { m with deltas := m.deltas ++ [d] }
    | some (i, _) => { m with firings := m.firings.modify i fun f => { f with deltas := f.deltas ++ [d] } }
  match f, scalarOf s o.b with
  | none, .data n => .ok (retire (produceAfter (setMatch s c m') o.dst n.toNat (.data x)))
  | _, _ => matchDone s o c m' (.data x)

/-- An element id below WMCAP, or ILLOP (R383). -/
def elemId (m : Match) (w : W64) : Except Stop Nat := if w.toNat < m.wmCap then .ok w.toNat else illop

/-- The handle of a firing (R387, R394). -/
def Match.handle (m : Match) (i : Nat) (f : Firing) : W64 :=
  BitVec.ofNat 64 (m.firingRound % 65536 * 2 ^ 32 + f.inst.rule * 2 ^ 16 + i * 2 ^ 8 + f.inst.elems.length)

/-- The open firing that a handle names: taken, and not closed. -/
def Match.openFiring (m : Match) (h : W64) : Option (Nat × Firing) :=
  (m.firings.zipIdx.find? fun (f, i) => f.taken && !f.closed && m.roundExists && m.handle i f == h).map fun (f, i) => (i, f)

/-- The firing of a handle, or ILLOP (R385, R387). -/
def firingOr (m : Match) (h : W64) : Except Stop (Nat × Firing) :=
  match m.openFiring h with
  | some x => .ok x
  | none => illop

/-- The elements that conditions of a firing name. -/
def Firing.at (f : Firing) (ks : List Nat) : List Nat := ks.map fun k => f.inst.elems[k - 1]?.getD 0

/-- The firing that field C names under FH. -/
def handleOf (s : State) (o : Operands) (m : Match) : Except Stop (Option (Nat × Firing)) :=
  if Mod.arv o.mod then do
    let h ← dataOf (scalarOf s o.c)
    (firingOr m h).map some
  else .ok none

/-- Without FH, a delta enters an engine that propagates nothing. -/
def takeWhen (s : State) (o : Operands) (m : Match) (x : Exec) : Exec := if Mod.arv o.mod then x else whenIdle s m x

/-! ### WMCLASS, WMADD, WMDEL, WMUPD, WMGET (R383 to R386) -/

/-- WMCLASS (R383). -/
def execWmclass (o : Operands) (s : State) : Host.Outcome State Fault Refusal :=
  matchB o s .core fun _ c m => do
    let a ← dataOf (scalarOf s o.a)
    let w ← dataOf (scalarOf s o.c)
    check (decide (1 ≤ a.toNat ∧ a.toNat ≤ 4095 ∧ w.toNat ≤ 14)) .illop
    match Tab.find? m.classes a.toNat with
    | none => .ok (retire (setMatch s c { m with classes := Tab.put m.classes a.toNat w.toNat }))
    | some n => if n = w.toNat then .ok (retire s) else illop

/-- The class, flags and attributes of a descriptor; lanes beyond the class's attributes are zero (R384). -/
def elemOf (m : Match) (d : List W32) : Except Stop (Nat × Nat × List W32) :=
  let cls := field (dlane d 0) 0 12
  match Tab.find? m.classes cls with
  | some n =>
    if field (dlane d 0) 12 12 = 0 ∧ ((d.drop (2 + n)).all (· == 0)) then .ok (cls, field (dlane d 0) 24 8, (d.drop 2).take 14) else illop
  | none => illop

/-- The id that WMADD takes: the next that has never been used, or else the one freed first (R365). -/
def Match.takeId (m : Match) : Option (Nat × Match) :=
  if m.nextId < m.wmCap then some (m.nextId, { m with nextId := m.nextId + 1 })
  else
    match m.freed with
    | i :: r => some (i, { m with freed := r })
    | [] => none

/-- WMADD (R381, R385). -/
def execWmadd (o : Operands) (s : State) : Host.Outcome State Fault Refusal :=
  matchB o s .core fun _ c m => do
    let d ← descriptor (vectorOf s o.a)
    check (dlane d 1 == 0) .illop
    let f ← handleOf s o m
    let (cls, fl, attrs) ← elemOf m d
    (match f with
      | some (_, f) => check (((m.rule f.inst.rule).map fun r => r.adds.contains cls).getD false) .illop
      | none => .ok ())
    takeWhen s o m (match m.takeId with
      | some (id, m) => deltaTaken s o c m f (.assert id cls fl attrs) (BitVec.ofNat 64 id)
      | none => matchDone s o c m .null)

/-- WMDEL (R381, R385). -/
def execWmdel (o : Operands) (s : State) : Host.Outcome State Fault Refusal :=
  matchB o s .core fun _ c m => do
    let id ← elemId m (← dataOf (scalarOf s o.a))
    let f ← handleOf s o m
    (match f with
      | some (_, f) => check (((m.rule f.inst.rule).map fun r => (f.at r.del).contains id).getD false) .illop
      | none => .ok ())
    takeWhen s o m (if f.isNone && !m.liveElem id then matchDone s o c m .null
      else deltaTaken s o c m f (.retract id) (BitVec.ofNat 64 id))

/-- WMUPD (R381, R385). -/
def execWmupd (o : Operands) (s : State) : Host.Outcome State Fault Refusal :=
  matchB o s .core fun _ c m => do
    let d ← descriptor (vectorOf s o.a)
    let id ← elemId m ((dlane d 1).setWidth 64)
    let f ← handleOf s o m
    let (cls, fl, attrs) ← elemOf m d
    (match f with
      | some (_, f) => check (((m.rule f.inst.rule).map fun r => (f.at r.mod).contains id).getD false) .illop
      | none => .ok ())
    takeWhen s o m (do
      check (((Tab.find? m.elems id).map fun e => e.cls == cls).getD false) .illop
      if f.isNone && !m.liveElem id then matchDone s o c m .null
      else deltaTaken s o c m f (.modify id cls fl attrs) (BitVec.ofNat 64 id))

/-- WMGET (R386). -/
def execWmget (o : Operands) (s : State) : Host.Outcome State Fault Refusal :=
  matchB o s .core fun _ c m => do
    let id ← elemId m (← dataOf (scalarOf s o.a))
    let w ← dataOf (scalarOf s o.c)
    check (decide (w.toNat ≤ 16)) .illop
    whenIdle s m (
      if w.toNat = 16 then matchDone s o c m (.data (m.elemAddr id))
      else
        match Tab.find? m.elems id with
        | some e => matchDone s o c m (if e.live then .data ((e.words[w.toNat]?.getD 0).setWidth 64) else .null)
        | none => matchDone s o c m .null)

/-! ### NETLD (R370, R386) -/

/-- The bytes of the image read so far kept with the NETLD. -/
def keepImage (s : State) (c : Nat) (r : TaskRef) (bs : List Byte) (net : Option (List NetRule)) : State :=
  setMatch s c { matchOf s c with loading := some { task := r, bytes := bs, net := net } }

/-- An image read on from the bytes `bs` of it, to `n` bytes, in pieces of at most 64 KiB; `fuel` pieces at most. What has been read is kept
where a piece is not there yet. -/
def readOn (c : Nat) (r : TaskRef) (va : W64) : Nat → State → List Byte → Nat → Except EngineStop (State × List Byte)
  | 0, s, bs, _ => .ok (s, bs)
  | fuel + 1, s, bs, n =>
    if n ≤ bs.length then .ok (s, bs)
    else do
      let at_ := va + BitVec.ofNat 64 bs.length
      let (s, more) ← accessRead s (matchAccessor s c) at_ (min (n - bs.length) (65536 - at_.toNat % 65536))
      readOn c r va fuel (keepImage s c r (bs ++ more) none) (bs ++ more) n

/-- The network that an image holds: none where it breaks R370. -/
def readNetwork (s : State) (c : Nat) (r : TaskRef) (m : Match) (va : W64) : Except EngineStop (State × Option (List NetRule)) :=
  match m.loading.bind (·.net) with
  | some net => .ok (s, some net)
  | none => do
    let (s, h) ← readOn c r va 2 s ((m.loading.map (·.bytes)).getD []) 16
    match imageLength h with
    | none => .ok (s, none)
    | some n => do
      let (s, bs) ← readOn c r va (n / 65536 + 2) s h n
      .ok (s, networkOf { classes := m.classes.map (·.1), scorers := m.scorers.map (·.id), table := m.scoreEntries != 0 } bs)

/-- The oldest buffered delta of the round's firings, and the firings without it (R380). -/
def takeBuffered : List Firing → Option (Delta × List Firing)
  | [] => none
  | f :: r =>
    match f.deltas with
    | d :: ds => some (d, { f with deltas := ds } :: r)
    | [] => (takeBuffered r).map fun (d, r) => (d, f :: r)

/-- The buffered deltas of the round's firings applied to working memory, in order, `fuel` of them at most; those that are applied are
buffered no more. -/
def applyBuffered (c : Nat) : Nat → State → Except EngineStop State
  | 0, s => .ok s
  | fuel + 1, s =>
    match takeBuffered (matchOf s c).firings with
    | none => .ok s
    | some (d, fs) => do
      let s ← applyDelta id s c d
      applyBuffered c fuel (setMatch s c { matchOf s c with firings := fs })

/-- The score table discarded: a pending entry is dead, so that its scorer's completion changes nothing, and the others are empty
(R376, R386). -/
def clearScores (s : State) (c : Nat) : Table ScoreEntry → Except EngineStop State
  | [] => .ok s
  | (slot, e) :: r => do
    let s ← (match e.state with
      | .valid => setEntryState s c slot none
      | .pending => setEntryState s c slot (some .dead)
      | .dead => .ok s)
    clearScores s c r

/-- The live elements of an engine, in id order (R386). -/
def Match.liveIds (m : Match) : List Nat := (m.elems.filter fun (_, e) => e.live).map (·.1)

/-- A network loaded (R386): the buffered deltas of a closed round are applied and the score table is discarded; the new network then stands,
with the assertion of every live element, in id order, to come. -/
def loadNetwork (s : State) (c : Nat) (net : List NetRule) : Except EngineStop State := do
  let m := matchOf s c
  let s ← if m.roundExists && m.roundClosed then applyBuffered c ((m.firings.map (·.deltas.length)).foldl (· + ·) 0) s else .ok s
  let s ← clearScores s c (matchOf s c).scores
  let m := matchOf s c
  let ts := m.elems.foldl (fun t (_, e) => if e.live then max t e.ts else t) 0
  .ok (setMatch s c { m with net := net, known := [], conflict := [], passed := [], failed := [], waits := [], firings := [], round := 0,
                             roundExists := false, firingRound := 0, tsNext := ts + 1, loading := none, betaDue := [],
                             deltas := m.liveIds.map Delta.load })

/-- What an instruction does when its engine's access is not performed: it tries again, or the engine has stopped. -/
def engineStall {α : Type} (s : State) (c : Nat) (e : EngineStop) : Except Stop α := .error (.stall (matchHeld s c e))

/-- NETLD (R370, R386): the image is read and checked; then the network is loaded, and reported once every live element has been asserted
into it. -/
def execNetld (o : Operands) (s : State) : Host.Outcome State Fault Refusal :=
  matchB o s .core fun r c m => do
    let va ← dataOf (scalarOf s o.a)
    check (canonical va) .illop
    check (!m.firings.any fun f => f.taken && !f.closed) .illop
    aligned va 8
    if !m.rounds.isEmpty then .error (.stall s) else .ok ()
    let node ← dataOf (scalarOf s o.b)
    whenIdle s m (match readNetwork s c r m va with
      | .error e => engineStall s c e
      | .ok (t, none) => if m.loading.isNone then illop else .ok (takeTrap .illop 3 0 (setMatch t c { matchOf t c with loading := none }))
      | .ok (t, some net) =>
        match loadNetwork (keepImage t c r [] (some net)) c net with
        | .error e => engineStall s c e
        | .ok u => .ok (retire (produceAfter u o.dst node.toNat (.data (BitVec.ofNat 64 net.length)))))

/-! ### AGRND, AGNEXT, AGDONE (R378, R387) -/

/-- AGRND (R378, R383, R384): the node id and MAXADMIT lie in the descriptor. -/
def execAgrnd (o : Operands) (s : State) : Host.Outcome State Fault Refusal :=
  engineIssue o s fun r => do
    let d ← descriptor (vectorOf s o.a)
    let n := (dlane d 1).toNat
    check (decide ((dlane d 0).toNat < 16 ∧ 1 ≤ n ∧ n ≤ 32) && (d.drop 2).all (· == 0)) .illop
    matchIssue s ((dlane d 0).setWidth 64) r .core fun c m => do
      let (s, id) := engineProducer s o.dst
      .ok (retire (setMatch s c { m with rounds := m.rounds ++ [{ task := r, producer := id, maxAdmit := n }] }))

/-- The registers that AGNEXT writes: 16 from its destination. -/
def nextRegs (i : Fin 64) : List (Fin 64) := (List.range 16).filterMap fun j => if h : i.val + j < 64 then some ⟨i.val + j, h⟩ else none

/-- The values of AGNEXT, register by register: those that are not written keep theirs (R387). -/
def nextFills (s : State) (i : Fin 64) (xs : List W64) : List Fill :=
  (nextRegs i).zipIdx.map fun (j, n) =>
    match xs[n]? with
    | some w => .scalar j (.data w)
    | none => .scalar j ((thread s).regs.s.get j).val

/-- AGNEXT's registers empty and its values to come; the fill of the first acquires at region scope (R387, R389). -/
def startNext (s : State) (fs : List Fill) : State :=
  (fs.zipIdx).foldl (fun s (f, n) => startProducer s (Fill.dst f) (.ready f) (if n = 0 then some .region else none)) s

/-- The registers of AGNEXT must be full (R121). -/
def nextReady (s : State) (i : Fin 64) : Except Stop Unit :=
  match (nextRegs i).find? fun j => !((thread s).regs.s.get j).full with
  | some j => .error (.wait (.register (.s j)))
  | none => .ok ()

/-- AGNEXT (R387, R390): the next firing that no task has taken. -/
def execAgnext (o : Operands) (s : State) : Host.Outcome State Fault Refusal :=
  matchB o s .core fun _ c m =>
    match o.dst with
    | .s i => do
      check (decide (i.val ≤ 48)) .illop
      nextReady s i
      match m.firings.findIdx? fun f => !f.taken with
      | some n =>
        let f := m.firings[n]?.getD { inst := { rule := 0, elems := [] }, taken := false, closed := false, deltas := [] }
        let m' := { m with firings := m.firings.modify n fun f => { f with taken := true } }
        .ok (retire (startNext (setMatch s c m') (nextFills s i (m.handle n f :: f.inst.elems.map (BitVec.ofNat 64)))))
      | none => .ok (retire (startNext (setMatch s c m) (nextFills s i [0x8000000000000000])))
    | _ => illop

/-- AGDONE (R387, R389): a release at region scope. -/
def execAgdone (o : Operands) (s : State) : Host.Outcome State Fault Refusal :=
  matchB o s .region fun _ c m => do
    let (i, _) ← firingOr m (← dataOf (scalarOf s o.a))
    .ok (retire (setMatch s c { m with firings := m.firings.modify i fun f => { f with closed := true } }))

/-! ### SCGET and SCPUT (R388) -/

/-- The scorer and ids of a key descriptor (R384). -/
def keyOf (m : Match) (d : List W32) : Except Stop (Nat × List Nat) :=
  let ks := ((d.drop 1).take 4).map (·.toNat)
  let used := ks.takeWhile (· != 0xFFFFFFFF)
  if (dlane d 0).toNat < 256 ∧ !used.isEmpty ∧ (used.all fun k => decide (k < m.wmCap)) ∧ (ks.drop used.length).all (· == 0xFFFFFFFF) ∧
      (d.drop 5).all (· == 0) ∧ m.scoreEntries ≠ 0 then
    .ok ((dlane d 0).toNat, used)
  else illop

/-- The engine takes a score command once its deltas are applied and every lookup that can go on has (R393). -/
def whenSettled (s : State) (m : Match) (x : Exec) : Exec := if m.settled then x else .error (.stall s)

/-- SCGET (R388). -/
def execScget (o : Operands) (s : State) : Host.Outcome State Fault Refusal :=
  matchB o s .core fun _ c m => do
    let (k, ids) ← keyOf m (← descriptor (vectorOf s o.a))
    whenSettled s m (match m.entryOf k ids (· == .valid) with
      | some (slot, _) =>
        match entryValue s c slot with
        | .ok (t, v) => .ok (retire (produceS t o.dst (.data (v.setWidth 64))))
        | .error e => engineStall s c e
      | none => matchDone s o c m .null)

/-- What SCPUT does to a key's entry (R388). -/
def putScore (s : State) (c : Nat) (m : Match) (k : Nat) (ids : List Nat) (v : W32) : Except Stop (Except EngineStop State) :=
  match (m.entryOf k ids EntryState.found).or (m.entryOf k ids (· == .dead)) with
  | some (slot, e) =>
    match e.state with
    | .pending => .ok (validate s c slot v)
    | .valid => .ok (matchWrite s c (m.entryAddr slot + 20) (leBytes 4 v.toNat))
    | .dead => .ok (.ok s)
  | none =>
    match m.freeSlot k ids with
    | some slot => .ok (writeEntry s c slot k ids .valid 0 (some v))
    | none => .error (.stall s)

/-- SCPUT (R388). -/
def execScput (o : Operands) (s : State) : Host.Outcome State Fault Refusal :=
  matchB o s .core fun _ c m => do
    let (k, ids) ← keyOf m (← descriptor (vectorOf s o.a))
    let v := bits (← dataOf (scalarOf s o.c)) 0 32
    whenSettled s m (match putScore s c m k ids v with
      | .error e => .error e
      | .ok (.ok t) => .ok (retire t)
      | .ok (.error e) => engineStall s c e)

end Sys2Proof.Machine
end

