-- ==== Sys2Proof/Machine/Image.lean ====
section
/-! DEFINITION. The configuration packets of a graph image: their form, and what a site and an engine node keep of them (R34 to R37, R133 to
R137, R429, R430). -/

namespace Sys2Proof.Machine

/-! ### A packet's fields (R34, R35) -/

/-- Lane `i` of a packet. -/
def pktLane (p : PacketAt) (i : Nat) : W32 := p.lanes[i]?.getD 0
/-- BODY of a descriptor. -/
def bodyOf (d : W32) : Nat := field d 16 6
/-- TYPE of a descriptor. -/
def typeOf (d : W32) : Nat := field d 8 4
/-- The logical site that a descriptor names. -/
def destOf (d : W32) : Nat × Nat := (field d 0 4, field d 4 4)

/-- Whether a word has bits of a mask only. -/
def only (w mask : W32) : Bool := w &&& ~~~mask == 0

/-- Whether BODY fits the kind and part of a NODECFG (R136). A stream program's has one pair of lanes for each dimension. -/
def nodeBodyOk (kind part body : Nat) (lane4 : W32) : Bool :=
  match kind with
  | 0 => part == 0 && body == 0
  | 1 => part == 0 && body == 2
  | 2 => part == 0 && body == 6
  | 3 => part == 0 && body == 0
  | 4 => part == 0 && body == 7 + 2 * field lane4 5 2
  | 5 => if part = 0 then body == 16 else decide (part ≤ 18) && body % 4 == 0 && decide (4 ≤ body ∧ body ≤ 60)
  | _ => false

/-- Whether BODY and lane 1 fit a type (R36, R37, R40, R133). -/
def bodyOk (ls : List W32) : Bool :=
  let d := ls[0]?.getD 0
  let l1 := ls[1]?.getD 0
  let body := bodyOf d
  match typeOf d with
  | 0 =>
    only l1 0x30F &&
      (match field l1 8 2 with
       | 0 => decide (10 ≤ body ∧ body ≤ 58) && body % 4 == 2
       | 3 => field l1 0 4 == 0 && (body == 2 || body == 4)
       | _ => decide (4 ≤ body ∧ body ≤ 60) && body % 4 == 0)
  | 1 => decide (4 ≤ body ∧ body ≤ 60) && body % 4 == 0 && decide (l1.toNat + body / 4 ≤ 1024)
  | 2 => body == 1 && decide (l1.toNat ≤ 15)
  | 3 => decide (4 ≤ body ∧ body ≤ 60) && body % 4 == 0
  | 4 => only l1 0xFFFF && nodeBodyOk (field l1 0 8) (field l1 8 8) body (ls[4]?.getD 0)
  | 5 => decide (1 ≤ body ∧ body ≤ 60) && decide (l1.toNat + 4 * body ≤ 65536)
  | 15 => body == 0 && l1 == 0
  | _ => false

/-- Whether a packet is one that the leaf does not abandon (R35, R37, R40). -/
def packetFits (g : Region) (ls : List W32) : Bool :=
  let d := ls[0]?.getD 0
  field d 22 10 == 0 && ls[2]?.getD 0 == 0 && ls[3]?.getD 0 == 0 && (typeOf d == 4 || field d 12 4 == 0) &&
    decide ((destOf d).1 < g.w ∧ (destOf d).2 < g.h) && bodyOk ls

/-- The step of a packet that stands at a site: the site keeps it, passes it on, or closes (R36, R38, R39). -/
def packetStepAt (p : PacketAt) : Instr :=
  let d := pktLane p 0
  if typeOf d = 15 then .cfgEnd p
  else if destOf d ≠ (p.x, p.y) then .packetForward p
  else
    match typeOf d with
    | 0 => .sitecfg p
    | 1 => .code p
    | 2 => .route p
    | 3 => .nodemap p
    | 4 => .nodecfg p
    | _ => .lsdata p

/-! ### What a packet's content can do to the installation -/

/-- Why a packet's content is not installed: the image is abandoned (R40), the launch ends with an error before any dispatch (R134,
R136), or the argument block is not readable yet. -/
inductive CfgStop where
  | abandon
  | kill (cause : Nat)
  | wait (t : State)

/-- What keeping a packet does. -/
abbrev Cfg := Except CfgStop

/-- A condition without which the image is abandoned. -/
def need (b : Bool) : Cfg Unit := if b then .ok () else .error .abandon

/-- Argument dword `i` of a region, read in the launch's space (R118, R134, R136). An argument block that cannot be read makes the launch
complete with error RANGE, or SPACE_GONE in a space that is not valid (R264). -/
def argDword (s : State) (l : Nat) (g : Region) (i : Nat) : Cfg W64 :=
  let va := g.args + BitVec.ofNat 64 (8 * i)
  let space := (launchOf s l).space
  if !spaceValid s g.die space then .error (.kill 9)
  else if !canonical va then .error (.kill 6)
  else
    match walkPa s g.die space va with
    | none => .error (.kill 6)
    | some pa =>
      match readFrom s (some l) g.die pa 8 false with
      | .ok bs => .ok (le64 bs)
      | .error (.stall t) => .error (.wait t)
      | .error _ => .error (.kill 6)

/-- The address of an address group, canonical and aligned (R136). -/
def groupAddr (s : State) (l : Nat) (g : Region) (p : PacketAt) (i align : Nat) : Cfg W64 := do
  let c := pktLane p i
  need (only c 0x2000FF00 && (!bit c 29 || pktLane p (i + 2) == 0))
  let a ← if bit c 29 then do
      let b ← argDword s l g (field c 8 8)
      .ok (b + (pktLane p (i + 1)).signExtend 64)
    else .ok (daddr p.lanes (i + 1))
  if canonical a && a.toNat % align == 0 then .ok a else .error (.kill 6)

/-- An address group that may be absent: all zero (R136). -/
def groupAddr? (s : State) (l : Nat) (g : Region) (p : PacketAt) (i align : Nat) : Cfg W64 :=
  if pktLane p i == 0 && pktLane p (i + 1) == 0 && pktLane p (i + 2) == 0 then .ok 0 else groupAddr s l g p i align

/-! ### Task entries (R133, R134) -/

/-- A range's four lanes (R134). -/
def rangeOf (p : PacketAt) (i : Nat) : RangeDecl :=
  let m := pktLane p i
  { mode := bits m 30 2, ba := bit m 29, la := bit m 28, barg := field m 8 8, larg := field m 0 8, baseLo := pktLane p (i + 1),
    baseHi := pktLane p (i + 2), len := pktLane p (i + 3) }

/-- Whether a range's lanes are as R134 gives. -/
def rangeOk (p : PacketAt) (i : Nat) : Bool :=
  let m := pktLane p i
  field m 30 2 != 0 && field m 16 12 == 0 && (!bit m 29 || pktLane p (i + 2) == 0) && (!bit m 28 || pktLane p (i + 3) == 0)

/-- The ranges of a packet from a lane on. -/
def rangesOf (p : PacketAt) (first : Nat) : Cfg (List RangeDecl) :=
  let is := (List.range ((4 + bodyOf (pktLane p 0) - first) / 4)).map fun k => first + 4 * k
  if is.all (rangeOk p) then .ok (is.map (rangeOf p)) else .error .abandon

/-- A task's ranges with those of one part added, kept in part order (R133). -/
def Task.addRanges (t : Task) (part : Nat) (rs : List RangeDecl) : Task :=
  let before := (t.parts.filter (· ≤ part)).length
  let after := t.parts.filter (· ≤ part)
  { t with ranges := t.ranges.take before ++ rs ++ t.ranges.drop before, parts := after ++ rs.map (fun _ => part) ++ t.parts.drop before }

/-- The task slot after the first part of its entry has come: installed, with its registers cleared (R120, R133). -/
def Task.entry (t : Task) (p : PacketAt) : Task :=
  let l4 := pktLane p 4
  { t with start := field l4 0 10, startReady := bit l4 31, hv := bit l4 30, handlerAt := field l4 16 10,
           tags := ((List.range 8).filter fun i => bit (pktLane p (5 + i)) 10).map (fun i => bits (pktLane p (5 + i)) 0 10),
           nrange := field (pktLane p 13) 0 6, slot := .installed, thread := Thread.start (field l4 0 10) }

/-- Whether lanes 4 to 13 of a task entry are as R133 gives. A start binding with TV = 1 and TAG 1,023 abandons the image; with TV = 0 its TAG is not
looked at (DESIGN CHOICE, log 132: the table gives TAG the values 0 to 1,022). -/
def entryOk (p : PacketAt) : Bool :=
  only (pktLane p 4) 0xC3FF03FF && only (pktLane p 13) 0x3F && decide (field (pktLane p 13) 0 6 ≤ 32) &&
    (List.range 8).all fun i => only (pktLane p (5 + i)) 0x7FF && pktLane p (5 + i) != 0x7FF

/-- The parts of a task's entry that have come, each counted once in a task's list of parts. -/
def Task.hasPart (t : Task) (part : Nat) : Bool := if part = 0 then t.slot != .absent else t.parts.contains part

/-- A task part kept by its site (R133). -/
def taskPart (x : Site) (p : PacketAt) : Cfg Site := do
  let slot := field (pktLane p 1) 0 4
  let part := field (pktLane p 1) 8 2
  let t := Tab.get Task.absent x.tasks slot
  need (x.node.isNone && !Task.hasPart t part)
  if part = 0 then do
    need (entryOk p)
    let rs ← rangesOf p 14
    .ok (Site.setTask x slot (Task.addRanges (Task.entry t p) 0 rs))
  else do
    let rs ← rangesOf p 4
    .ok (Site.setTask x slot (Task.addRanges t part rs))

/-! ### Token nodes (R137) -/

/-- A null mode by its code (R137). -/
def NullMode.ofCode : Nat → Option NullMode
  | 0 => some .absorb | 1 => some .pass | 2 => some .identity | _ => none

/-- Input `i` of a merge node (R137). -/
def mergeInput (p : PacketAt) (i : Nat) : Nat := field (pktLane p (6 + i / 4)) (8 * (i % 4)) 5

/-- The token node that a part 3 packet configures (R137). -/
def tokenNodeOf (p : PacketAt) : Option TokenNode :=
  let k := pktLane p 4
  let w := pktLane p 5
  let body := bodyOf (pktLane p 0)
  if !only k 3 then none
  else
    match field k 0 2 with
    | 1 =>
      if body = 2 ∧ only w 0x00FF1F1F then some (.steer (field w 0 5) (field w 8 5) (field w 16 4) (field w 20 4)) else none
    | 2 =>
      let n := field w 0 3 + 1
      let unused := (List.range 8).filter fun i => decide (n ≤ i)
      if body = 4 ∧ only w 0x000F0107 ∧ only (pktLane p 6) 0x1F1F1F1F ∧ only (pktLane p 7) 0x1F1F1F1F ∧
          unused.all (fun i => mergeInput p i == 0) then
        some (.merge ((List.range n).map (mergeInput p)) (bit w 8) (field w 16 4))
      else none
    | 3 =>
      let fs := Fmt.ofCode (field w 0 3)
      let fd := Fmt.ofCode (field w 4 3)
      match Rounding.ofCode (field w 8 3), NullMode.ofCode (field w 16 2) with
      | some r, some m => if body = 2 ∧ only w 0x00031777 ∧ Fmt.converts fs fd then some (.conv fs fd r (bit w 12) m) else none
      | _, _ => none
    | _ => none

/-- A part 3 packet kept by its site, which no other SITECFG may have reached (R133). -/
def nodePart (x : Site) (p : PacketAt) : Cfg Site := do
  need (x.node.isNone && x.tasks.isEmpty)
  match tokenNodeOf p with
  | some n => .ok { x with node := some n }
  | none => .error .abandon

/-- What SITECFG leaves in its site (R133). -/
def keepSitecfg (x : Site) (p : PacketAt) : Cfg Site := if field (pktLane p 1) 8 2 = 3 then nodePart x p else taskPart x p

/-! ### Words, routes, node map, local store (R37, R135, R429, R430) -/

/-- Word `i` of a CODE body (R37). -/
def codeWord (p : PacketAt) (i : Nat) : W128 :=
  pktLane p (7 + 4 * i) ++ pktLane p (6 + 4 * i) ++ pktLane p (5 + 4 * i) ++ pktLane p (4 + 4 * i)

/-- What CODE leaves in its site (R37). -/
def keepCode (x : Site) (p : PacketAt) : Site :=
  let ws := (List.range (bodyOf (pktLane p 0) / 4)).map fun i => ((pktLane p 1).toNat + i, codeWord p i)
  { x with istore := ws.foldl (fun t (i, w) => Tab.put t i w) x.istore }

/-- What ROUTE leaves in its site: a route replaces an earlier one (R135). -/
def keepRoute (x : Site) (p : PacketAt) : Cfg Site := do
  let w := pktLane p 4
  need (routeTo w).isSome
  let o := (pktLane p 1).toNat
  let c := (x.outs.toList)[o]?.getD OutChan.empty
  .ok { x with outs := x.outs.setIfInBounds o { c with route := some w } }

/-- An entry of the node map, with its four lanes (R429). -/
def mapEntry (p : PacketAt) (i : Nat) : List W32 := (List.range 4).map fun k => pktLane p (4 + 4 * i + k)

/-- Whether an entry is as R429 and R430 give; a CNODE of 0xFFFFF, or a NODE other than 0 for a site, abandons the image (DESIGN CHOICE, log 139). -/
def entryFits (e : List W32) : Bool :=
  let w := e.headD 0
  decide (field w 28 3 ≤ 4) && field w 20 4 == 0 && (bit w 31 || field w 24 4 == 0) && field w 0 20 != 0xFFFFF && e[3]?.getD 0 == 0

/-- Which element an entry describes (R429). -/
def entryFor (e : List W32) : W32 := e.headD 0 &&& 0x8F000000

/-- The entries of a site with one more, which replaces an earlier one for the same element (R430). -/
def addEntry (m : List (List W32)) (e : List W32) : List (List W32) := m.filter (fun f => entryFor f != entryFor e) ++ [e]

/-- What NODEMAP leaves in its site (R429, R430). -/
def keepNodemap (x : Site) (p : PacketAt) : Cfg Site := do
  let es := (List.range (bodyOf (pktLane p 0) / 4)).map (mapEntry p)
  let m := es.foldl addEntry x.nodeMap
  need (es.all entryFits && decide (m.length ≤ 16))
  .ok { x with nodeMap := m }

/-- The bytes of an LSDATA body (R37). -/
def lsBytes (p : PacketAt) : List Byte := (List.range (bodyOf (pktLane p 0))).flatMap fun i => leBytes 4 (pktLane p (4 + i)).toNat

/-- What LSDATA leaves in its site (R37). -/
def keepLsdata (x : Site) (p : PacketAt) : Site := { x with localStore := writeBytes x.localStore (pktLane p 1).toNat (lsBytes p) }

/-! ### Engine nodes (R27, R136) -/

/-- The nodes that a mask of 8 bits names, of the stream programs of an L2 tile of a die: 8 for each of its 16 tiles (R192). -/
def tileNodes (die tile mask : Nat) : List NodeRef :=
  ((List.range 8).filter fun b => mask.testBit b).map fun b => { kind := .stream, home := die, idx := 8 * (tile % 16) + b }

/-- The engine nodes that RGNNODE of a core's handle names (R27, R402), in the core's node order: slabs 0 to 3, accumulator nodes from bit 4,
top-k nodes from bit 20, copy channels from bit 36, and the match engine at bit 38. Stream programs of any tile of the die follow, of two
tiles: a mask of 8 programs at bit 39 of the tile that bits [50:47] name, and one at bit 51 of the tile of bits [62:59] (the order is a
DESIGN CHOICE, log 32). -/
def handleNodes (core : Nat) (w : W64) : List NodeRef :=
  ((List.range 39).filter fun b => bit w b).map (fun b =>
    if b < 4 then { kind := .slab, home := core, idx := b }
    else if b < 20 then { kind := .acc, home := core, idx := b - 4 }
    else if b < 36 then { kind := .topk, home := core, idx := b - 20 }
    else if b < 38 then { kind := .copych, home := core, idx := b - 36 }
    else { kind := .match_, home := core, idx := 0 }) ++
  tileNodes (core / 4) (field w 47 4) (field w 39 8) ++ tileNodes (core / 4) (field w 59 4) (field w 51 8)

/-- The nodes that the region's handles assign: its leaf's handle, and those of the other covered cores with the same place and launch. Of a
core that the rectangle does not cover, stream programs only (R27). -/
def assignedNodes (s : State) (g : Region) : List NodeRef :=
  match Tab.find? (coreOf s g.leaf).block.regions g.handle with
  | none => []
  | some r =>
    ((g.leaf :: (Region.cores g).filter (· != g.leaf)).flatMap fun c =>
      let mine := (coreOf s c).block.regions.filter fun (h, q) => if c = g.leaf then h == g.handle else q.lid == r.lid && q.pos == r.pos
      mine.flatMap fun (_, q) => handleNodes c q.node).filter fun n => n.kind == .stream || (Region.cores g).contains n.home

/-- Whether a node can take a launch, with ALLOWDEG or without: no slab out of service can, and one whose FP8 datapath has failed only with it
(R453). -/
def NodeRef.takes (allowDeg : Bool) (n : NodeRef) : Bool :=
  n.kind != .slab || (!Config.slabOut n.home n.idx && (allowDeg || !Config.fp8Failed n.home n.idx))

/-- A node reset and assigned (R27, R290, R306, R325, R339, R365). Placement on a degraded slab is recorded (R453). -/
def claimNode (s : State) (n : NodeRef) (o : Owner × Nat) : State :=
  match n.kind with
  | .slab =>
    let s := if Config.fp8Failed n.home n.idx then rasRecord s 11 1 (n.home / 4) n.home noCnode o.1.launch 0 else s
    setSlab s n.home n.idx { Slab.init with owner := some o }
  | .acc => setAcc s n.home n.idx { Acc.init with owner := some o }
  | .topk => setTopk s n.home n.idx { TopK.init with owner := some o }
  | .copych => setCopy s n.home n.idx { CopyChan.init with owner := some o }
  | .stream => setStream s n.home n.idx { Stream.init with owner := some o }
  | .match_ => setMatch s n.home { Match.init with owner := some o }

/-- A node kind by its code (R136). -/
def NodeKind.ofCode : Nat → Option NodeKind
  | 0 => some .slab | 1 => some .acc | 2 => some .topk | 3 => some .copych | 4 => some .stream | 5 => some .match_ | _ => none

/-- The node that a NODECFG configures (R35, R40, R136): the one that bears its index, or, for a new index, the first of the region's assigned
nodes of the kind that bears none. An index that is not below the number of assigned nodes, another kind, or no node of the kind left abandons
the image. -/
def nodeFor (s : State) (g : Region) (p : PacketAt) (kind : NodeKind) (part : Nat) : Cfg (State × NodeRef) :=
  let id := field (pktLane p 0) 12 4
  match Tab.find? g.nodes id with
  | some n =>
    if n.kind = kind ∧ kind = .match_ ∧ !(matchOf s n.home).parts.contains part then .ok (s, n) else .error .abandon
  | none =>
    match (if id < g.assigned.length then g.assigned.find? fun n => n.kind == kind && !(g.nodes.any fun (_, m) => m == n) else none) with
    | none => .error .abandon
    | some n =>
      let s := claimNode s n ({ launch := p.launch, region := p.region, x := p.x, y := p.y }, id)
      .ok (setRegion s p.launch p.region { g with nodes := Tab.put g.nodes id n, kinds := Tab.put g.kinds id kind,
                                                  nodesIn := g.nodesIn + 1 }, n)

/-- An accumulator node's body (R136 kind 1). -/
def accCfg (p : PacketAt) (x : Acc) : Cfg Acc := do
  let w := pktLane p 4
  need (only w 0xFFFF0001 && field w 16 16 != 0 && (routeTo (pktLane p 5)).isSome)
  .ok { x with ends := field w 16 16, int := bit w 0, route := pktLane p 5 }

/-- A top-k node's body (R136 kind 2). -/
def topkCfg (p : PacketAt) (x : TopK) : Cfg TopK := do
  let w := pktLane p 4
  need (only w 0xFFFF007F && field w 16 16 != 0 && decide (1 ≤ field w 0 7 ∧ field w 0 7 ≤ 64) && (routeTo (pktLane p 5)).isSome)
  .ok { x with ends := field w 16 16, k := field w 0 7, route := pktLane p 5, offsets := (List.range 4).map fun i => pktLane p (6 + i) }

/-- A stream program's body (R136 kind 4, R192). Element addresses of a misaligned base are refused with RANGE.
With ENDV = 1, ENDLVL must be below NDIM: another one abandons the image (DESIGN CHOICE, log 133: R136 does not say what it does). -/
def streamCfg (s : State) (l : Nat) (g : Region) (p : PacketAt) (x : Stream) : Cfg Stream := do
  let w := pktLane p 4
  let ndim := field w 5 2 + 1
  let dims := (List.range ndim).map fun i => (field (pktLane p (9 + 2 * i)) 0 16 + 1, (pktLane p (10 + 2 * i)).toInt)
  need (only w 0x3FF && (!bit w 7 || decide (field w 8 2 < ndim)) && (routeTo (pktLane p 8)).isSome &&
    (List.range ndim).all fun i => only (pktLane p (9 + 2 * i)) 0xFFFF)
  let base ← groupAddr s l g p 5 (if bit w 3 then 128 else 4)
  .ok { x with fmt := Fmt.ofCode (field w 0 3), vec := bit w 3, needToken := bit w 4, endLevel := if bit w 7 then some (field w 8 2) else none,
               base := base, route := pktLane p 8, dims := dims }

/-- A match engine's part 0 (R136 kind 5, R367). -/
def matchCfg (s : State) (l : Nat) (g : Region) (p : PacketAt) (x : Match) : Cfg Match := do
  let cap := (pktLane p 7).toNat
  let entries := (pktLane p 15).toNat
  need (decide (1 ≤ cap ∧ cap ≤ 2 ^ 28) && decide ((pktLane p 11).toNat ≤ 2 ^ 24) && decide ((pktLane p 19).toNat ≤ 256) &&
    (entries == 0 || (decide (16 ≤ entries ∧ entries ≤ 2 ^ 24) && 2 ^ Nat.log2 entries == entries)))
  let wm ← groupAddr s l g p 4 64
  let beta ← groupAddr s l g p 8 4096
  let score ← groupAddr? s l g p 12 64
  let squeue ← groupAddr? s l g p 16 64
  .ok { x with wmBase := wm, wmCap := cap, betaBase := beta, betaBytes := (pktLane p 11).toNat * 4096, scoreBase := score,
               scoreEntries := entries, squeue := squeue, nscorer := (pktLane p 19).toNat, parts := x.parts ++ [0] }

/-- One scorer record (R136 kind 5). -/
def scorerCfg (s : State) (l : Nat) (g : Region) (p : PacketAt) (i : Nat) : Cfg Scorer := do
  let w := pktLane p i
  let ww := field w 8 5
  let hh := field w 16 5
  need (only w 0x001F1FFF && decide (1 ≤ ww ∧ ww ≤ 16 ∧ 1 ≤ hh ∧ hh ≤ 16))
  let image ← groupAddr s l g p (i + 1) 1
  .ok { id := field w 0 8, w := ww, h := hh, image := image }

/-- The scorer records of a part. -/
def scorersCfg (s : State) (l : Nat) (g : Region) (p : PacketAt) : List Nat → Cfg (List Scorer)
  | [] => .ok []
  | i :: r => do
    let k ← scorerCfg s l g p i
    let ks ← scorersCfg s l g p r
    .ok (k :: ks)

/-- What NODECFG leaves: the node assigned and configured (R136). -/
def keepNodecfg (s : State) (g : Region) (p : PacketAt) : Cfg State := do
  let part := field (pktLane p 1) 8 8
  match NodeKind.ofCode (field (pktLane p 1) 0 8) with
  | none => .error .abandon
  | some kind =>
    let (s, n) ← nodeFor s g p kind part
    match kind with
    | .slab => .ok s
    | .copych => .ok s
    | .acc => do
      let x ← accCfg p (accOf s n.home n.idx)
      .ok (setAcc s n.home n.idx x)
    | .topk => do
      let x ← topkCfg p (topkOf s n.home n.idx)
      .ok (setTopk s n.home n.idx x)
    | .stream => do
      let x ← streamCfg s p.launch g p (streamOf s n.home n.idx)
      .ok (setStream s n.home n.idx x)
    | .match_ =>
      if part = 0 then do
        let x ← matchCfg s p.launch g p (matchOf s n.home)
        .ok (setMatch s n.home x)
      else do
        let ks ← scorersCfg s p.launch g p ((List.range (bodyOf (pktLane p 0) / 4)).map fun i => 4 + 4 * i)
        let m := matchOf s n.home
        .ok (setMatch s n.home { m with scorers := m.scorers ++ ks, parts := m.parts ++ [part] })

/-! ### The end of an image (R39, R40, R133, R136) -/

/-- Whether a task's entry is whole (R133). -/
def Task.whole (t : Task) : Bool := t.slot != .absent && t.nrange == t.ranges.length

/-- Whether a site's configuration is whole, its routes leading within the region (R28, R40, R133). -/
def Site.whole (g : Region) (x : Site) : Bool :=
  x.tasks.all (fun (_, t) => Task.whole t) && x.outs.toList.all fun c => match c.route with | some r => routeInside g r | none => true

/-- Whether a node's configuration is whole (R28, R136). -/
def nodeWhole (s : State) (g : Region) (n : NodeRef) : Bool :=
  match n.kind with
  | .acc => routeInside g (accOf s n.home n.idx).route
  | .topk => routeInside g (topkOf s n.home n.idx).route
  | .stream => routeInside g (streamOf s n.home n.idx).route
  | .match_ => let m := matchOf s n.home; m.parts.contains 0 && m.scorers.length == m.nscorer
  | _ => true

/-- Whether everything that an image must hold has come. -/
def regionWhole (s : State) (g : Region) : Bool :=
  (Region.places g).all (fun (x, y) => Site.whole g (siteOf s (siteAt g x y))) && g.nodes.all fun (_, n) => nodeWhole s g n

end Sys2Proof.Machine
end

