-- ==== Sys2Proof/Machine/Auto.lean ====
section
/-! DEFINITION. The moves that engine nodes, token nodes and fabric-interface units make of themselves, and when each can be made (R43, R55,
R129, R193, R286, R292, R308, R310, R315, R321, R339 to R342, R354, R371, R375 to R379). -/

namespace Sys2Proof.Machine

/-- A move of a unit: of a slab, an accumulator or top-k node, a copy channel, a match engine (`core` and index), a stream program or a
fabric-interface command (die and number), a token node, or a core's ramp limiter; and the scheduler's own three. -/
inductive Auto where
  | config (core slab : Nat)
  | start (core slab : Nat)
  | group (core slab : Nat)
  | release (core acc : Nat)
  | topkEnd (core topk : Nat)
  | ramp (core : Nat)
  | fetch (core chan : Nat)
  | sector (core chan : Nat)
  | land (core chan : Nat)
  | finish (core chan : Nat)
  | offer (core chan : Nat)
  | delta (core : Nat)
  | select (core : Nat)
  | scorer (core slot : Nat)
  | sig (core slot : Nat)
  | stream (die slot : Nat)
  | gather (die id : Nat)
  | scatter (die id : Nat)
  | isect (die id : Nat)
  | steer (site : SiteKey)
  | merge (site : SiteKey)
  | conv (site : SiteKey)
  | take (queue : Nat)
  | age (launch : Nat)
  | selfCheck
  deriving DecidableEq, Repr

/-! ### Matrix engine -/

/-- Whether a slab that is being pre-empted or halted has a group begun, and no fault holds it there (R295, R435). -/
def slabEnds (s : State) (x : Slab) : Bool :=
  match x.exec with
  | some e => engineEnds s x.owner x.halted e.held && e.band != 0
  | none => false

/-- The moves of a slab (R315, R321): the executing command's next group, once a verdict command's start is answered; or the entry at the
head of its queue. One that is being pre-empted ends its group (R55, R295). -/
def slabMoves (s : State) (c i : Nat) (x : Slab) : List Auto :=
  if slabEnds s x then [.group c i]
  else if engineRuns s x.owner x.halted then
    match x.exec, x.queue with
    | some e, _ => if e.thetaKnown then [.group c i] else []
    | none, .tile t :: _ => if canBind s t && cardBegun s c t.card then [.start c i] else []
    | none, _ :: _ => [.config c i]
    | none, [] => []
  else []

/-- The move of an accumulator node (R292). -/
def accMoves (s : State) (c i : Nat) (x : Acc) : List Auto :=
  if engineRuns s x.owner false && releaseDue s c i then [.release c i] else []

/-- The move of a top-k node (R308). -/
def topkMoves (s : State) (c i : Nat) (x : TopK) : List Auto :=
  if engineRuns s x.owner false && decide (x.endCount ≥ x.ends) && x.out.isEmpty then [.topkEnd c i] else []

/-! ### Copy channels -/

/-- Whether a channel that holds on a page's fault can go on: no record of that page stands (R273, R274). -/
def chanFree (s : State) (c i : Nat) : Bool :=
  match (copyOf s c i).page with
  | some va => !faultKnown s { (copyAccessor s c i).fault with va := va }
  | none => true

/-- The moves of a copy channel (R339 to R342). -/
def chanMoves (s : State) (c i : Nat) (x : CopyChan) : List Auto :=
  if engineRuns s x.owner x.halted then
    let land : List Auto := if (landedAt s c x).isSome then [.land c i] else []
    match x.state, x.record with
    | .fetch, _ => [.fetch c i]
    | .held, none => if chanFree s c i then [.fetch c i] else []
    | .held, some _ => land ++ (if chanFree s c i then [.sector c i] else [])
    | .copy, _ => land ++ [.sector c i]
    | .finish, some r =>
      if !x.flight.isEmpty then land
      else if r.cmdv && !x.offered then [.offer c i]
      else [.finish c i]
    | _, _ => []
  else []

/-! ### Match engines -/

/-- Whether the SIG word of a score entry is nonzero, as its page maps it (R376). -/
def sigSet (s : State) (c slot : Nat) (m : Match) : Bool :=
  match walkPa s (c / 4) (launchOf s m.launch).space (m.entryAddr slot + 56) with
  | some pa => (homeRead s pa 8).any (· != 0)
  | none => false

/-- The moves of a match engine (R371, R373, R375, R376, R378); a NETLD under way discards what the old network has left to do (R386). One that
is being pre-empted ends its current delta (R391). -/
def matchMoves (s : State) (c : Nat) (m : Match) : List Auto :=
  if engineEnds s m.owner m.halted (matchHolds s c) then (if m.between || m.loading.isSome then [] else [.delta c])
  else if engineRuns s m.owner m.halted then
    (if m.settled || m.loading.isSome then [] else [.delta c]) ++ (if m.canSelect then [.select c] else []) ++
      m.scores.filterMap fun (slot, e) =>
        if e.state == .pending && !e.sent then some (.scorer c slot)
        else if e.sent && e.state != .valid && sigSet s c slot m then some (.sig c slot)
        else none
  else []

/-! ### Stream programs, fabric-interface units, token nodes -/

/-- The move of a stream program (R192, R193). -/
def streamMoves (s : State) (d i : Nat) (x : Stream) : List Auto :=
  if engineRuns s x.owner x.halted && !x.finished && x.out.isEmpty && (x.started || !x.needToken || !x.inbox.isEmpty) then [.stream d i]
  else []

/-- The move of a fabric-interface command (R355, R357, R358). One whose launch is being pre-empted goes on to its end, unless a fault holds it
(R360). -/
def unitMoves (s : State) (d i : Nat) (u : UnitCmd) : List Auto :=
  if (unitsGo s u.issuer.launch || stopping s u.issuer.launch && !unitHolds s u) && u.out.isEmpty then
    match u.kind with
    | .gather => [.gather d i]
    | .scatter => [.scatter d i]
    | .isect => [.isect d i]
  else []

/-- The move of a token node (R72, R129). -/
def siteMoves (s : State) (k : SiteKey) (x : Site) : List Auto :=
  match x.node, x.owner with
  | some (.steer inp sel _ _), some o =>
    if unitRuns s o && (siteHead x inp).isSome && (siteHead x sel).isSome then [.steer k] else []
  | some (.merge ins inOrder out), some o =>
    if unitRuns s o && ((mergeFrom x ins inOrder).bind (siteHead x)).isSome && outReady x out then [.merge k] else []
  | some (.conv _ _ _ _ _), some o =>
    if unitRuns s o && (siteHead x 0).isSome && ((x.diversions.head?).bind id).isSome then [.conv k] else []
  | _, _ => []

/-! ### All of them -/

/-- The moves of a core's engines. -/
def coreMoves (s : State) (c : Nat) (x : Core) : List Auto :=
  (x.slabs.toList.zipIdx.flatMap fun (y, i) => slabMoves s c i y) ++ (x.accs.toList.zipIdx.flatMap fun (y, i) => accMoves s c i y) ++
    (x.topks.toList.zipIdx.flatMap fun (y, i) => topkMoves s c i y) ++ (x.chans.toList.zipIdx.flatMap fun (y, i) => chanMoves s c i y) ++
    matchMoves s c x.match_ ++ (if x.rampCount = 0 ∧ x.rampStat = 0 then [] else [.ramp c])

/-- The moves of every engine node, unit and token node. -/
def engineMoves (s : State) : List Auto :=
  (s.cores.flatMap fun (c, x) => coreMoves s c x) ++
    (s.dies.flatMap fun (d, x) =>
      (x.streams.flatMap fun (i, y) => streamMoves s d i y) ++ x.units.flatMap fun (i, u) => unitMoves s d i u) ++
    s.sites.flatMap fun (n, x) => siteMoves s { core := n / 64, site := n % 64 } x

/-- The engine node that a move belongs to. -/
def Auto.node : Auto → Option NodeRef
  | .config c i => some { kind := .slab, home := c, idx := i }
  | .start c i => some { kind := .slab, home := c, idx := i }
  | .group c i => some { kind := .slab, home := c, idx := i }
  | .release c i => some { kind := .acc, home := c, idx := i }
  | .topkEnd c i => some { kind := .topk, home := c, idx := i }
  | .fetch c i => some { kind := .copych, home := c, idx := i }
  | .sector c i => some { kind := .copych, home := c, idx := i }
  | .land c i => some { kind := .copych, home := c, idx := i }
  | .finish c i => some { kind := .copych, home := c, idx := i }
  | .offer c i => some { kind := .copych, home := c, idx := i }
  | .delta c => some { kind := .match_, home := c, idx := 0 }
  | .select c => some { kind := .match_, home := c, idx := 0 }
  | .scorer c _ => some { kind := .match_, home := c, idx := 0 }
  | .sig c _ => some { kind := .match_, home := c, idx := 0 }
  | .stream d i => some { kind := .stream, home := d, idx := i }
  | _ => none

/-- The region of a fabric-interface command. -/
def unitOwner (s : State) (die id : Nat) : Option Owner :=
  (unitOf s die id).map fun u => { launch := u.issuer.launch, region := u.issuer.region, x := u.issuer.x, y := u.issuer.y }

/-- The owner of what a move belongs to. -/
def autoOwner (s : State) (a : Auto) : Option Owner :=
  match a with
  | .gather d i => unitOwner s d i
  | .scatter d i => unitOwner s d i
  | .isect d i => unitOwner s d i
  | .steer k => (siteOf s k).owner
  | .merge k => (siteOf s k).owner
  | .conv k => (siteOf s k).owner
  | a => (Auto.node a).bind fun n => (nodeOwner s n).map (·.1)

end Sys2Proof.Machine
end

