-- ==== Sys2Proof/Machine/Control.lean ====
section
/-! DEFINITION. Major 0x00: exits and calls, waiting, and route-tag bindings (R148 to R156). -/

namespace Sys2Proof.Machine

/-! ### Exits (R100 to R103, R150) -/

/-- The number of exits of an exit instruction (R98, R102). -/
def Mod.exits : Mod → Nat
  | .exit n => n.val + 1
  | _ => 1

/-- The number of exit-table words of an instruction with `n` exits (R102). -/
def tableWords (n : Nat) : Nat := (n + 3) / 4

/-- Slot `j` of the exit table after the executing instruction, as a signed target (R102). -/
def exitSlot (s : State) (j : Nat) : Int :=
  (bits (wordAt s s.cur ((thread s).pc + 1 + j / 4)) (32 * (j % 4)) 32).toInt

/-- The word to which exit `j` leads (R102). -/
def exitTarget (s : State) (j : Nat) : Int := ((thread s).pc : Int) + exitSlot s j

/-- Whether the exit table is well formed (R102): within the store and the block, unused slots zero, every target inside the store. -/
def exitTableOk (s : State) (n : Nat) : Bool :=
  let t := thread s
  decide (t.pc + tableWords n < storeWords s.cur) && decide (t.blockCount + 1 + tableWords n ≤ 256) &&
  (List.range (4 * tableWords n)).all fun j =>
    if j < n then decide (0 ≤ exitTarget s j) && decide (exitTarget s j < storeWords s.cur)
    else exitSlot s j == 0

/-- The exit number shifted into EXITHIST (R150). -/
def shiftHist (h : BitVec 30) (e : Nat) : BitVec 30 := (h <<< 3) ||| BitVec.ofNat 30 e

/-- Control passes through exit `e` (R150). -/
def takeExit (s : State) (e : Nat) (hist : Bool) : State :=
  let t := thread s
  let t' := Thread.goto t (exitTarget s e).toNat
  withThread s (if hist then { t' with exitHist := shiftHist t.exitHist e } else t')

/-- The exit of an XSEL over its conditions, tested in field order (R150). -/
def xselExit : List Scalar → Nat → Nat → Nat
  | [], _, last => last
  | .data w :: r, j, last => if bit w 0 then j else xselExit r (j + 1) last
  | _ :: _, _, last => last

/-- The exit of an XIDX among `n` (R150). -/
def xidxExit (a : Scalar) (n : Nat) : Nat :=
  match a with
  | .data w => if w.toNat ≥ n then n - 1 else w.toNat
  | _ => n - 1

/-- An exit instruction (R102, R150): its table is checked before any source is read, and then it leaves by the exit chosen. -/
def exitBy (o : Operands) (s : State) (choose : State → Nat → Nat) : Exec := do
  let n := Mod.exits o.mod
  if exitTableOk s n then
    ready s o
    .ok (takeExit (consumeAll s o) (choose s n) true)
  else illop

/-- XJ (R150). -/
def execXj (o : Operands) (s : State) : Host.Outcome State Fault Refusal :=
  issue Places.all o s (exitBy o s fun _ _ => 0)

/-- XSEL (R150): the sources that n exits have are A, B, C in order. -/
def execXsel (o : Operands) (s : State) : Host.Outcome State Fault Refusal :=
  issue Places.all o s (exitBy o s fun s n => xselExit (([o.a, o.b, o.c].take (n - 1)).map (scalarOf s)) 0 (n - 1))

/-- XIDX (R150). -/
def execXidx (o : Operands) (s : State) : Host.Outcome State Fault Refusal :=
  issue Places.all o s (exitBy o s fun s n => xidxExit (scalarOf s o.a) n)

/-- XCALL (R151): pushes the target of exit 1 and takes exit 0; a ninth nested call traps ILLOP. EXITHIST is unchanged (R103). -/
def execXcall (o : Operands) (s : State) : Host.Outcome State Fault Refusal :=
  issue Places.all o s (
    if exitTableOk s (Mod.exits o.mod) && (thread s).callStack.length < 8 then
      let s' := takeExit s 0 false
      .ok (withThread s' { thread s' with callStack := (exitTarget s 1).toNat :: (thread s).callStack })
    else illop)

/-- XRET (R151): pops the call stack and enters the block there; an empty stack traps ILLOP. -/
def execXret (o : Operands) (s : State) : Host.Outcome State Fault Refusal :=
  issue Places.all o s (
    match (thread s).callStack with
    | [] => illop
    | pc :: r => .ok (withThread s { Thread.goto (thread s) pc with callStack := r }))

/-! ### NOP, YIELD, WAIT, DONE (R152 to R154) -/

/-- NOP (R153): no effect, whatever its predicate says. -/
def execNop (o : Operands) (s : State) : Host.Outcome State Fault Refusal :=
  issue Places.all o s (.ok (retire s))

/-- YIELD (R153): the site's round-robin position stands at the task, so that the others issue first; on a controller it is a NOP
(R148). -/
def execYield (o : Operands) (s : State) : Host.Outcome State Fault Refusal :=
  issue Places.all o s (predicated s (Mod.pred o.mod) (
    match s.cur with
    | .task k => .ok (retire (setSite s (TaskKey.siteKey k) { siteOf s (TaskKey.siteKey k) with lastIssued := k.slot }))
    | _ => .ok (retire s)))

/-- Whether a token of a tag bound to the task is buffered in any input channel of its site (R32, R152). -/
def boundTokenPresent (x : Site) (slot : Nat) : Bool :=
  x.chans.toList.any fun c => c.slots.any fun (t, _) => x.bindings.contains (t.route, slot)

/-- WAIT (R152): retires if a token bound to the task is buffered, and otherwise waits. -/
def execWait (o : Operands) (s : State) : Host.Outcome State Fault Refusal :=
  issue Places.sites o s (predicated s (Mod.pred o.mod) (
    match s.cur with
    | .task k => if boundTokenPresent (siteOf s (TaskKey.siteKey k)) k.slot then .ok (retire s) else .error (.wait .wait)
    | _ => illop))

/-- Whether a GTHR, SCTR or ISECT of a task is still executing on any die (R154). -/
def unitBusy (s : State) (r : TaskRef) : Bool :=
  s.dies.any fun (_, d) => d.units.any fun (_, u) => u.issuer == r

/-- DONE (R154): it issues once every producer of the task and every gather, scatter and intersect command has completed; the task then
retires when its side log has drained (R49), which is the step TASK_RETIRE. -/
def execDone (o : Operands) (s : State) : Host.Outcome State Fault Refusal :=
  issue Places.sites o s (
    match s.cur with
    | .task k =>
      if (thread s).producers.isEmpty && !unitBusy s (refOr s k) then
        .ok (push (setTask s k { taskOf s k with slot := .done }) (.taskRetire k))
      else .error (.stall s)
    | _ => illop)

/-! ### Bindings (R30, R155) -/

/-- The tag that TBIND or TUNBIND names; a source that is not data, or above 1,022, traps ILLOP (R155). -/
def tagOf (x : Scalar) : Except Stop (BitVec 10) :=
  match x with
  | .data w => if w.toNat > 1022 then illop else .ok (BitVec.ofNat 10 w.toNat)
  | _ => illop

/-- The binding table after TBIND, or its trap (R155). -/
def bindTag (bs : List (BitVec 10 × Nat)) (tag : BitVec 10) (slot : Nat) : Except Stop (List (BitVec 10 × Nat)) :=
  match bs.find? (·.1 == tag) with
  | some (_, t) => if t = slot then .ok bs else illop
  | none => if (bs.filter (·.2 == slot)).length ≥ 8 ∨ bs.length ≥ 64 then illop else .ok (bs ++ [(tag, slot)])

/-- A change of the executing site's binding table. -/
def bindBy (o : Operands) (s : State)
    (f : List (BitVec 10 × Nat) → BitVec 10 → Nat → Except Stop (List (BitVec 10 × Nat))) : Exec :=
  predicated s (Mod.pred o.mod) do
    ready s o
    match s.cur with
    | .task k =>
      let tag ← tagOf (scalarOf s o.a)
      let x := siteOf s (TaskKey.siteKey k)
      let bs ← f x.bindings tag k.slot
      .ok (retire (setSite s (TaskKey.siteKey k) { x with bindings := bs }))
    | _ => illop

/-- TBIND (R155). -/
def execTbind (o : Operands) (s : State) : Host.Outcome State Fault Refusal :=
  issue Places.sites o s (bindBy o s bindTag)

/-- TUNBIND (R155): removes the task's binding of the tag; another task's binding stays. -/
def execTunbind (o : Operands) (s : State) : Host.Outcome State Fault Refusal :=
  issue Places.sites o s (bindBy o s fun bs tag slot => .ok (bs.filter (· != (tag, slot))))

/-- Whether a word is of a closing instruction: XJ, XSEL, XIDX, XCALL, XRET and DONE of major 0x00, ERET and HALT of major 0x80 (R100). -/
def closing (w : W128) : Bool :=
  match decode w with
  | .ok (.xj _) => true
  | .ok (.xsel _) => true
  | .ok (.xidx _) => true
  | .ok (.xcall _) => true
  | .ok (.xret _) => true
  | .ok (.done _) => true
  | .ok (.eret _) => true
  | .ok (.halt _) => true
  | _ => false

end Sys2Proof.Machine
end

