-- ==== Sys2Proof/Machine/Placement.lean ====
section
/-! DEFINITION. Where a launch can be placed: free rectangles, free engine nodes and free barrier groups (R20, R26, R27, R33, R238, R411,
R412). -/

namespace Sys2Proof.Machine

/-! ### Shapes (R26) -/

/-- Whether a rectangle lies in the die grid as R26 asks. -/
def rectangleOk (x0 y0 w h : Nat) : Bool :=
  decide (x0 + w ≤ 16 ∧ y0 + h ≤ 16) && (!decide (w ≤ 8 ∧ h ≤ 8) || (x0 / 8 == (x0 + w - 1) / 8 && y0 / 8 == (y0 + h - 1) / 8))

/-- A region that is not placed. -/
def Region.unplaced (w h : Nat) (image args : W64) : Region :=
  { die := 0, x0 := 0, y0 := 0, w := w, h := h, leaf := 0, handle := 0, image := image, args := args, assigned := [], nodes := [], kinds := [],
    sitesIn := 0, nodesIn := 0, installed := false, dispatched := false, retired := false, producer := none, placed := false, imagePa := 0,
    sent := 0, onDie := none, stray := false, awaited := false }

/-! ### What is taken -/

/-- The regions that have a place, but for those of the launches in a list. -/
def placedRegions (s : State) (gone : List Nat) : List Region :=
  (s.launches.filter fun (l, _) => !gone.contains l).flatMap fun (_, a) => a.regions.filter (·.placed)

/-- Whether a site can take a region, once the launches in a list have gone (R9, R207). -/
def siteFree (s : State) (gone : List Nat) (k : SiteKey) : Bool :=
  (coreOf s k.core).inService && (match (siteOf s k).owner with | some o => gone.contains o.launch | none => true)

/-- Whether an engine node is assigned to none of some regions. -/
def nodeUnused (gs : List Region) (n : NodeRef) : Bool := !gs.any fun g => g.assigned.contains n || g.nodes.any fun (_, m) => m == n

/-- The barrier groups that some regions take of a core: 16 each of every core that they cover (R238). -/
def coreGroups (gs : List Region) (c : Nat) : Nat := 16 * (gs.filter fun g => (Region.cores g).contains c).length

/-- The package barrier groups that the resident gangs take, without those in a list: 64 each (R412). -/
def gangGroupsTaken (s : State) (gone : List Nat) : Nat := 64 * (s.launches.filter fun (l, a) => a.gang && resident a && !gone.contains l).length

/-! ### The nodes that an image asks for (R136) -/

/-- The node indexes that an image names in its NODECFG packets, each with its kind, read in the launch's space up to its END or a page that is
not present. The number bounds the packets that are read. -/
def imageKinds (s : State) (space : Nat) : Nat → W64 → List (Nat × NodeKind)
  | 0, _ => []
  | n + 1, va =>
    match walkPa s 0 space va with
    | none => []
    | some pa =>
      let d : W32 := BitVec.ofNat 32 (leNat (homeRead s pa 4))
      let k : W32 := BitVec.ofNat 32 (leNat (homeRead s (pa + 4) 4))
      if field d 8 4 = 15 then []
      else
        let r := imageKinds s space n (va + 256)
        match field d 8 4, NodeKind.ofCode (field k 0 8) with
        | 4, some kind => (field d 12 4, kind) :: r.filter (·.1 != field d 12 4)
        | _, _ => r

/-- The kinds of engine node that region `i` of a launch needs: those that it had when it was saved, or those of its image. -/
def kindsWanted (s : State) (a : Launch) (i : Nat) (g : Region) : List NodeKind :=
  match a.saved with
  | some v => (v.nodes.filter (·.1 == i)).map fun (_, _, n) => n.kind
  | none => (imageKinds s a.space 65536 g.image).map (·.2)

/-! ### All regions at once (R33, R412) -/

/-- The engine nodes that a region may be assigned: those of the cores that it covers, and the stream programs of its die (R27). -/
def nodesNear (g : Region) : List NodeRef :=
  ((Region.cores g).flatMap fun c => handleNodes c (BitVec.allOnes 39 |>.setWidth 64)) ++
    (List.range 16).flatMap fun t => tileNodes g.die t 255

/-- Nodes of the kinds wanted, each the first that is free. -/
def pickNodes (free : NodeRef → Bool) (near : List NodeRef) : List NodeKind → Option (List NodeRef)
  | [] => some []
  | k :: r =>
    match near.find? fun n => n.kind == k && free n with
    | none => none
    | some n => (pickNodes (fun m => free m && m != n) near r).map (n :: ·)

/-- A region put at a place beside others, with its nodes, if it fits there. -/
def putRegion (s : State) (gone : List Nat) (allowDeg : Bool) (taken : List Region) (g : Region) (ks : List NodeKind) (die x0 y0 : Nat) : Option Region :=
  let h := { g with die := die, x0 := x0, y0 := y0, placed := true }
  let free := (Region.places h).all fun (x, y) =>
    siteFree s gone (siteAt h x y) && !taken.any fun t => (Region.places t).any fun (u, v) => siteAt t u v == siteAt h x y
  if rectangleOk x0 y0 g.w g.h && free && (Region.cores h).all fun c => coreGroups taken c < 256 then
    (pickNodes (fun n => nodeUnused taken n && NodeRef.takes allowDeg n) (nodesNear h) ks).map fun ns =>
      { h with assigned := ns }
  else none

/-- Whether some regions all find places beside those taken, at once. -/
def allFit (s : State) (gone : List Nat) (allowDeg : Bool) : List Region → List (Region × List NodeKind) → Bool
  | _, [] => true
  | taken, (g, ks) :: r =>
    (match g.onDie with | some d => [d] | none => List.range 4).any fun die => (List.range 16).any fun x0 => (List.range 16).any fun y0 =>
      match putRegion s gone allowDeg taken g ks die x0 y0 with
      | some h => allFit s gone allowDeg (h :: taken) r
      | none => false

/-- Whether the regions of a launch that have no place all find one at once, with their engine nodes and barrier groups, once the launches in
a list have gone (R33, R238, R411, R412). -/
def launchFits (s : State) (gone : List Nat) (a : Launch) : Bool :=
  let want := (a.regions.zipIdx.filter fun (g, _) => !g.placed && !g.retired).map fun (g, i) => (g, kindsWanted s a i g)
  (!a.gang || resident a || decide (gangGroupsTaken s gone < 1024)) && allFit s gone a.allowDeg (placedRegions s gone) want

/-- Whether every gang of which some regions are placed can still place the others. A gang is placed only when all its regions can be (R33). -/
def gangsFit (s : State) : Bool :=
  s.launches.all fun (_, a) => !(a.gang && resident a && a.regions.any fun g => !g.placed && !g.retired) || launchFits s [] a

end Sys2Proof.Machine
end

