-- ==== Sys2Proof/Machine/Install.lean ====
section
/-! DEFINITION. Placing a region, sending it its graph image, and dispatching it: CFGPUSH, the wake, the packets' way, END and the dispatch
(R26, R33 to R40, R128, R138, R267, R413, R416). -/

namespace Sys2Proof.Machine

/-! ### Answers to controllers (R121, R416) -/

/-- The scalar register that an agent's producer fills. -/
def agentDst (s : State) (a : Agent) (id : Nat) : Option (Fin 64) :=
  match (threadOf s a).producers.find? (·.id == id) with
  | some p => (match p.state with | .engine (.s i) => some i | _ => none)
  | none => none

/-- A scalar result for an agent's producer, if it has one. -/
def giveAgent (s : State) (a : Agent) (id : Option Nat) (x : Scalar) : State :=
  match id with
  | some n =>
    match agentDst s a n with
    | some i => setThread s a (Thread.give (threadOf s a) n (.scalar i x))
    | none => s
  | none => s

/-- The CFGPUSH of a region answered (R416). -/
def endInstall (s : State) (l r : Nat) (x : W64) : State :=
  match regionOf s l r with
  | some g => giveAgent (setRegion s l r { g with producer := none }) (.leaf g.leaf) g.producer (.data x)
  | none => s

/-- An installation abandoned (R40): CFGPUSH answers IMAGE, and the launch completes with error IMAGE. -/
def abandonImage (s : State) (l r : Nat) : State := killWith (endInstall s l r 1) l 1 0 0xFF 0xFF 0xFF

/-- An installation that a launch error ends before any task is dispatched (R134, R136); CFGPUSH's answer is a free value (log 34). -/
def failInstall (s : State) (l r cause : Nat) : State :=
  killWith (endInstall s l r (Config.freeWord s.clock 11)) l cause 0 0xFF 0xFF 0xFF

/-- Whether a region's image is being installed. -/
def installing (s : State) (l r : Nat) : Bool :=
  !(launchOf s l).killed && (match regionOf s l r with | some g => g.placed && !g.installed | none => false)

/-! ### The way of the packets (R34, R38, R457) -/

/-- The header of a packet's token (R34): route tag 0x3FF, the packet's index modulo 4,096 as sequence tag, kind 11 and subkind CFG. -/
def packetHeader (p : PacketAt) : W32 :=
  Token.header { route := 0x3FF, seq := BitVec.ofNat 12 p.index, fmt := .int32, pay := .control .cfg 0 }

/-- The packet that enters a region next, read at its home by the leaf (R34, R398, log 35). -/
def readPacket (s : State) (l : Nat) (g : Region) : Except Stop (List W32) :=
  let pa := g.imagePa + 256 * g.sent
  if physReady s pa && physReady s (pa + 255) then do
    let bs ← readFrom s (some l) g.die pa 256 false
    .ok ((List.range 64).map fun i => BitVec.ofNat 32 (at' bs (4 * i) 4))
  else trapOf .extent

/-- A packet enters at (0, 0), or abandons the image (R38, R40). -/
def packetEnter (s : State) (l r : Nat) (ls : List W32) : State :=
  match regionOf s l r with
  | some g =>
    if packetFits g ls then
      push (setRegion s l r { g with sent := g.sent + 1 }) (packetStepAt { launch := l, region := r, x := 0, y := 0, index := g.sent, lanes := ls })
    else abandonImage s l r
  | none => s

/-- A packet's step: what it does, an abandoned image, an error, or a wait for the argument block. -/
def keepPacket (s : State) (p : PacketAt) (again : Instr) : Cfg State → State
  | .ok t => t
  | .error .abandon => abandonImage s p.launch p.region
  | .error (.kill c) => failInstall s p.launch p.region c
  | .error (.wait t) => defer t again

/-- A packet's step at a site of a region that is being installed. At (0, 0) the next packet follows it in; the packet waits while the leaf
cannot read that one. -/
def packetStep (s : State) (p : PacketAt) (again : Instr) (f : Region → Cfg State) : State :=
  match regionOf s p.launch p.region with
  | none => s
  | some g =>
    if !installing s p.launch p.region then s
    else if p.x = 0 ∧ p.y = 0 then
      match readPacket s p.launch g with
      | .error (.stall t) => defer t again
      | .error _ => abandonImage s p.launch p.region
      | .ok ls =>
        match f g with
        | .ok t => if installing t p.launch p.region then packetEnter t p.launch p.region ls else t
        | x => keepPacket s p again x
    else keepPacket s p again (f g)

/-- A packet that a site keeps changes the site. -/
def keepAt (s : State) (g : Region) (p : PacketAt) (f : Site → Cfg Site) : Cfg State := do
  let k := siteAt g p.x p.y
  let x ← f (siteOf s k)
  .ok (setSite s k x)

/-- SITECFG (R133, R137). -/
def execSitecfg (pkt : PacketAt) (s : State) : Host.Outcome State Fault Refusal :=
  .next (packetStep s pkt (.sitecfg pkt) fun g => keepAt s g pkt fun x => keepSitecfg x pkt)

/-- CODE (R37, R130). -/
def execCode (pkt : PacketAt) (s : State) : Host.Outcome State Fault Refusal :=
  .next (packetStep s pkt (.code pkt) fun g => keepAt s g pkt fun x => .ok (keepCode x pkt))

/-- ROUTE (R135). -/
def execRoute (pkt : PacketAt) (s : State) : Host.Outcome State Fault Refusal :=
  .next (packetStep s pkt (.route pkt) fun g => keepAt s g pkt fun x => keepRoute x pkt)

/-- NODEMAP (R429, R430). -/
def execNodemap (pkt : PacketAt) (s : State) : Host.Outcome State Fault Refusal :=
  .next (packetStep s pkt (.nodemap pkt) fun g => keepAt s g pkt fun x => keepNodemap x pkt)

/-- NODECFG (R136): the site hands it to the node. -/
def execNodecfg (pkt : PacketAt) (s : State) : Host.Outcome State Fault Refusal :=
  .next (packetStep s pkt (.nodecfg pkt) fun g => keepNodecfg s g pkt)

/-- LSDATA (R37, R120). -/
def execLsdata (pkt : PacketAt) (s : State) : Host.Outcome State Fault Refusal :=
  .next (packetStep s pkt (.lsdata pkt) fun g => keepAt s g pkt fun x => .ok (keepLsdata x pkt))

/-- The site to which a packet for another one goes on (R38). -/
def forwardTo (p : PacketAt) : Nat × Nat :=
  if p.x = 0 ∧ p.y < (destOf (pktLane p 0)).2 then (0, p.y + 1) else (p.x + 1, p.y)

/-- PACKET_FORWARD (R38). -/
def execPacketForward (pkt : PacketAt) (s : State) : Host.Outcome State Fault Refusal :=
  .next (packetStep s pkt (.packetForward pkt) fun _ =>
    .ok (push s (packetStepAt { pkt with x := (forwardTo pkt).1, y := (forwardTo pkt).2 })))

/-! ### END (R39) -/

/-- Whether every region of a launch is installed. -/
def allInstalled (s : State) (l : Nat) : Bool := (launchOf s l).regions.all fun g => g.installed

/-- Every site and node has reported: CFGPUSH answers 0. Once this is so of every region of the launch, they are dispatched, or the launch
resumes (R39, R57, R134, R282). -/
def regionInstalled (s : State) (l r : Nat) (g : Region) : State :=
  if regionWhole s g then
    let s := endInstall (setRegion s l r { g with installed := true }) l r 0
    if !allInstalled s l then s
    else if (launchOf s l).saved.isSome then push s (.launchResume l)
    else pushAll s ((List.range (launchOf s l).regions.length).map fun i => .dispatch l i)
  else abandonImage s l r

/-- The sites to which END goes on (R39). -/
def endTargets (g : Region) (x y : Nat) : List (Nat × Nat) :=
  (if x + 1 < g.w then [(x + 1, y)] else []) ++ (if x = 0 ∧ y + 1 < g.h then [(0, y + 1)] else [])

/-- CFG_END (R39): the site passes END on and reports that it is installed. -/
def execCfgEnd (pkt : PacketAt) (s : State) : Host.Outcome State Fault Refusal :=
  .next (match regionOf s pkt.launch pkt.region with
    | none => s
    | some g =>
      if !installing s pkt.launch pkt.region then s
      else
        let k := siteAt g pkt.x pkt.y
        let s := pushAll s ((endTargets g pkt.x pkt.y).map fun (x, y) => .cfgEnd { pkt with x := x, y := y })
        let s := setSite s k { siteOf s k with installed := true }
        let g := { g with sitesIn := g.sitesIn + 1 }
        let s := setRegion s pkt.launch pkt.region g
        if g.sitesIn = g.w * g.h then regionInstalled s pkt.launch pkt.region g else s)

/-! ### CFGPUSH and the wake (R26, R34, R128, R138, R402, R413, R416) -/

/-- The launch that a handle names: one that the device knows, or a new one of the handle's shape and space (log 36). -/
def launchFor (s : State) (r : RegionRegs) : Launch :=
  match Tab.find? s.launches (field r.lid 0 32) with
  | some a => a
  | none => { Launch.none with state := .pending, queue := 2 ^ 32, space := field r.lid 32 16, w := field r.pos 8 4 + 1, h := field r.pos 12 4 + 1, since := s.time, waits := s.time }

/-- The region of a launch that a handle places: an unplaced one of its shape, before others the one whose image is at the address. -/
def regionFor (s : State) (die : Nat) (a : Launch) (w h : Nat) (pa : W64) : Option Nat :=
  let ok (g : Region) : Bool := !g.placed && !g.retired && g.w == w && g.h == h && (match g.onDie with | some d => d == die | none => true)
  match a.regions.zipIdx.find? fun (g, _) => ok g && walkPa s die a.space g.image == some pa.toNat with
  | some (_, i) => some i
  | none => (a.regions.zipIdx.find? fun (g, _) => ok g).map (·.2)

/-- A launch as its first region is installed. -/
def LaunchState.install : LaunchState → LaunchState
  | .pending => .installing
  | .saved => .resuming
  | x => x

/-- The state with a region of a launch placed by a leaf, its sites assigned and gated. -/
def placeRegion (s : State) (c handle : Nat) (r : RegionRegs) (pa : W64) (producer : Option Nat) : State :=
  let l := field r.lid 0 32
  let w := field r.pos 8 4 + 1
  let h := field r.pos 12 4 + 1
  let a := launchFor s r
  let a := { a with state := LaunchState.install a.state }
  let (a, i) := match regionFor s (c / 4) a w h pa with
    | some i => (a, i)
    | none => ({ a with regions := a.regions ++ [Region.unplaced w h 0 0] }, a.regions.length)
  let g := { a.regions[i]?.getD (Region.unplaced w h 0 0) with
    die := c / 4, x0 := field r.pos 0 4, y0 := field r.pos 4 4, leaf := c, handle := handle, nodes := [], kinds := [], sitesIn := 0,
    nodesIn := 0, installed := false, producer := producer, placed := true, imagePa := pa.toNat, sent := 0 }
  let g := { g with assigned := (assignedNodes s g).filter (NodeRef.takes a.allowDeg) }
  let s := setLaunch s l (Launch.setRegion a i g)
  let s := (Region.places g).foldl (fun s (x, y) =>
    setSite s (siteAt g x y) { Site.gated with owner := some { launch := l, region := i, x := x, y := y } }) s
  push s (.siteWake l i)

/-- Whether what a handle asks for is free (R33, R128, R238): the rectangle's sites, its engine nodes, the barrier groups of the cores that it
covers, and, for the first region of a gang, the gang's. -/
def handleFree (s : State) (c handle : Nat) (r : RegionRegs) : Bool :=
  let g := { Region.unplaced (field r.pos 8 4 + 1) (field r.pos 12 4 + 1) 0 0 with
    die := c / 4, x0 := field r.pos 0 4, y0 := field r.pos 4 4, leaf := c, handle := handle }
  let a := launchFor s r
  let gs := placedRegions s []
  (Region.places g).all (fun (x, y) => (siteOf s (siteAt g x y)).owner.isNone) && (assignedNodes s g).all (nodeUnused gs) &&
    (Region.cores g).all (fun k => coreGroups gs k < 256) && (!a.gang || resident a || decide (gangGroupsTaken s [] < 1024))

/-- CFGPUSH of a handle by a leaf: the placement waits until all that it asks for is free (R33, R128, R238), and a region of a gang until all the
gang's regions can be placed; no placement takes what a gang that has begun to be placed still needs (R33). A launch that is killed has its
installation abandoned at once. -/
def cfgpush (s : State) (o : Operands) (c : Nat) (pa h : W64) : Exec :=
  match Tab.find? (coreOf s c).block.regions h.toNat with
  | none => illop
  | some r =>
    if h.toNat > 63 || !bit r.pos 16 || pa.toNat % 64 ≠ 0 || !rectangleOk (field r.pos 0 4) (field r.pos 4 4) (field r.pos 8 4 + 1) (field r.pos 12 4 + 1) then illop
    else if (launchOf s (field r.lid 0 32)).killed then .ok (retire (produceS s o.dst (.data 1)))
    else if !handleFree s c h.toNat r then .error (.stall s)
    else
      let (t, id) := engineProducer s o.dst
      let u := placeRegion t c h.toNat r pa id
      if gangsFit u then .ok (retire u) else .error (.stall s)

/-- CFGPUSH (R416). -/
def execCfgpush (o : Operands) (s : State) : Host.Outcome State Fault Refusal :=
  issue { site := false, leaf := true, glob := false } o s (predicated s (Mod.pred o.mod) do
    ready s o
    let a ← dataOf (scalarOf s o.a)
    let h ← dataOf (scalarOf s o.b)
    match s.cur with
    | .leaf c => cfgpush s o c a h
    | _ => illop)

/-- SITE_WAKE (R138): the region's sites are awake, and the first packet enters. -/
def execSiteWake (launch region : Nat) (s : State) : Host.Outcome State Fault Refusal :=
  .next (match regionOf s launch region with
    | none => s
    | some g =>
      if !installing s launch region then s
      else
        let t := (Region.places g).foldl (fun s (x, y) => setSite s (siteAt g x y) { siteOf s (siteAt g x y) with awake := true }) s
        match readPacket s launch g with
        | .error (.stall u) => defer u (.siteWake launch region)
        | .error _ => abandonImage t launch region
        | .ok ls => packetEnter t launch region ls)

/-! ### Dispatch (R39, R134, R266, R267) -/

/-- A declared range resolved to an extent (R134, R266). -/
def resolveRange (s : State) (l : Nat) (g : Region) (d : RangeDecl) : Cfg Extent := do
  let base ← if d.ba then do
      let b ← argDword s l g d.barg
      .ok (b + d.baseLo.signExtend 64)
    else .ok (d.baseHi ++ d.baseLo : W64)
  let len ← if d.la then argDword s l g d.larg else .ok (d.len.setWidth 64)
  if len = 0 || len.toNat ≥ 2 ^ 32 || !canonical base then .error (.kill 6)
  else .ok { vbase := base, len := len.toNat, mode := d.mode, space := (launchOf s l).space, granules := [] }

/-- The ranges of a task resolved. -/
def resolveRanges (s : State) (l : Nat) (g : Region) : List RangeDecl → Cfg (List Extent)
  | [] => .ok []
  | d :: r => do
    let e ← resolveRange s l g d
    let es ← resolveRanges s l g r
    .ok (e :: es)

/-- The tasks of a region, site by site. -/
def regionTasks (s : State) (g : Region) : List TaskKey :=
  (Region.places g).flatMap fun (x, y) =>
    let k := siteAt g x y
    (siteOf s k).tasks.map fun (i, _) => { core := k.core, site := k.site, slot := i }

/-- The extents of tasks. -/
def resolveTasks (s : State) (l : Nat) (g : Region) : List TaskKey → Cfg (List (TaskKey × List Extent))
  | [] => .ok []
  | k :: r => do
    let es ← resolveRanges s l g (taskOf s k).ranges
    let rest ← resolveTasks s l g r
    .ok ((k, es) :: rest)

/-- The bindings of a site with the initial tags of a task: a tag that is bound already, or finds the table full, keeps what is there
(R30, log 37). -/
def bindTags (slot : Nat) (bs : List (BitVec 10 × Nat)) : List (BitVec 10) → List (BitVec 10 × Nat)
  | [] => bs
  | t :: r => bindTags slot (if bs.any (·.1 == t) || bs.length ≥ 64 then bs else bs ++ [(t, slot)]) r

/-- The refill of the first granule of the first extent; each refill is followed by the next, in range order and granule order (R267). -/
def firstRefill (k : TaskKey) (n : Nat) : List Instr := if n = 0 then [] else [.granuleRefill k 0 0]

/-- A task dispatched (R39): ready, or waiting on WAIT, which a bound token that is already there ends (R32). Its start is an acquire at system
scope (R258). -/
def dispatchTask (s : State) (x : TaskKey × List Extent) : State :=
  let k := x.1
  let t := taskOf s k
  let y := siteOf s (TaskKey.siteKey k)
  let s := setSite s (TaskKey.siteKey k) { y with bindings := bindTags k.slot y.bindings t.tags }
  let slot : Slot := if t.startReady || boundTokenPresent (siteOf s (TaskKey.siteKey k)) k.slot then .ready else .waiting .wait
  pushAll (acquireBy (setTask s k { t with extents := x.2, slot := slot }) k .system) (firstRefill k x.2.length)

/-- A region dispatched: its launch runs. A region without tasks has only to drain (R50). -/
def dispatchRegion (s : State) (l r : Nat) (g : Region) (ts : List (TaskKey × List Extent)) : State :=
  let s := ts.foldl dispatchTask (setRegion s l r { g with dispatched := true })
  let a := launchOf s l
  let s := setLaunch s l { a with state := .running, started := if a.state = .running then a.started else s.time }
  if ts.isEmpty then push s (.regionRetire l r) else s

/-- The ranges of every region of a launch, each with its index, resolved at once (R134): none of its tasks is dispatched before. -/
def launchResolves (s : State) (l : Nat) : List (Region × Nat) → Cfg (List (Region × Nat × List (TaskKey × List Extent)))
  | [] => .ok []
  | (g, i) :: r => do
    let ts ← resolveTasks s l g (regionTasks s g)
    let rest ← launchResolves s l r
    .ok ((g, i, ts) :: rest)

/-- DISPATCH (R39, R134, R267): the extent tables are written and the tasks are dispatched, of the region named and of every other region of the
launch that is installed; a range of the launch that does not resolve ends it with error RANGE before that. -/
def execDispatch (launch region : Nat) (s : State) : Host.Outcome State Fault Refusal :=
  .next (match regionOf s launch region with
    | none => s
    | some g =>
      if (launchOf s launch).killed || !g.installed || g.dispatched then s
      else
        match launchResolves s launch ((launchOf s launch).regions.zipIdx.filter fun (h, i) => h.placed || i == region) with
        | .ok rs => (rs.filter fun (h, i, _) => i == region || h.installed && !h.dispatched).foldl (fun s (h, i, ts) => dispatchRegion s launch i h ts) s
        | .error (.wait t) => push t (.dispatch launch region)
        | .error (.kill c) => killWith s launch c 0 0xFF 0xFF 0xFF
        | .error .abandon => s)

end Sys2Proof.Machine
end

