-- ==== Sys2Proof/Machine/Retire.lean ====
section
/-! DEFINITION. Retirement of tasks and regions, freeing a region's sites and engine nodes, and completing a launch (R46 to R52, R128, R402, R408,
R413, R421). -/

namespace Sys2Proof.Machine

/-! ### What belongs to a region -/

/-- Whether an owner is a region's. -/
def ownedBy (l r : Nat) (o : Option Owner) : Bool :=
  match o with
  | some w => w.launch == l && w.region == r
  | none => false

/-- Whether a site belongs to a region. -/
def siteIn (s : State) (l r : Nat) (k : SiteKey) : Bool := ownedBy l r (siteOf s k).owner

/-- Whether an engine node belongs to a region. -/
def nodeIn (s : State) (l r : Nat) (n : NodeRef) : Bool := ownedBy l r ((nodeOwner s n).map (·.1))

/-- Whether a sender belongs to a region. -/
def senderIn (s : State) (l r : Nat) : Sender → Bool
  | .chan k _ => siteIn s l r k
  | .node n => nodeIn s l r n
  | .unit d i => (unitOf s d i).any fun u => u.issuer.launch == l && u.issuer.region == r

/-- Whether a walk is made for a region. -/
def walkerIn (s : State) (l r : Nat) : Walker → Bool
  | .granule k _ _ => siteIn s l r (TaskKey.siteKey k)
  | .engine n => nodeIn s l r n
  | .unit d i => senderIn s l r (.unit d i)

/-- The steps to come that name a place of a region, and that end when the region is freed. -/
def regionEvent (s : State) (l r : Nat) : Instr → Bool
  | .tokenArrival src _ => senderIn s l r src
  | .linkFailed src => senderIn s l r src
  | .endToken c a _ => nodeIn s l r { kind := .acc, home := c, idx := a }
  | .topkCandidate c t _ _ => nodeIn s l r { kind := .topk, home := c, idx := t }
  | .thresh c i _ => nodeIn s l r { kind := .slab, home := c, idx := i }
  | .startRequest c t _ _ => nodeIn s l r { kind := .topk, home := c, idx := t }
  | .producerComplete (.task k) _ => siteIn s l r (TaskKey.siteKey k)
  | .taskRetire k => siteIn s l r (TaskKey.siteKey k)
  | .waitaTimeout k => siteIn s l r (TaskKey.siteKey k)
  | .granuleRefill k _ _ => siteIn s l r (TaskKey.siteKey k)
  | .walkResponse w => walkerIn s l r w.forWhom
  | _ => false

/-! ### Freeing a region (R56, R128, R138) -/

/-- An engine node unassigned. -/
def freeNode (s : State) (n : NodeRef) : State :=
  let s := match n.kind with
    | .slab => setSlab s n.home n.idx Slab.init
    | .acc => setAcc s n.home n.idx Acc.init
    | .topk => setTopk s n.home n.idx TopK.init
    | .copych => setCopy s n.home n.idx CopyChan.init
    | .stream => setDie s n.home { dieOf s n.home with streams := Tab.del (dieOf s n.home).streams n.idx }
    | .match_ => setMatch s n.home Match.init
  { s with dies := s.dies.map fun (i, d) => (i, { d with tlb := d.tlb.filter (·.who != some n) }) }

/-- A site freed: power-gated, holding nothing (R138). -/
def freeSite (s : State) (k : SiteKey) : State := { s with sites := Tab.del s.sites (siteKeyNat k) }

/-- A region's sites, engine nodes, commands, watches and steps to come are gone. -/
def freeRegion (s : State) (l r : Nat) (g : Region) : State :=
  let s := { s with agenda := s.agenda.filter (!regionEvent s l r ·), refusals := s.refusals.filter (!senderIn s l r ·.1),
                    cores := s.cores.map fun (c, x) => (c, { x with watch := x.watch.filter fun k => !siteIn s l r (TaskKey.siteKey k) }) }
  let s := g.nodes.foldl (fun s (_, n) => freeNode s n) s
  let s := (Region.places g).foldl (fun s (x, y) => freeSite s (siteAt g x y)) s
  { s with dies := s.dies.map fun (i, d) => (i, { d with units := d.units.filter fun (_, u) =>
      !(u.issuer.launch == l && u.issuer.region == r) }) }

/-! ### Whether a region is empty (R50) -/

/-- Whether an engine node holds no command and no undelivered result. -/
def nodeIdle (s : State) (n : NodeRef) : Bool :=
  match n.kind with
  | .slab => let x := slabOf s n.home n.idx; x.exec.isNone && x.queue.isEmpty
  | .acc =>
    let x := accOf s n.home n.idx
    x.out.isEmpty && !x.releasing && x.forced.isEmpty && decide (x.endCount < x.ends) &&
      !s.agenda.any fun e => match e with | .endToken c a _ => c == n.home && a == n.idx | _ => false
  | .topk =>
    let x := topkOf s n.home n.idx
    x.out.isEmpty && decide (x.endCount < x.ends) && x.away.isEmpty &&
      !s.agenda.any fun e => match e with | .topkCandidate c a _ _ => c == n.home && a == n.idx | _ => false
  | .copych => let x := copyOf s n.home n.idx; (x.state == .idle || x.state == .stopped) && x.flight.isEmpty && x.head.isNone
  | .stream => let x := streamOf s n.home n.idx; x.out.isEmpty && (x.finished || (x.needToken && !x.started && x.inbox.isEmpty))
  | .match_ => let m := matchOf s n.home; m.halted || (m.settled && m.rounds.isEmpty)

/-- Whether the channels of a site are empty. -/
def Site.drained (x : Site) : Bool :=
  x.chans.toList.all (·.slots.isEmpty) && x.outs.toList.all (·.send.isEmpty)

/-- The sites of a region. -/
def regionSites (g : Region) : List SiteKey := (Region.places g).map fun (x, y) => siteAt g x y

/-- The fabric-interface commands of a region's tasks, each with its die and number. -/
def regionUnits (s : State) (l r : Nat) : List (Nat × Nat × UnitCmd) :=
  s.dies.flatMap fun (d, x) => (x.units.filter fun (_, u) => u.issuer.launch == l && u.issuer.region == r).map fun (i, u) => (d, i, u)

/-- Whether a region's buffers, engine nodes and fabric-interface commands are empty. -/
def regionEmpty (s : State) (l r : Nat) (g : Region) : Bool :=
  (regionSites g).all (fun k => Site.drained (siteOf s k)) && g.nodes.all (fun (_, n) => nodeIdle s n) && (regionUnits s l r).isEmpty

/-- Whether every task of a region has retired. -/
def tasksRetired (s : State) (g : Region) : Bool :=
  (regionTasks s g).all fun k => (taskOf s k).slot == .retired || (taskOf s k).slot == .absent

/-- Whether something of a region can still move: a token can be accepted, or an engine node or token node has a move. -/
def regionMoving (s : State) (l r : Nat) : Bool :=
  (s.agenda.any fun e => match e with
    | .tokenArrival src _ => senderIn s l r src && ((headOut s src).bind (acceptAt s)).isSome
    | _ => false) || (engineMoves s).any fun a => ownedBy l r (autoOwner s a)

/-! ### Stray tokens (R50) -/

/-- The tokens in the input channels of a site that runs tasks: no engine node consumes them. -/
def Site.stray (x : Site) : Bool := x.node.isNone && x.chans.toList.any (!·.slots.isEmpty)

/-- A site's tokens discarded: of one that runs tasks, its input channels; with `all`, every token. -/
def Site.discard (all : Bool) (x : Site) : Site :=
  let x := if all || x.node.isNone then { x with chans := Vector.replicate 32 InChan.empty, mergeArrivals := [], diversions := [] } else x
  if all then { x with outs := x.outs.map fun c => { c with send := [] } } else x

/-- Tokens that wait at an engine node's inputs discarded. -/
def discardAt (s : State) (n : NodeRef) : State :=
  match n.kind with
  | .stream => setStream s n.home n.idx { streamOf s n.home n.idx with inbox := [] }
  | .topk =>
    { setTopk s n.home n.idx { topkOf s n.home n.idx with away := [] } with
      agenda := s.agenda.filter fun e => match e with | .topkCandidate c a _ _ => !(c == n.home && a == n.idx) | _ => true }
  | _ => s

/-- The tokens of a region discarded (R50). -/
def discardTokens (s : State) (l r : Nat) (g : Region) (all : Bool) : State :=
  let s := (regionSites g).foldl (fun s k => setSite s k (Site.discard all (siteOf s k))) (setRegion s l r { g with stray := true })
  if all then g.nodes.foldl (fun s (_, n) => discardAt s n) s else s

/-! ### REGION_RETIRE (R50, R402, R413) -/

/-- Whether a launch can complete: every region retired and reported, and every child complete (R51, R413). -/
def launchOver (a : Launch) : Bool := a.regions.all (fun g => g.retired && !g.awaited) && a.childrenLive == 0

/-- The retired handle of region `r` reported to its leaf, with the cause of the launch's error (R402); the leaf is to report DONE (R413). -/
def reportRetired (s : State) (l r : Nat) (g : Region) (cause : Nat) : State :=
  let x := coreOf s g.leaf
  let w : W64 := BitVec.ofNat 64 (g.handle % 64 + cause * 256)
  setLeafEvents (setCore s g.leaf { x with block := { x.block with retired := x.block.retired ++ [w], awaiting := x.block.awaiting ++ [(l, r)] } })
    g.leaf 2

/-- A region retires: it is reported and freed, and its launch completes with the last one. Tokens of a killed launch that were discarded are no
error of their own (R52; log 65). -/
def finishRegion (s : State) (l r : Nat) (g : Region) : State :=
  let s := if g.stray && !(launchOf s l).killed then recordError s l 2 0 0xFF 0xFF 0xFF else s
  let s := endInstall s l r (Config.freeWord s.clock 11)
  let a := launchOf s l
  let s := if g.placed then reportRetired (freeRegion s l r g) l r g ((a.error.map (·.cause)).getD 0) else s
  let s := if a.killed then { s with cores := s.cores.map fun (c, x) => (c, { x with cards := x.cards.filter (·.launch != l) }) } else s
  let s := setRegion s l r { g with retired := true, placed := false, producer := none, awaited := g.placed }
  if launchOver (launchOf s l) then push s (.launchComplete l) else s

/-- Whether a region's engine nodes hold a command or a result that nothing has discarded. -/
def nodesBusy (s : State) (g : Region) : Bool := !(g.nodes.all fun (_, n) => nodeIdle s n || n.kind == .topk || n.kind == .stream)

/-- REGION_RETIRE (R50, R52): a region retires once its tasks have retired and its buffers and engine nodes are empty; tokens that nothing can
consume any more are discarded, and make its error STRAY_TOKENS. A killed launch's region is drained in the same way; where it has not been
dispatched, or nothing of it can move any more, it is freed as it is (log 65). -/
def execRegionRetire (launch region : Nat) (s : State) : Host.Outcome State Fault Refusal :=
  .next (match regionOf s launch region with
    | none => s
    | some g =>
      if g.retired then s
      else
        let killed := (launchOf s launch).killed
        let again := Instr.regionRetire launch region
        if !g.placed || !g.dispatched || !tasksRetired s g then (if killed then finishRegion s launch region g else s)
        else if (regionSites g).any fun k => Site.stray (siteOf s k) then push (discardTokens s launch region g false) again
        else if regionEmpty s launch region g then finishRegion s launch region g
        else if regionMoving s launch region then push s again
        else if nodesBusy s g then (if killed then finishRegion s launch region g else push s again)
        else push (discardTokens s launch region g true) again)

/-! ### TASK_RETIRE (R49) -/

/-- TASK_RETIRE (R49): once its side-log entries have drained, the task retires and releases its bindings and barrier memberships. -/
def execTaskRetire (task : TaskKey) (s : State) : Host.Outcome State Fault Refusal :=
  let t := taskOf s task
  .next (
    if t.slot ≠ .done then s
    else
      let r := refOr s task
      if (coreOf s task.core).sideLog.any fun e => e.task == r then push s (.taskRetire task)
      else
        let s := releaseTask (setTask s task { t with slot := .retired }) task
        match regionOf s r.launch r.region with
        | some g => if tasksRetired s g then push s (.regionRetire r.launch r.region) else s
        | none => s)

/-! ### LAUNCH_COMPLETE (R46, R48, R51, R408, R421) -/

/-- The error record (R408). -/
def LaunchError.record (e : LaunchError) (l : Nat) : List Byte :=
  leBytes 1 e.cause ++ leBytes 1 e.sub ++ leBytes 1 e.x ++ leBytes 1 e.y ++ leBytes 1 e.task ++ [0, 0, 0] ++ leBytes 4 l ++ leBytes 4 e.count

/-- The completion-signal word after one completion: neither half carries into the other (R51). -/
def signalNext (w : W64) (error : Bool) : W64 :=
  let hi : W32 := bits w 32 32 + (if error then 1 else 0)
  let lo : W32 := bits w 0 32 + 1
  hi ++ lo

/-- Where a launch's own word lies, if its page is present and may be written. -/
def writablePa (s : State) (space : Nat) (va : W64) : Option Nat :=
  match walkPage s 0 space va with
  | some l => if l.writable then some (l.pbase + va.toNat % 2 ^ l.log2) else none
  | none => none

/-- The error record written, where a launch has an error and names a place for it. -/
def writeErrRec (s : State) (l : Nat) (a : Launch) : Exec :=
  match a.error with
  | some e =>
    if a.errRec = 0 then .ok s
    else
      match writablePa s a.space a.errRec with
      | some pa => writeOnce s s.glob.active pa (LaunchError.record e l)
      | none => .ok (setEvents s 8)
  | none => .ok s

/-- The signal update (R51). -/
def writeSignal (s : State) (a : Launch) : Exec :=
  match writablePa s a.space a.signal with
  | some pa => do
    let bs ← readFrom s none s.glob.active pa 8 true
    writeOnce s s.glob.active pa (leBytes 8 (signalNext (le64 bs) a.error.isSome).toNat)
  | none => .ok (setEvents s 8)

/-- An update made, or not made where its word cannot be reached, which is reported as a fabric event (R421); it may have to wait. -/
def orEvent (s : State) : Exec → Except State State
  | .ok t => .ok t
  | .error (.stall t) => .error t
  | .error _ => .ok (setEvents s 8)

/-- The PREEMPT instructions that wait for a launch answered (R416). -/
def answerPreempt (s : State) (l : Nat) (x : W64) : State :=
  let a := launchOf s l
  a.preemptProducers.foldl (fun s (ag, id) => giveAgent s ag (some id) (.data x)) (setLaunch s l { a with preempt := false, preemptProducers := [] })

/-- A launch that is gone: a PREEMPT that waits for it answers that it retired first (R58), and its parent, if it has one, has one child
less, and may be complete (R46, R48). -/
def endLaunch (s : State) (l : Nat) (a : Launch) : State :=
  let s := answerPreempt s l 2
  let s := { s with launches := Tab.del s.launches l }
  if a.parent = 0 then s
  else
    match Tab.find? s.launches a.parent with
    | none => s
    | some p =>
      let p := { p with childrenLive := p.childrenLive - 1 }
      let s := childDone (setLaunch s a.parent p) (packetId a.queue a.seq) a.error.isSome
      if launchOver p then push s (.launchComplete a.parent) else s

/-- Whether a write of a launch waits for its home's answer (R258). A registration that is lost gets none (R420). -/
def launchUnregistered (s : State) (l : Nat) : Bool :=
  s.cores.any fun (_, x) => x.regsOut.any fun o => !o.lost && o.who.any fun w => Writer.launch w == l

/-- LAUNCH_COMPLETE (R51, R258, R408): once every write of the launch is registered, the error record first, then one atomic update of the
completion-signal word. -/
def execLaunchComplete (launch : Nat) (s : State) : Host.Outcome State Fault Refusal :=
  let again := Instr.launchComplete launch
  .next (match Tab.find? s.launches launch with
    | none => s
    | some a =>
      if !launchOver a then s
      else if launchUnregistered s launch then push s again
      else
        match orEvent s (writeErrRec s launch a) with
        | .error t => push t again
        | .ok t =>
          match orEvent t (writeSignal t a) with
          | .error u => push u again
          | .ok u => endLaunch u launch a)

end Sys2Proof.Machine
end

