-- ==== Sys2Proof/Machine/Preempt.lean ====
section
/-! DEFINITION. Pre-emption: the request, the engines' halt, the save and the resume, and pre-emption of lower priorities by the global core
(R53 to R58, R280 to R283, R411, R416). -/

namespace Sys2Proof.Machine

/-! ### The request (R53, R58, R416) -/

/-- A launch asked to be pre-empted, with a controller's PREEMPT that waits for it. -/
def askPreempt (s : State) (l : Nat) (who : Option (Agent × Nat)) : State :=
  let a := launchOf s l
  pushOnce (setLaunch s l { a with preempt := true, preemptProducers := a.preemptProducers ++ who.toList }) (.preemptSave l)

/-- PREEMPT (R416): d is 0 once the launch is saved, 1 where it is not resident, and 2 where it retires first. -/
def execPreempt (o : Operands) (s : State) : Host.Outcome State Fault Refusal :=
  issue Places.controllers o s (predicated s (Mod.pred o.mod) do
    ready s o
    let w ← dataOf (scalarOf s o.a)
    let l := w.toNat
    match Tab.find? s.launches l with
    | none => .ok (retire (produceS s o.dst (.data 1)))
    | some a =>
      if !a.regions.isEmpty && a.regions.all (·.retired) then .ok (retire (produceS s o.dst (.data 2)))
      else if !resident a then .ok (retire (produceS s o.dst (.data 1)))
      else
        let (t, id) := engineProducer s o.dst
        .ok (retire (askPreempt t l (id.map fun n => (s.cur, n)))))

/-! ### ENGINE_HALT (R55) -/

/-- Whether an engine node has halted; accumulator and top-k nodes have nothing in progress between their steps. -/
def nodeHalted (s : State) (n : NodeRef) : Bool :=
  match n.kind with
  | .slab => (slabOf s n.home n.idx).halted
  | .copych => (copyOf s n.home n.idx).halted
  | .stream => (streamOf s n.home n.idx).halted
  | .match_ => (matchOf s n.home).halted
  | _ => true

/-- An engine node halted, or running again. -/
def setHalted (s : State) (n : NodeRef) (h : Bool) : State :=
  match n.kind with
  | .slab => setSlab s n.home n.idx { slabOf s n.home n.idx with halted := h }
  | .copych => setCopy s n.home n.idx { copyOf s n.home n.idx with halted := h }
  | .stream => setStream s n.home n.idx { streamOf s n.home n.idx with halted := h }
  | .match_ => setMatch s n.home { matchOf s n.home with halted := h }
  | _ => s

/-- Whether an engine node is on the way to its boundary: a slab within a group, a match engine within a delta, which no fault holds (R55, R295,
R391). The boundaries of the others lie between their steps. -/
def nodeEnding (s : State) (n : NodeRef) : Bool :=
  match n.kind with
  | .slab => slabEnds s (slabOf s n.home n.idx)
  | .match_ =>
    let m := matchOf s n.home
    engineEnds s m.owner m.halted (matchHolds s n.home) && !m.between && m.loading.isNone
  | _ => false

/-- ENGINE_HALT (R55): a node of a launch that is being pre-empted stops at its boundary; a slab's row progress goes to the issuing task's
ROWPROG (R324). -/
def execEngineHalt (node : NodeRef) (s : State) : Host.Outcome State Fault Refusal :=
  .next (match nodeLaunch s node with
    | none => s
    | some l =>
      if !(launchOf s l).preempt || nodeEnding s node then s
      else
        let s := setHalted s node true
        match node.kind, (slabOf s node.home node.idx).exec with
        | .slab, some e => tellRowProg s e
        | _, _ => s)

/-! ### When the save can be made (R56, R280) -/

/-- The engine nodes that a launch's placed regions have. -/
def launchNodes (a : Launch) : List NodeRef := (a.regions.filter (·.placed)).flatMap fun g => g.nodes.map (·.2)

/-- The tasks of a launch's placed regions. -/
def launchTasks (s : State) (a : Launch) : List TaskKey := (a.regions.filter (·.placed)).flatMap (regionTasks s)

/-- Whether a log entry waits for a record that is not resolved, or behind another entry, and does not drain now (R276, R280). -/
def entryStays (s : State) (c : Nat) (e : LogEntry) : Bool :=
  match placeOf s e.task with
  | some k => drainBlocked (coreOf s c) e || faultKnown s (taskFault s k e.va false .store 0)
  | none => true

/-- Whether a fault record of a launch is on its way. -/
def faultComing (s : State) (l : Nat) : Bool := s.agenda.any fun e => match e with | .faultRecord f => f.launch == l | _ => false

/-- Whether a sender is of a launch. -/
def senderOf (s : State) (l : Nat) : Sender → Bool
  | .chan k _ => (siteOf s k).owner.any (·.launch == l)
  | .node n => nodeLaunch s n == some l
  | .unit d i => (unitOf s d i).any (·.issuer.launch == l)

/-- Whether a token of a launch can still be accepted: it goes into its channel before the save (R56, R293). -/
def tokensMove (s : State) (l : Nat) : Bool :=
  s.agenda.any fun e => match e with | .tokenArrival src _ => senderOf s l src && ((headOut s src).bind (acceptAt s)).isSome | _ => false

/-- Whether a command of a fabric-interface unit has stopped: on a fault, or on a token that its channel has no slot for (R360). -/
def unitStopped (s : State) (u : UnitCmd) : Bool := unitHolds s u || !u.out.isEmpty

/-- Whether everything of a launch that must complete before the save has: registrations of its stores, its channels' sectors, its
write-backs, the side-log entries whose pages are mapped, its commands of fabric-interface units that no fault holds, and the tokens on their
way to channels that have room. -/
def saveReady (s : State) (l : Nat) (a : Launch) : Bool :=
  !faultComing s l && !launchUnregistered s l && !tokensMove s l &&
    s.cores.all (fun (c, x) => x.sideLog.all (fun e => e.task.launch != l || entryStays s c e)) &&
    (launchTasks s a).all (fun k => (taskOf s k).thread.producers.all fun p => match p.state with | .writeBack _ => false | _ => true) &&
    (launchNodes a).all (fun n => n.kind != .copych || (copyOf s n.home n.idx).flight.all (acknowledged s n.home)) &&
    s.dies.all fun (_, d) => d.units.all fun (_, u) => u.issuer.launch != l || unitStopped s u

/-! ### The save area in memory (R281) -/

/-- The payload of a token, 256 bytes (R281). -/
def Payload.bytes : Payload → List Byte
  | .scalar l => leBytes 256 (Lane.pattern l).toNat
  | .vector ls => ls.toList.flatMap fun l => leBytes 4 (Lane.pattern l).toNat
  | .control _ w => leBytes 256 w.toNat

/-- The number whose bit i says whether element i of a list has a property. -/
def listMask {α : Type} (p : α → Bool) : List α → Nat
  | [] => 0
  | x :: r => (if p x then 1 else 0) + 2 * listMask p r

/-- The null and error masks of a token (R79, R80). -/
def Payload.masks : Payload → List Byte
  | .vector ls =>
    leBytes 8 (listMask Lane.isNull ls.toList) ++ leBytes 8 (listMask (fun l => match l with | .err _ => true | _ => false) ls.toList)
  | _ => List.replicate 16 0

/-- A token slot record of 320 bytes; an empty slot's is zero (R281). -/
def slotRecord : Option Token → List Byte
  | some t => leBytes 4 (Token.header t).toNat ++ leBytes 4 1 ++ Payload.bytes t.pay ++ Payload.masks t.pay ++ List.replicate 40 0
  | none => List.replicate 320 0

/-- The slot records of a buffer of `n` slots. -/
def slotRecords (ts : List Token) (n : Nat) : List Byte := (List.range n).flatMap fun i => slotRecord ts[i]?

/-- The status byte of a scalar register (R281). -/
def SReg.status (r : SReg) : Byte :=
  let full := if r.full then 64 else 0
  match r.val with
  | .data _ => BitVec.ofNat 8 full
  | .null => BitVec.ofNat 8 (full + 16)
  | .err c => BitVec.ofNat 8 (full + 32 + c.toNat)

/-- The parts of a task record whose layout R281 gives, each with its offset: scalars and their status, predicates, tile predicates,
TRAPWORD, vector full bits, vectors and their masks. -/
def taskRecord (t : Task) : List (Nat × List Byte) :=
  let r := t.thread.regs
  [(0x0000, r.s.toList.flatMap fun x => leBytes 8 (Scalar.pattern x.val).toNat), (0x0200, r.s.toList.map SReg.status),
   (0x0240, (List.finRange 8).flatMap fun i => leBytes 8 (Regs.readP r i).toNat), (0x0280, r.q.toList.flatMap fun x => leBytes 8 x.val.toNat),
   (0x0300, leBytes 16 t.thread.trap.word.toNat), (0x0350, leBytes 4 (listMask (·.full) r.v.toList)),
   (0x0600, r.v.toList.flatMap fun x => Payload.bytes (.vector x.lanes)), (0x2600, r.v.toList.flatMap fun x => Payload.masks (.vector x.lanes))]

/-- Bytes at offsets from a base written at their homes. -/
def writeParts (s : State) (base : Nat) (ps : List (Nat × List Byte)) : State := ps.foldl (fun s (o, bs) => homeWrite s (base + o) bs) s

/-- Bytes of the save area whose contents R281 names without a layout: free values, `n` of them at an offset (log 39). -/
def ownBytes (s : State) (off n : Nat) : Nat × List Byte := (off, (List.range n).map fun i => Config.freeByte s.clock (off + i))

/-- What of a task record R281 names without a layout: the state with the trap state, block-word count and EXITHIST, the call stack, the bindings, and
the reissue records of its producers. -/
def taskOwn (s : State) (off : Nat) : List (Nat × List Byte) :=
  [ownBytes s (off + 0x2C0) 0x40, ownBytes s (off + 0x310) 0x30, ownBytes s (off + 0x340) 0x10, ownBytes s (off + 0x360) 0x200]

/-- A site record: its position, sequence counters and binding table, input slots, send slots, local store and task records (R281). -/
def saveSite (s : State) (base : Nat) (x : Site) : State :=
  let ins := x.chans.toList.flatMap fun c => slotRecords (c.slots.map (·.1)) 4
  let sends := x.outs.toList.flatMap fun c => slotRecords c.send 2
  let s := writeParts s base [ownBytes s 0 256, (0x100, ins), (0xA100, sends), (0xD000, readBytes x.localStore 0 65536)]
  x.tasks.foldl (fun s (i, t) =>
    writeParts (writeParts s (base + 0x1D000 + 0x2800 * i) (taskRecord t)) base (taskOwn s (0x1D000 + 0x2800 * i))) s

/-- The save area of a region, where it lies in memory that is there: RGNSAVE of its handle (R402). -/
def saveBase (s : State) (g : Region) : Option Nat :=
  (Tab.find? (coreOf s g.leaf).block.regions g.handle).bind fun r =>
    let base := field r.save 12 40 * 4096
    if physReady s base && physReady s (base + 0x128000 + g.w * g.h * 0x45000 - 1) then some base else none

/-- Where a site's record lies in a save area (R281). -/
def siteBase (base : Nat) (g : Region) (x y : Nat) : Nat := base + 0x128000 + (y * g.w + x) * 0x45000

/-- A region written to its save area: header, region table, carried side-log entries with their records, barrier groups, engine node records,
and its sites (R281, log 39). -/
def saveArea (s : State) (g : Region) : State :=
  match saveBase s g with
  | none => s
  | some base =>
    let s := writeParts s base [ownBytes s 0 0x1000, ownBytes s 0x1000 0x2000, ownBytes s 0x3000 0x14000, ownBytes s 0x17000 0x1000,
                                ownBytes s 0x18000 0x110000]
    (Region.places g).foldl (fun s (x, y) => saveSite s (siteBase base g x y) (siteOf s (siteAt g x y))) s

/-! ### The save area read back (R282) -/

/-- A lane of a slot record: its pattern, and whether it is null or an error. -/
def laneFrom (w : W32) (null err : Bool) : Lane := if err then .err (bits w 0 4) else if null then .null else .data w

/-- A control subkind of a header (R82). -/
def Control.ofCode (c : BitVec 4) : Control :=
  match c.toNat with
  | 0 => .endc | 1 => .thresh | 2 => .mark | 3 => .cfg | 4 => .cmd
  | _ => .reserved c

/-- The lanes of a vector from 256 bytes of patterns and the two masks. -/
def lanesFrom (pats masks : List Byte) : Vector Lane 64 :=
  let null := word64At masks 0
  let err := word64At masks 8
  Vector.ofFn fun i => laneFrom (BitVec.ofNat 32 (at' pats (4 * i.val) 4)) (bit null i.val) (bit err i.val)

/-- The token of a slot record, if the slot holds one (R78 to R80, R281). The record does not say whether a token is a vector: `vec` does. -/
def tokenFrom (bs : List Byte) (vec : Bool) : Option Token :=
  if at' bs 4 1 = 0 then none
  else
    let h : W32 := BitVec.ofNat 32 (at' bs 0 4)
    let w : W32 := BitVec.ofNat 32 (at' bs 8 4)
    let pay : Payload :=
      if field h 5 2 = 3 then .control (Control.ofCode (bits h 1 4)) w
      else if vec then .vector (lanesFrom ((bs.drop 8).take 256) ((bs.drop 264).take 16))
      else .scalar (laneFrom w (field h 5 2 = 1) (field h 5 2 = 2))
    some { route := bits h 22 10, seq := bits h 10 12, fmt := Fmt.ofCode (field h 7 3), pay := pay }

/-- The tokens of `n` slots, oldest first; `old` are the tokens that were saved there. -/
def tokensFrom (bs : List Byte) (n : Nat) (old : List Token) : List Token :=
  (List.range n).filterMap fun i => tokenFrom ((bs.drop (320 * i)).take 320) (old[i]?.any Token.isVector)

/-- A scalar register from its pattern and status byte. -/
def SReg.from (w : W64) (st : Nat) : SReg :=
  { val := match st / 16 % 4 with | 0 => .data w | 1 => .null | _ => .err (BitVec.ofNat 4 st), full := st / 64 % 2 == 1 }

/-- A task with the parts of its record whose layout R281 gives. -/
def taskFrom (bs : List Byte) (t : Task) : Task :=
  let r := t.thread.regs
  let full : W32 := BitVec.ofNat 32 (at' bs 0x350 4)
  let regs : Regs := { r with
    s := Vector.ofFn fun i => SReg.from (word64At bs (8 * i.val)) (at' bs (0x200 + i.val) 1),
    p := Vector.ofFn fun i => { r.p.get i with val := word64At bs (0x240 + 8 * i.val) },
    q := Vector.ofFn fun i => { r.q.get i with val := word64At bs (0x280 + 8 * i.val) },
    v := Vector.ofFn fun i => { lanes := lanesFrom ((bs.drop (0x600 + 256 * i.val)).take 256) ((bs.drop (0x2600 + 16 * i.val)).take 16), full := bit full i.val } }
  { t with thread := { t.thread with regs := regs, trap := { t.thread.trap with word := BitVec.ofNat 128 (at' bs 0x300 16) } } }

/-- A site with what its record holds in a layout that R281 gives: its tokens, its local store and its tasks' registers (R282). -/
def siteFrom (s : State) (base : Nat) (x : Site) : Site :=
  { x with
    localStore := writeBytes [] 0 (homeRead s (base + 0xD000) 65536),
    chans := Vector.ofFn fun i =>
      let old := (x.chans.get i).slots
      let ts := tokensFrom (homeRead s (base + 0x100 + 1280 * i.val) 1280) 4 (old.map (·.1))
      { slots := ts.zipIdx.map fun (t, j) => (t, (old[j]?.map (·.2)).getD 0) },
    outs := Vector.ofFn fun i =>
      let c := x.outs.get i
      { c with send := tokensFrom (homeRead s (base + 0xA100 + 640 * i.val) 640) 2 c.send },
    tasks := x.tasks.map fun (i, t) => (i, taskFrom (homeRead s (base + 0x1D000 + 0x2800 * i) 0x2800) t) }

/-! ### PREEMPT_SAVE (R56, R280) -/

/-- The region of a launch whose element a fault record names. -/
def faultRegion (s : State) (f : FaultInfo) : Nat :=
  (((launchOf s f.launch).regions.zipIdx.find? fun (g, _) => g.placed && (Region.cores g).contains f.core &&
    (if f.sourceKind = 0 then decide (f.source % 16 < g.w ∧ f.source / 16 < g.h) && (siteAt g (f.source % 16) (f.source / 16)).core == f.core
     else (Tab.find? g.nodes f.source).isSome)).map (·.2)).getD 0

/-- The nodes of a list of one kind, each with its place in the list. -/
def nodesOfKind (ns : List (Nat × Nat × NodeRef)) (k : NodeKind) : List (Nat × NodeRef) :=
  (ns.zipIdx.filter fun ((_, _, n), _) => n.kind == k).map fun ((_, _, n), i) => (i, n)

/-- A step that waits at an input of an engine node of a launch. -/
def inputOf (s : State) (l : Nat) : Instr → Bool
  | .endToken c a _ => nodeLaunch s { kind := .acc, home := c, idx := a } == some l
  | .topkCandidate c t _ _ => nodeLaunch s { kind := .topk, home := c, idx := t } == some l
  | .thresh c i _ => nodeLaunch s { kind := .slab, home := c, idx := i } == some l
  | .startRequest c t _ _ => nodeLaunch s { kind := .topk, home := c, idx := t } == some l
  | _ => false

/-- The tasks whose DONE is completing are saved as retired, with what a retired task releases (R49, R58). -/
def retireDone (s : State) (a : Launch) : State :=
  ((launchTasks s a).filter fun k => (taskOf s k).slot == .done).foldl
    (fun s k => releaseTask (setTask s k { taskOf s k with slot := .retired }) k) s

/-- An accumulator node as it is saved: a release in progress is complete, and its tokens wait for their channel (R293). -/
def Acc.atRest (x : Acc) : Acc := if x.releasing then Acc.released x else x

/-- Whether a writer is a task of a launch. -/
def Writer.taskOf (l : Nat) : Writer → Bool
  | .task r => r.launch == l
  | .node _ _ => false

/-- What is saved of a launch. -/
def snapshot (s : State) (l : Nat) (a : Launch) : SavedLaunch :=
  let s := retireDone s a
  let gs := a.regions.zipIdx.filter fun (g, _) => g.placed
  let ns := gs.flatMap fun (g, r) => g.nodes.map fun (i, n) => (r, i, n)
  let mine (r : TaskRef) : Bool := r.launch == l
  { nodes := ns,
    sites := gs.flatMap fun (g, r) => (Region.places g).map fun (x, y) => (r, x, y, siteOf s (siteAt g x y)),
    slabs := (nodesOfKind ns .slab).map fun (i, n) => (i, slabOf s n.home n.idx),
    accs := (nodesOfKind ns .acc).map fun (i, n) => (i, Acc.atRest (accOf s n.home n.idx)),
    topks := (nodesOfKind ns .topk).map fun (i, n) => (i, topkOf s n.home n.idx),
    chans := (nodesOfKind ns .copych).map fun (i, n) => (i, copyOf s n.home n.idx),
    matches_ := (nodesOfKind ns .match_).map fun (i, n) => (i, matchOf s n.home),
    streams := (nodesOfKind ns .stream).map fun (i, n) => (i, streamOf s n.home n.idx),
    inputs := s.agenda.filter (inputOf s l),
    log := s.cores.flatMap fun (c, x) => (x.sideLog.filter fun e => mine e.task).map fun e => (c, e),
    cards := s.cores.flatMap fun (c, x) => (x.cards.filter (·.launch == l)).map fun k => (c, k),
    faults := s.cores.flatMap fun (_, x) =>
      ((x.faults.map (·.info) ++ x.faultQueue).filter (·.launch == l)).map fun f => (faultRegion s f, f),
    lost := s.cores.flatMap fun (_, x) => (x.regsOut.filter fun o => o.lost && o.who.any (Writer.taskOf l)).map fun o =>
      { o with who := o.who.filter (Writer.taskOf l) },
    units := s.dies.flatMap fun (_, d) => (d.units.map (·.2)).filter fun u => mine u.issuer }

/-- A core without what a launch has in it. -/
def Core.without (x : Core) (l : Nat) : Core :=
  { x with sideLog := x.sideLog.filter (·.task.launch != l), faults := x.faults.filter (·.info.launch != l),
           faultQueue := x.faultQueue.filter (·.launch != l), cards := x.cards.filter (·.launch != l),
           regsOut := (x.regsOut.map fun o => if o.lost then { o with who := o.who.filter (!Writer.taskOf l ·) } else o).filter
             fun o => !(o.lost && o.who.isEmpty) }

/-- A region whose sites and nodes are saved has no place. -/
def Region.unplace (g : Region) : Region :=
  if g.placed then { g with placed := false, installed := false, dispatched := false, assigned := [], nodes := [], kinds := [], sitesIn := 0, nodesIn := 0 } else g

/-- The launch saved, and everything that it had freed (R56, R411). -/
def saveLaunch (s : State) (l : Nat) : State :=
  let a := launchOf s l
  let v := snapshot s l a
  let s := (a.regions.filter (·.placed)).foldl saveArea (retireDone s a)
  let s := a.regions.zipIdx.foldl (fun s (g, r) => if g.placed then freeRegion s l r g else s) s
  let s := { s with cores := s.cores.map fun (c, x) => (c, Core.without x l) }
  let s := setLaunch s l { launchOf s l with state := .saved, saved := some v, regions := a.regions.map Region.unplace, since := s.time, waits := s.time }
  answerPreempt s l 0

/-- PREEMPT_SAVE (R54 to R58, R280): the save waits for the installation to finish, for every engine node to halt, and for what must
complete; a launch that retires first is not saved. -/
def execPreemptSave (launch : Nat) (s : State) : Host.Outcome State Fault Refusal :=
  let again := Instr.preemptSave launch
  .next (match Tab.find? s.launches launch with
    | none => s
    | some a =>
      if !a.preempt then answerPreempt s launch 2
      else if a.regions.all (·.retired) then answerPreempt s launch 2
      else if a.regions.any (fun g => !g.retired && !g.dispatched) then push s again
      else
        match (launchNodes a).filter (fun n => !nodeHalted s n) with
        | n :: ns => push ((n :: ns).foldl (fun s n => pushOnce s (.engineHalt n)) s) again
        | [] => if saveReady s launch a then saveLaunch s launch else push s again)

/-! ### LAUNCH_RESUME (R57, R282) -/

/-- The node that takes the place of a saved one. -/
def nodeNow (s : State) (l : Nat) (v : SavedLaunch) (n : NodeRef) : NodeRef :=
  ((v.nodes.find? fun (_, _, m) => m == n).bind fun (r, i, _) => (regionOf s l r).bind fun g => Tab.find? g.nodes i).getD n

/-- The node that takes the place of the saved node `i` of the list. -/
def nodeAtNow (s : State) (l : Nat) (v : SavedLaunch) (i : Nat) : Option NodeRef :=
  (v.nodes[i]?).bind fun (r, k, _) => (regionOf s l r).bind fun g => Tab.find? g.nodes k

/-- A step at a node's input, for the node that takes its place. -/
def inputNow (m : NodeRef → NodeRef) : Instr → Instr
  | .endToken c a t => let n := m { kind := .acc, home := c, idx := a }; .endToken n.home n.idx t
  | .topkCandidate c k i t => let n := m { kind := .topk, home := c, idx := k }; .topkCandidate n.home n.idx i t
  | .thresh c i θ => let n := m { kind := .slab, home := c, idx := i }; .thresh n.home n.idx θ
  | .startRequest c k sc i =>
    let n := m { kind := .topk, home := c, idx := k }
    let b := m { kind := .slab, home := sc, idx := i }
    .startRequest n.home n.idx b.home b.idx
  | e => e

/-- A diverted token, for the top-k node that takes the place of its sender. -/
def Diversion.now (m : NodeRef → NodeRef) (d : Diversion) : Diversion :=
  let n := m { kind := .topk, home := d.core, idx := d.topk }
  { d with core := n.home, topk := n.idx }

/-- A task as it resumes: its page lists are empty, and a WAITA reads again (R237, R282). -/
def Task.resumed (t : Task) : Task :=
  { t with extents := t.extents.map fun e => { e with granules := [] },
           slot := match t.slot with | .waiting (.waita _ _) => .ready | x => x }

/-- The site as it resumes: the saved contents, and from the image the instruction store, the node and the node map (R57, R281). -/
def Site.resumed (m : NodeRef → NodeRef) (new old : Site) : Site :=
  { old with owner := new.owner, awake := true, installed := true, istore := new.istore, node := new.node, nodeMap := new.nodeMap,
             tasks := old.tasks.map fun (i, t) => (i, Task.resumed t), diversions := old.diversions.map (·.map (Diversion.now m)), blocked := [] }

/-- The steps to come of a task that resumes: its producers go on, and its page lists fill. -/
def taskSteps (k : TaskKey) (t : Task) : List Instr :=
  t.thread.producers.map (fun p => .producerComplete (.task k) p.id) ++ firstRefill k t.extents.length

/-- The steps to come of a site that resumes: its tasks', and one for each token in a send buffer. -/
def siteSteps (k : SiteKey) (x : Site) : List Instr :=
  (x.tasks.flatMap fun (i, t) => taskSteps { core := k.core, site := k.site, slot := i } t) ++
    x.outs.toList.zipIdx.flatMap fun (c, o) => c.send.map fun _ => .tokenArrival (.chan k o) false

/-- A saved site put back, from the save area where the region has one (R282). -/
def resumeSite (s : State) (l : Nat) (m : NodeRef → NodeRef) (x : Nat × Nat × Nat × Site) : State :=
  match regionOf s l x.1 with
  | some g =>
    let k := siteAt g x.2.1 x.2.2.1
    let old := match saveBase s g with | some base => siteFrom s (siteBase base g x.2.1 x.2.2.1) x.2.2.2 | none => x.2.2.2
    let y := Site.resumed m (siteOf s k) old
    pushAll (setSite s k y) (siteSteps k y)
  | none => s

/-- A node's tokens still to be sent go on. -/
def resumeOut (s : State) (n : NodeRef) (out : List Token) : State := if out.isEmpty then s else push s (.tokenArrival (.node n) false)

/-- A slab's configuration, for the nodes that take the place of others. -/
def SlabCfg.now (m : NodeRef → NodeRef) (c : SlabCfg) : SlabCfg := { c with topk := c.topk.map m }

/-- A slab's command, with its card's new number and its top-k node. -/
def SlabCmd.now (m : NodeRef → NodeRef) (card : Nat → Nat) : SlabCmd → SlabCmd
  | .mtkcfg n => .mtkcfg (m n)
  | .tile t => .tile { t with card := card t.card }
  | c => c

/-- The cards that a saved slab's commands hold. -/
def Slab.cards (x : Slab) : List Nat :=
  (x.exec.map fun e => e.cmd.card).toList ++ x.queue.filterMap fun q => match q with | .tile t => some t.card | _ => none

/-- Which saved cards come to which core: (old core, card, new core), oldest first (R345). -/
def cardMoves (s : State) (l : Nat) (v : SavedLaunch) : List (Nat × Nat × Nat) :=
  let users := (v.slabs.flatMap fun (i, x) => (Slab.cards x).map fun k => (i, k)) ++
    v.chans.filterMap fun (i, x) => if x.began then some (i, x.card) else none
  let all := users.filterMap fun (i, k) =>
    match v.nodes[i]?, nodeAtNow s l v i with
    | some (_, _, old), some new => some (old.home, k, new.home)
    | _, _ => none
  sorted (fun a b => decide (a.2.1 ≤ b.2.1)) all

/-- A saved card entered in its new core's window; what it had begun or done it has. -/
def resumeCard (l : Nat) (v : SavedLaunch) (acc : State × List (Nat × Nat × Nat)) (x : Nat × Nat × Nat) : State × List (Nat × Nat × Nat) :=
  match v.cards.find? fun (c, k) => c == x.1 && k.id == x.2.1 with
  | some (_, k) =>
    let (s, id) := enterCard acc.1 x.2.2 l k.reads k.writes
    let s := setCard s x.2.2 id fun y => { y with begun := k.begun, readsDone := k.readsDone, writesDone := k.writesDone }
    (s, acc.2 ++ [(x.1, x.2.1, id)])
  | none => acc

/-- The new number of a card of an old core. -/
def cardNow (ms : List (Nat × Nat × Nat)) (oldCore k : Nat) : Nat := ((ms.find? fun (c, i, _) => c == oldCore && i == k).map (·.2.2)).getD k

/-- The core of a saved node. -/
def oldHome (v : SavedLaunch) (i : Nat) : Nat := ((v.nodes[i]?).map fun (_, _, n) => n.home).getD 0

/-- The engine nodes put back, running (R57, R282). -/
def resumeNodes (s : State) (l : Nat) (v : SavedLaunch) (m : NodeRef → NodeRef) (cards : List (Nat × Nat × Nat)) : State :=
  let on (i : Nat) (f : NodeRef → State → State) (s : State) : State := match nodeAtNow s l v i with | some n => f n s | none => s
  let s := v.slabs.foldl (fun s (i, x) => on i (fun n s =>
    let card := cardNow cards (oldHome v i)
    setSlab s n.home n.idx { x with
      owner := (slabOf s n.home n.idx).owner, cfg := SlabCfg.now m x.cfg, accepted := SlabCfg.now m x.accepted,
      queue := x.queue.map (SlabCmd.now m card), exec := x.exec.map fun e => { e with cmd := { e.cmd with card := card e.cmd.card } },
      halted := false }) s) s
  let s := v.accs.foldl (fun s (i, x) => on i (fun n s =>
    let bound := x.bound.map fun (c, b) => let k := m { kind := .slab, home := c, idx := b }; (k.home, k.idx)
    resumeOut (setAcc s n.home n.idx { x with owner := (accOf s n.home n.idx).owner, bound := bound }) n x.out) s) s
  let s := v.topks.foldl (fun s (i, x) => on i (fun n s =>
    let slabs := x.slabs.map fun (c, b) => let k := m { kind := .slab, home := c, idx := b }; (k.home, k.idx)
    resumeOut (setTopk s n.home n.idx { x with owner := (topkOf s n.home n.idx).owner, slabs := slabs }) n x.out) s) s
  let s := v.chans.foldl (fun s (i, x) => on i (fun n s =>
    setCopy s n.home n.idx { x with owner := (copyOf s n.home n.idx).owner, card := cardNow cards (oldHome v i) x.card, halted := false }) s) s
  let s := v.matches_.foldl (fun s (i, x) => on i (fun n s =>
    setMatch s n.home { x with owner := (matchOf s n.home).owner, halted := false }) s) s
  v.streams.foldl (fun s (i, x) => on i (fun n s =>
    resumeOut (setStream s n.home n.idx { x with owner := (streamOf s n.home n.idx).owner, halted := false }) n x.out) s) s

/-- A carried side-log entry in the new core's log, and its new number (R282). -/
def resumeEntry (acc : State × List (Nat × Nat × Nat)) (x : Nat × LogEntry) : State × List (Nat × Nat × Nat) :=
  let s := acc.1
  match placeOf s x.2.task with
  | some k =>
    let (s, id) := addLog s k.core x.2
    (s, acc.2 ++ [(x.1, x.2.id, id)])
  | none => acc

/-- Whether the side logs of a saved launch's new cores have room for the entries that it carries (R275, R282). -/
def logsFit (s : State) (v : SavedLaunch) : Bool :=
  s.cores.all fun (c, x) =>
    decide (x.sideLog.length + (v.log.filter fun (_, e) => (placeOf s e.task).any (·.core == c)).length ≤ 512)

/-- A resume is an acquire at package scope by each of the launch's tasks: their cores' clean copies go (R203, R259). -/
def resumeAcquire (s : State) (l : Nat) : State :=
  { s with cores := s.cores.map fun (c, x) =>
    (c, if (launchOf s l).regions.any fun g => (Region.cores g).contains c then Core.dropAllClean x else x) }

/-- A saved fault record for the new core's ring (R282): of a task's access, or of an engine node's. -/
def faultNow (s : State) (l : Nat) (log : List (Nat × Nat × Nat)) (x : Nat × FaultInfo) : FaultInfo :=
  let f := x.2
  match regionOf s l x.1 with
  | none => f
  | some g =>
    let core := if f.sourceKind = 0 then (siteAt g (f.source % 16) (f.source / 16)).core
      else match Tab.find? g.nodes f.source with
        | some n => if n.kind = .stream then g.leaf else n.home
        | none => f.core
    { f with core := core, slog := BitVec.ofNat 32 (cardNow log f.core f.slog.toNat) }

/-- A saved command of a fabric-interface unit on the die of its task's new place. -/
def resumeUnit (s : State) (u : UnitCmd) : State :=
  match placeOf s u.issuer with
  | some k =>
    let d := k.core / 4
    let x := dieOf s d
    let s := setDie s d { x with units := Tab.put x.units x.nextUnit u, nextUnit := x.nextUnit + 1 }
    if u.out.isEmpty then s else push s (.tokenArrival (.unit d x.nextUnit) false)
  | none => s

/-- A lost registration at the core of its task's new place (R420). -/
def resumeLost (s : State) (o : RegOut) : State :=
  match o.who.findSome? fun w => match w with | .task r => placeOf s r | .node _ _ => none with
  | some k => setCore s k.core { coreOf s k.core with regsOut := (coreOf s k.core).regsOut ++ [o] }
  | none => s

/-- LAUNCH_RESUME (R57, R282): everything that was saved is put back where the regions are now, and the launch runs. -/
def resumeLaunch (s : State) (l : Nat) (v : SavedLaunch) : State :=
  let m := nodeNow s l v
  let s := v.sites.foldl (fun s x => resumeSite s l m x) (resumeAcquire s l)
  let (s, cards) := (cardMoves s l v).foldl (resumeCard l v) (s, [])
  let s := resumeNodes s l v m cards
  let s := pushAll s (v.inputs.map (inputNow m))
  let (s, log) := v.log.foldl resumeEntry (s, [])
  let s := pushAll s (v.faults.map fun x => .faultRecord (faultNow s l log x))
  let s := v.lost.foldl resumeLost (v.units.foldl resumeUnit s)
  let a := launchOf s l
  let s := setLaunch s l { a with state := .running, saved := none, started := s.time, resumed := some s.time,
                                  regions := a.regions.map fun g => { g with dispatched := true } }
  pushAll s ((a.regions.zipIdx.filter fun (g, _) => g.placed && tasksRetired s g).map fun (_, r) => .regionRetire l r)

/-- LAUNCH_RESUME (R57, R282): once the launch's regions are installed, and the side logs have room for what it carries. -/
def execLaunchResume (launch : Nat) (s : State) : Host.Outcome State Fault Refusal :=
  let a := launchOf s launch
  .next (match a.saved with
    | some v =>
      if a.killed || !allInstalled s launch then s
      else if !logsFit s v then push s (.launchResume launch)
      else resumeLaunch s launch v
    | none => s)

/-! ### AGING_PREEMPT (R410, R411) -/

/-- Core cycles in a microsecond at the clock that CLKSTEP gives (R453, R456). -/
def usCycles (s : State) : Nat := [3600, 3200, 2800, 2400][field s.dbg.clkStep 0 2]?.getD 3600

/-- Whole periods of 64 µs since a time (R410, R411). -/
def periods (s : State) (since : W64) : Nat := (s.time - since).toNat / (64 * usCycles s)

/-- The effective priority of a launch that waits (R410, R411). -/
def effectivePrio (s : State) (prio : Nat) (since : W64) : Nat := min 7 (prio + periods s since)

/-- The resident launches that may be pre-empted for a priority: lower ones, not resumed within 64 µs; lowest first, and among equals the
most recently started. -/
def preemptable (s : State) (e : Nat) : List Nat :=
  let cs := s.launches.filter fun (_, a) => a.state == .running && !a.preempt && !a.killed && decide (a.prio < e) &&
    (match a.resumed with | some t => decide (1 ≤ periods s t) | none => true)
  (sorted (fun (_, a) (_, b) => decide (a.prio < b.prio) || (a.prio == b.prio && decide (b.started.toNat ≤ a.started.toNat))) cs).map (·.1)

/-- The launches that are being pre-empted. -/
def leaving (s : State) : List Nat := (s.launches.filter fun (_, a) => a.preempt).map (·.1)

/-- The fewest launches of a list, from its front, whose going makes room. -/
def shortest (fits : List Nat → Bool) (gone : List Nat) : List Nat → Option (List Nat)
  | [] => if fits gone then some [] else none
  | l :: r => if fits gone then some [] else (shortest fits (gone ++ [l]) r).map (l :: ·)

/-- Which launches are pre-empted for a launch that has been pending for 64 µs, if any must be and that makes room. -/
def agingVictims (s : State) (l : Nat) : List Nat :=
  let a := launchOf s l
  if (a.state == .pending || a.state == .saved) && !a.killed && decide (1 ≤ periods s a.waits) then
    (shortest (fun gone => launchFits s gone a) (leaving s) (preemptable s (effectivePrio s a.prio a.since))).getD []
  else []

/-- AGING_PREEMPT (R411). -/
def execAgingPreempt (launch : Nat) (s : State) : Host.Outcome State Fault Refusal :=
  .next ((agingVictims s launch).foldl (fun s v => askPreempt s v none) s)

end Sys2Proof.Machine
end

