-- ==== Sys2Proof/Machine/Scheduler.lean ====
section
/-! DEFINITION. The global scheduler core's and the leaves' part: choosing a queue and taking its packet, command links, event registers, the
monitor and the entry cache (R401 to R413). -/

namespace Sys2Proof.Machine

/-! ### The entry cache (R405) -/

/-- The fields of a queue's control block, as the entry cache holds them, or as its home does. -/
def entryOf (s : State) (q : Nat) : QueueEntry :=
  match s.glob.entries.find? (·.queue == q) with
  | some e => e
  | none => refreshEntry s { queue := q, rbase := 0, log2n := 0, prio := 0, space := 0, flags := 0,
                             sched := BitVec.ofNat 128 (leNat (homeRead s (qcbAddr s q + 48) 16)) }

/-- An entry written back and dropped (R405): SCHED goes to its control block. -/
def evictEntry (s : State) (e : QueueEntry) : State :=
  let s := { s with glob := { s.glob with entries := s.glob.entries.filter (·.queue != e.queue) } }
  homeWrite s (qcbAddr s e.queue + 48) (leBytes 16 e.sched.toNat)

/-- An entry filled: of the 8 entries of its set, the oldest makes room (R405). -/
def fillEntry (s : State) (q : Nat) : State :=
  if s.glob.entries.any (·.queue == q) then s
  else
    let e := entryOf s q
    let set := s.glob.entries.filter fun x => x.queue % 512 == q % 512
    let s := match set with
      | v :: _ => if set.length ≥ 8 then evictEntry s v else s
      | [] => s
    { s with glob := { s.glob with entries := s.glob.entries ++ [e] } }

/-! ### Which queue is served (R410) -/

/-- HEAD and TAIL of a queue (R404). -/
def headTail (s : State) (q : Nat) : Nat × Nat := (qcbCount s q 16, qcbCount s q 24)

/-- Whether a queue is eligible (R410). -/
def eligible (s : State) (q : Nat) : Bool :=
  let e := entryOf s q
  decide (q < s.glob.qtSize.toNat) && bit e.flags 0 && !bit e.flags 2 && (headTail s q).1 != (headTail s q).2 &&
    !s.launches.any fun (_, a) => a.queue == q && (a.state == .pending || a.state == .saved)

/-- When a queue's head packet was published (R410). -/
def publishedAt (s : State) (q : Nat) : W64 := (Tab.get [] s.glob.stamps q).headD s.time

/-- The effective priority of a queue (R410). -/
def queuePrio (s : State) (q : Nat) : Nat := effectivePrio s (entryOf s q).prio (publishedAt s q)

/-- Queue numbers in the order in which a level is served, beginning after the one served last (R410). -/
def servingOrder (s : State) (level : Nat) : List Nat :=
  let n := s.glob.qtSize.toNat
  let last := (s.glob.lastServed.toList[level]?).getD 0
  (List.range n).map fun i => (last + 1 + i) % n

/-- The queue that is served next (R410): of those of the highest effective priority, the first in the level's order. -/
def nextQueue (s : State) : Option Nat :=
  let es := (List.range s.glob.qtSize.toNat).filter (eligible s)
  let top := (es.map (queuePrio s)).foldl max 0
  if es.isEmpty then none else (servingOrder s top).find? fun q => es.contains q && queuePrio s q == top

/-! ### LAUNCH_PACKET_TAKE (R407 to R410) -/

/-- A gang's table entry as a region to be placed (R407); none where a field is out of range. -/
def gangRegion (bs : List Byte) : Option Region :=
  let w := at' bs 0 1
  let h := at' bs 1 1
  let die := at' bs 2 1
  if decide (1 ≤ w ∧ w ≤ 16 ∧ 1 ≤ h ∧ h ≤ 16) && (decide (die ≤ 3) || die == 255) && alignedVa (word64At bs 8) 64 && alignedVa (word64At bs 16) 8 then
    some { Region.unplaced w h (word64At bs 8) (word64At bs 16) with onDie := if die = 255 then none else some die }
  else none

/-- One entry of a gang table, read in the launch's space; the inner option is none where the table is not as R407 gives. -/
def readGangEntry (s : State) (space : Nat) (va : W64) : Except State (Option Region) :=
  match walkPa s 0 space va with
  | none => .ok none
  | some pa =>
    match readFrom s none s.glob.active pa 32 false with
    | .ok bs => .ok (gangRegion bs)
    | .error (.stall t) => .error t
    | .error _ => .ok none

/-- The regions of a gang table. -/
def readGang (s : State) (space : Nat) (va : W64) : Nat → Except State (Option (List Region))
  | 0 => .ok (some [])
  | n + 1 => do
    match ← readGangEntry s space va with
    | none => .ok none
    | some g => do
      match ← readGang s space (va + 32) n with
      | none => .ok none
      | some gs => .ok (some (g :: gs))

/-- The launch that a packet describes, without its regions. -/
def launchOfPacket (s : State) (q : Nat) (e : QueueEntry) (head : Nat) (p : List Byte) : Launch :=
  { Launch.none with
    state := .pending, gang := at' p 0 1 == 2, allowDeg := at' p 1 1 == 1, prio := min (at' p 2 1) e.prio, space := e.space, queue := q,
    w := at' p 4 1, h := at' p 5 1, image := word64At p 8, args := word64At p 16, signal := word64At p 24, errRec := word64At p 48,
    parent := if bit e.flags 1 then at' p 32 4 else 0, seq := head, footprint := word64At p 40, since := publishedAt s q, waits := s.time }

/-- The next launch identifier: no launch that is still there has it, and zero names none (R29). -/
def freshLid (s : State) : Nat := if s.glob.nextLid % 2 ^ 32 = 0 then 1 else s.glob.nextLid % 2 ^ 32

/-- A packet passed: HEAD advances by one (R405, R409). -/
def passPacket (s : State) (q head : Nat) : State :=
  let s := { s with glob := { s.glob with stamps := (match (Tab.get [] s.glob.stamps q).drop 1 with
    | [] => Tab.del s.glob.stamps q
    | r => Tab.put s.glob.stamps q r) } }
  homeWrite s (qcbAddr s q + 16) (leBytes 8 (head + 1))

/-- A launch entered under the next identifier; the queue is the last served at its level. -/
def enterLaunch (s : State) (q : Nat) (a : Launch) : State :=
  let l := freshLid s
  let level := queuePrio s q
  setLaunch { s with glob := { s.glob with nextLid := l + 1, lastServed := s.glob.lastServed.setIfInBounds level q } } l a

/-- A packet that is not run (R409): its launch completes with CAUSE PACKET, or it is dropped and DROPS counts it. -/
def refusePacket (s : State) (q head : Nat) (a : Launch) (p : List Byte) : State :=
  if signalUsable p then
    let l := freshLid s
    let a := { a with error := some { cause := 15, sub := 0, x := 0xFF, y := 0xFF, task := 0xFF, count := 1 }, state := .retiring,
                      errRec := if alignedVa a.errRec 16 then a.errRec else 0, regions := [] }
    passPacket (push (enterLaunch s q a) (.launchComplete l)) q head
  else
    let pa := qcbAddr s q + 40
    passPacket (homeWrite s pa (leBytes 4 (leNat (homeRead s pa 4) + 1))) q head

/-- The regions that a good packet asks for, if its gang table is good too. -/
def packetRegions (s : State) (e : QueueEntry) (p : List Byte) : Except State (Option (List Region)) :=
  if at' p 0 1 = 2 then readGang s e.space (word64At p 8) (at' p 6 2)
  else .ok (some [Region.unplaced (at' p 4 1) (at' p 5 1) (word64At p 8) (word64At p 16)])

/-- The bytes of a queue's head packet; zeros where its ring does not lie in memory that is there. -/
def readHead (s : State) (e : QueueEntry) (head : Nat) : Except State (List Byte) :=
  let pa := e.rbase.toNat + 64 * (head % 2 ^ min e.log2n 16)
  if !physReady s pa then .ok (List.replicate 64 0)
  else
    match readFrom s none s.glob.active pa 64 false with
    | .ok bs => .ok bs
    | .error (.stall t) => .error t
    | .error _ => .ok (List.replicate 64 0)

/-- LAUNCH_PACKET_TAKE (R409, R410): the head packet of an eligible queue is read and checked, HEAD passes it, and its launch is pending. -/
def execLaunchPacketTake (queue : Nat) (s : State) : Host.Outcome State Fault Refusal :=
  .next (
    if !eligible s queue then s
    else
      match placeReady s (qcbAddr s queue) 64 true true with
      | .error (.stall t) => t
      | .error _ => s
      | .ok _ =>
        let s := fillEntry s queue
        let e := entryOf s queue
        let head := (headTail s queue).1
        match readHead s e head with
        | .error t => t
        | .ok p =>
          let a := launchOfPacket s queue e head p
          if !(packetOk p (bit e.flags 1) && spaceValid s 0 e.space) then refusePacket s queue head a p
          else
            match packetRegions s e p with
            | .error t => t
            | .ok none => refusePacket s queue head a p
            | .ok (some gs) => passPacket (enterLaunch s queue { a with regions := gs }) queue head)

/-! ### Command links (R403) -/

/-- Dword `i` of a 64-byte message set. -/
def setDword (m : List W64) (i : Nat) (w : W64) : List W64 := m.set i w

/-- CLTX: dword 7 of the next command to a leaf, which sends it; without a permit it waits (R403). -/
def sendCommand (s : State) (leaf : Nat) (w : W64) : Exec :=
  let g := s.glob
  let permits := (g.permits.toList[leaf]?).getD 0
  let m := setDword ((g.tx.toList[leaf]?).getD []) 7 w
  if permits = 0 then .error (.stall s)
  else
    .ok (push { s with glob := { g with
      permits := g.permits.setIfInBounds leaf (permits - 1), tx := g.tx.setIfInBounds leaf m,
      txFlight := g.txFlight.setIfInBounds leaf ((g.txFlight.toList[leaf]?).getD [] ++ [m]) } } (.commandLinkMessage true leaf))

/-- CLTX (R401, R403). -/
def execCltx (leaf : Nat) (w : W64) (s : State) : Host.Outcome State Fault Refusal := finish s (sendCommand s leaf w)

/-- CLTX of a leaf block: dword 7 of the next report, which sends it; without a permit it waits (R402, R403). -/
def sendReport (s : State) (leaf : Nat) (w : W64) : Exec :=
  let x := coreOf s leaf
  let b := x.block
  let m := setDword b.tx 7 w
  if b.permits = 0 then .error (.stall s)
  else
    .ok (push (setCore s leaf { x with block := { b with permits := b.permits - 1, tx := m, txFlight := b.txFlight ++ [m] } })
      (.commandLinkMessage false leaf))

/-- LEAF_CLTX (R402, R403). -/
def execLeafCltx (leaf : Nat) (w : W64) (s : State) : Host.Outcome State Fault Refusal := finish s (sendReport s leaf w)

/-- A DONE report of a leaf is for the region of its that retired first of those it has not reported; the launch may be over with it (R403,
R413; log 128). -/
def leafDone (s : State) (leaf : Nat) (m : List W64) : State :=
  let x := coreOf s leaf
  match field (m[0]?.getD 0) 0 8 == 3, x.block.awaiting with
  | true, (l, r) :: rest =>
    let s := setCore s leaf { x with block := { x.block with awaiting := rest } }
    match Tab.find? s.launches l, regionOf s l r with
    | some _, some g => push (setRegion s l r { g with awaited := false }) (.launchComplete l)
    | _, _ => s
  | _, _ => s

/-- COMMAND_LINK_MESSAGE (R401 to R403, R413): the oldest message on its way on a link arrives, and sets the receiver's event bit. -/
def execCommandLinkMessage (toLeaf : Bool) (leaf : Nat) (s : State) : Host.Outcome State Fault Refusal :=
  .next (
    if toLeaf then
      match (s.glob.txFlight.toList[leaf]?).getD [] with
      | [] => s
      | m :: r =>
        let s := { s with glob := { s.glob with txFlight := s.glob.txFlight.setIfInBounds leaf r } }
        let x := coreOf s leaf
        setLeafEvents (setCore s leaf { x with block := { x.block with rx := x.block.rx ++ [m] } }) leaf 1
    else
      let x := coreOf s leaf
      match x.block.txFlight with
      | [] => s
      | m :: r =>
        let s := setCore s leaf { x with block := { x.block with txFlight := r } }
        setEvents { leafDone s leaf m with glob := { (leafDone s leaf m).glob with rx := s.glob.rx ++ [(leaf, m)] } } 2)

/-- Dword `i` of the oldest report; with none, a free value (log 40). -/
def reportDword (s : State) (i : Nat) : W64 :=
  match s.glob.rx with
  | (_, m) :: _ => m[i]?.getD 0
  | [] => Config.freeWord s.clock 12

/-- The oldest report taken, and its leaf's permit returned (R403). -/
def takeReport (s : State) : State :=
  match s.glob.rx with
  | (c, _) :: r =>
    let x := coreOf s c
    setCore { s with glob := { s.glob with rx := r } } c { x with block := { x.block with permits := x.block.permits + 1 } }
  | [] => s

/-- CLRX (R401): the read of dword 7. -/
def execClrx (s : State) : Host.Outcome State Fault Refusal := .next (takeReport s)

/-- Dword `i` of the oldest command of a leaf; with none, a free value (log 40). -/
def commandDword (s : State) (leaf i : Nat) : W64 :=
  match (coreOf s leaf).block.rx with
  | m :: _ => m[i]?.getD 0
  | [] => Config.freeWord s.clock 12

/-- The oldest command of a leaf taken, and its permit returned (R403). -/
def takeCommand (s : State) (leaf : Nat) : State :=
  let x := coreOf s leaf
  match x.block.rx with
  | _ :: r =>
    let s := setCore s leaf { x with block := { x.block with rx := r } }
    { s with glob := { s.glob with permits := s.glob.permits.setIfInBounds leaf ((s.glob.permits.toList[leaf]?).getD 0 + 1) } }
  | [] => s

/-- LEAF_CLRX (R402): the read of dword 7. -/
def execLeafClrx (leaf : Nat) (s : State) : Host.Outcome State Fault Refusal := .next (takeCommand s leaf)

/-! ### Reads that take (R401, R402) -/

/-- What RETIRED reads: the oldest retired handle and its cause, or bit 63 alone. -/
def retiredWord (s : State) (leaf : Nat) : W64 := (coreOf s leaf).block.retired.headD 0x8000000000000000

/-- The oldest retired handle taken. -/
def takeRetired (s : State) (leaf : Nat) : State :=
  let x := coreOf s leaf
  setCore s leaf { x with block := { x.block with retired := x.block.retired.drop 1 } }

/-- RETIRED (R402). -/
def execRetired (leaf : Nat) (s : State) : Host.Outcome State Fault Refusal := .next (takeRetired s leaf)

/-- What MONHIT reads: the oldest watched queue whose line was written, or bit 63 alone. -/
def monhitWord (s : State) : W64 :=
  match s.glob.hits with
  | q :: _ => BitVec.ofNat 64 (q % 2 ^ 20)
  | [] => 0x8000000000000000

/-- The oldest hit taken. -/
def takeHit (s : State) : State := { s with glob := { s.glob with hits := s.glob.hits.drop 1 } }

/-- MONHIT (R401, R406). -/
def execMonhit (s : State) : Host.Outcome State Fault Refusal := .next (takeHit s)

/-! ### The monitor and the entry cache (R401, R405, R406) -/

/-- The line of a queue's control block watched; beyond 4,096 lines nothing is added (log 41). -/
def watchQueue (s : State) (q : Nat) : State :=
  let line := qcbAddr s q / 128
  if s.glob.monitored.contains line || s.glob.monitored.length ≥ 4096 then s
  else { s with glob := { s.glob with monitored := s.glob.monitored ++ [line] } }

/-- The line no longer watched. -/
def unwatchQueue (s : State) (q : Nat) : State :=
  { s with glob := { s.glob with monitored := s.glob.monitored.filter (· != qcbAddr s q / 128) } }

/-- MONSET_WATCH (R406). -/
def execMonsetWatch (queue : Nat) (s : State) : Host.Outcome State Fault Refusal := .next (watchQueue s queue)

/-- MONSET_UNWATCH (R406). -/
def execMonsetUnwatch (queue : Nat) (s : State) : Host.Outcome State Fault Refusal := .next (unwatchQueue s queue)

/-- A queue's entry written back and dropped, if the cache holds it. -/
def flushEntry (s : State) (q : Nat) : State :=
  match s.glob.entries.find? (·.queue == q) with
  | some e => evictEntry s e
  | none => s

/-- CEFLUSH (R401, R405). -/
def execCeflush (queue : Nat) (s : State) : Host.Outcome State Fault Refusal := .next (flushEntry s queue)

/-! ### Timers (R401, R402) -/

/-- GLOBAL_TIMER_EXPIRY (R401): EVENTS bit 2, unless TIMER was disabled meanwhile; the timer has then run out. -/
def execGlobalTimerExpiry (s : State) : Host.Outcome State Fault Refusal :=
  .next (if s.glob.timer = 0 then s else setEvents { s with glob := { s.glob with timer := 0 } } 4)

/-- LEAF_TIMER_EXPIRY (R402). -/
def execLeafTimerExpiry (leaf : Nat) (s : State) : Host.Outcome State Fault Refusal := .next (setLeafEvents s leaf 8)

end Sys2Proof.Machine
end

