-- ==== Sys2Proof/Machine/Bringup.lean ====
section
/-! DEFINITION. Bring-up: reset, training, measured boot, recovery, attestation and debug tokens (R441 to R449). -/

namespace Sys2Proof.Machine

/-! ### Measurement registers (R448) -/

/-- The 64 bytes of a digest, lowest first. -/
def digestBytes (d : BitVec 512) : List Byte := leBytes 64 d.toNat

/-- A measurement register extended with a digest (R448). -/
def measure (s : State) (i : Nat) (d : BitVec 512) : State :=
  let old := (s.dbg.meas.toList[i]?).getD 0
  { s with dbg := { s.dbg with meas := s.dbg.meas.setIfInBounds i (shake256 (digestBytes old ++ digestBytes d)) } }

/-- MEASEXT written (R448): extends M5 to M7 with the digest at an address; M0 to M4 are the ROM's. -/
def measureFrom (s : State) (w : W64) : State :=
  if field w 0 3 ≤ 4 then s else measure s (field w 0 3) (BitVec.ofNat 512 (leNat (homeRead s (64 * field w 6 46) 64)))

/-- MEASEXT (R448). -/
def execMeasext (w : W64) (s : State) : Host.Outcome State Fault Refusal := .next (measureFrom s w)

/-! ### Training (R445) -/

/-- What a trained unit is (R445). -/
inductive UnitClass where
  | hbm | lpddr | floholt | cxl | absent
  deriving DecidableEq, Repr

/-- The first port of a die (R11). -/
def firstPort (die : Nat) : Nat := ([0, 5, 9, 14][die]?).getD 18

/-- The kind of unit `u`; a port that can run CXL is one of the two (R11, R445, log 42). -/
def unitClass (u : Nat) : UnitClass :=
  if u < 12 then .hbm
  else if u < 16 then .lpddr
  else if u < 34 then (if (List.range 4).any (fun d => firstPort d + 16 == u && Config.cxlPort d) then .absent else .floholt)
  else if u < 38 then (if Config.cxlPort (u - 34) then .cxl else .absent)
  else .absent

/-- The codes that the ROM runs for a unit, in order; RESTORE is a warm start's (R445). -/
def UnitClass.sequence : UnitClass → List Nat
  | .hbm => [1, 2, 3, 4, 5, 6, 8]
  | .lpddr => [1, 9, 3, 4, 5, 6, 8]
  | .floholt => [1, 10, 11, 12, 8]
  | .cxl => [1, 13, 8]
  | .absent => []

/-- Whether a code is valid for a unit's kind (R445). -/
def UnitClass.valid (k : UnitClass) (code : Nat) : Bool :=
  k.sequence.contains code || (code == 7 && (k == .hbm || k == .lpddr))

/-- The code that the ROM runs after another: after RESTORE, ONLINE. -/
def UnitClass.after (k : UnitClass) (code : Nat) : Option Nat :=
  if code = 7 then some 8 else (k.sequence.dropWhile (· != code)).tail.head?

/-- A unit before any training. -/
def TrainUnit.none : TrainUnit := { stat := 0, cfg := 0, step := 0, tries := 0, saved := false }

/-- A trained unit's registers. -/
def trainAt (s : State) (u : Nat) : TrainUnit := Tab.get TrainUnit.none s.dbg.train u

/-- The state with a unit's registers replaced. -/
def setTrain (s : State) (u : Nat) (x : TrainUnit) : State := { s with dbg := { s.dbg with train := Tab.put s.dbg.train u x } }

/-- TRNSTAT while busy, after a pass and after a fail (R445, log 43). -/
def trnBusy : W64 := 1
/-- TRNSTAT after a pass. -/
def trnPass : W64 := 2
/-- TRNSTAT after a fail. -/
def trnFail : W64 := 3

/-- A training step begins: TRNSTAT shows busy, and its end is a step to come; a code not valid for the unit's kind fails at once. -/
def startStep (s : State) (u code : Nat) : State :=
  if (unitClass u).valid code then
    push (setTrain s u { trainAt s u with stat := trnBusy }) (.trainingComplete u code (Config.trainPass s.clock u code))
  else setTrain s u { trainAt s u with stat := trnFail }

/-- The ROM begins a step of a unit. -/
def romStep (s : State) (code u : Nat) : State := startStep (setTrain s u { trainAt s u with step := code, tries := 1 }) u code

/-- ONLINE done (R443, R445): READY bit 1 + u, and a port is up. -/
def bringOnline (s : State) (u : Nat) : State :=
  let g := s.glob
  { s with
    dbg := { s.dbg with ready := s.dbg.ready ||| ((1 : W64) <<< (1 + u)) },
    glob := { g with floholtUp := if 16 ≤ u ∧ u < 34 then g.floholtUp ||| ((1 : BitVec 18) <<< (u - 16)) else g.floholtUp,
                     cxlUp := if 34 ≤ u ∧ u < 38 then g.cxlUp ||| ((1 : BitVec 4) <<< (u - 34)) else g.cxlUp } }

/-- What a passed step leaves (R445): SAVE the saved results, ONLINE the unit open. -/
def stepPassed (s : State) (u code : Nat) : State :=
  if code = 6 then setTrain s u { trainAt s u with saved := true } else if code = 8 then bringOnline s u else s

/-- TRNSTAT after a step: bit 8 after EQ of a Floholt port tells of a failed lane, which is a free value (R445, log 13). -/
def trnStat (s : State) (code : Nat) (pass : Bool) : W64 :=
  (if pass then trnPass else trnFail) ||| (if pass && code == 10 then Config.freeWord s.clock 21 &&& 0x100 else 0)

/-- The ROM goes on after a step (R444, R445): with the next code; with the same one up to three more times; after RESTORE with full
training; and otherwise the unit stays as it is. -/
def romNext (s : State) (u code : Nat) (pass : Bool) : State :=
  let x := trainAt s u
  if x.step ≠ code then s
  else if pass then
    match (unitClass u).after code with
    | some c => romStep s c u
    | none => setTrain s u { x with step := 0 }
  else if x.tries ≤ 3 then startStep (setTrain s u { x with tries := x.tries + 1 }) u code
  else if code = 7 then romStep s 1 u
  else setTrain s u { x with step := 0 }

/-- TRAINING_COMPLETE (R445): the step passes or fails; a RESTORE without saved results fails its check. -/
def execTrainingComplete (unit code : Nat) (pass : Bool) (s : State) : Host.Outcome State Fault Refusal :=
  let pass := pass && (code != 7 || (trainAt s unit).saved)
  let s := setTrain s unit { trainAt s unit with stat := trnStat s code pass }
  .next (romNext (if pass then stepPassed s unit code else s) unit code pass)

/-- TRN_RESET (R445). -/
def execTrnReset (unit : Nat) (s : State) : Host.Outcome State Fault Refusal := .next (startStep s unit 1)
/-- LANETEST (R445). -/
def execLanetest (unit : Nat) (s : State) : Host.Outcome State Fault Refusal := .next (startStep s unit 2)
/-- WCK (R445). -/
def execWck (unit : Nat) (s : State) : Host.Outcome State Fault Refusal := .next (startStep s unit 9)
/-- CATRAIN (R445). -/
def execCatrain (unit : Nat) (s : State) : Host.Outcome State Fault Refusal := .next (startStep s unit 3)
/-- RDTRAIN (R445). -/
def execRdtrain (unit : Nat) (s : State) : Host.Outcome State Fault Refusal := .next (startStep s unit 4)
/-- WRTRAIN (R445). -/
def execWrtrain (unit : Nat) (s : State) : Host.Outcome State Fault Refusal := .next (startStep s unit 5)
/-- EQ (R445). -/
def execEq (unit : Nat) (s : State) : Host.Outcome State Fault Refusal := .next (startStep s unit 10)
/-- DESKEW (R445). -/
def execDeskew (unit : Nat) (s : State) : Host.Outcome State Fault Refusal := .next (startStep s unit 11)
/-- FLITLOCK (R445). -/
def execFlitlock (unit : Nat) (s : State) : Host.Outcome State Fault Refusal := .next (startStep s unit 12)
/-- LTSSM (R445). -/
def execLtssm (unit : Nat) (s : State) : Host.Outcome State Fault Refusal := .next (startStep s unit 13)
/-- SAVE (R445). -/
def execSave (unit : Nat) (s : State) : Host.Outcome State Fault Refusal := .next (startStep s unit 6)
/-- RESTORE (R445). -/
def execRestore (unit : Nat) (s : State) : Host.Outcome State Fault Refusal := .next (startStep s unit 7)
/-- ONLINE (R445). -/
def execOnline (unit : Nat) (s : State) : Host.Outcome State Fault Refusal := .next (startStep s unit 8)

/-! ### Cold and warm start (R443, R444) -/

/-- INCARN after a reset: a free value that differs from the last one (R419, log 8). -/
def newIncarn (s : State) : BitVec 16 :=
  s.glob.incarn + 1 + BitVec.ofNat 16 ((Config.incarnation s.clock s.glob.incarn).toNat % 65535)

/-- What a reset of any kind does (R419, R443, R444, R448): every core, controller, engine, register and SRAM is as after power-on, INCARN is new,
and M0 is extended again; the firmware slot and the saved training results are no part of what is reset. -/
def afterReset (s : State) (keep : Nat → Bool) : State :=
  let d := { State.reset.dbg with
    ready := 1, fwSlot := s.dbg.fwSlot, retained := Config.bootDigest,
    train := s.dbg.train.map fun (u, x) => (u, { TrainUnit.none with saved := x.saved }) }
  let g := { State.reset.glob with incarn := newIncarn s }
  let bad := s.badLines.filter fun (l, _) => keep (128 * l)
  measure { State.reset with clock := s.clock, agenda := [], mem := s.mem.filter fun (a, _) => keep a, badLines := bad, glob := g, dbg := d }
    0 Config.bootDigest

/-- Steps 4 and 5 (R443): the SRAMs are clear, and the image is loaded next. -/
def sramCleared (s : State) : State :=
  push { s with dbg := { s.dbg with ready := s.dbg.ready ||| ((1 : W64) <<< 39) } } .firmwareLoad

/-- Whether an address is of the host and fabric range, which is not this package's memory (R187). -/
def isFar (a : Nat) : Bool := physKind a == .far

/-- A cold start (R443, log 51): the fuses are sensed, every unit trains, and the image follows. -/
def coldStart (s : State) : State :=
  let t := afterReset s isFar
  let t := { t with dbg := { t.dbg with train := [] } }
  sramCleared (((List.range 38).filter fun u => unitClass u != .absent).foldl (fun s u => romStep s 1 u) t)

/-- COLD_START (R443). -/
def execColdStart (s : State) : Host.Outcome State Fault Refusal := .next (coldStart s)

/-- READY bits of the ports that are up (R443). -/
def portReady (s : State) : W64 := (s.glob.floholtUp.setWidth 64 <<< 17) ||| (s.glob.cxlUp.setWidth 64 <<< 35)

/-- A warm start (R444, log 51): HBM4E and LPDDR keep their contents, and links that are up stay up; each memory unit runs RESTORE. A retained
store that fails its check makes it a cold start. -/
def warmStart (s : State) : State :=
  if s.dbg.retained ≠ Config.bootDigest then coldStart s
  else
    let t := afterReset s fun a => match physKind a with | .hbm _ => true | .lpddr _ => true | .far => true | _ => false
    let t := { t with time := s.time, glob := { t.glob with floholtUp := s.glob.floholtUp, cxlUp := s.glob.cxlUp },
                      dbg := { t.dbg with ready := t.dbg.ready ||| portReady s } }
    sramCleared ((List.range 16).foldl (fun s u => romStep s 7 u) t)

/-- WARM_START (R444). -/
def execWarmStart (s : State) : Host.Outcome State Fault Refusal := .next (warmStart s)

/-! ### The firmware image (R446, R447) -/

/-- Bytes of a signature (R442). -/
def sigBytes : Nat := 29792

/-- Whether the ROM accepts an image (R446). -/
def imageOk (img : List Byte) : Bool :=
  let n := at' img 8 8
  let key := (img.drop 64).take 64
  at' img 0 4 == 1 && decide (Config.minSvn ≤ at' img 4 4) && decide (img.length = 128 + n + sigBytes) &&
    Config.rootKeyDigests.contains (shake256 key) && slhVerify key (img.take (128 + n)) (img.drop (128 + n))

/-- Code words of an image as a store, from word `first` of its body (R446). -/
def codeStore (img : List Byte) (first n : Nat) : Table W128 :=
  (List.range n).map fun i => (i, BitVec.ofNat 128 (leNat ((img.drop (128 + 16 * (first + i))).take 16)))

/-- A controller entered at a word with its store filled (R397, R443). -/
def Controller.enter (code : Table W128) (pc : Nat) : Controller :=
  { Controller.off with thread := Thread.start pc, istore := code, running := true }

/-- An accepted image boots (R443, R446): M1 and M2 are extended, the stores are filled, and the global and leaf entries are entered. -/
def bootImage (s : State) : State :=
  let img := s.dbg.fwSlot
  let s := measure s 1 (shake256 (img.take 128))
  let s := measure s 2 (shake256 ((img.drop 128).take (at' img 8 8)))
  let leaf := Controller.enter (codeStore img (at' img 24 4) (at' img 28 4)) (at' img 20 4)
  let s := (List.range 16).foldl (fun s c => setCore s c { coreOf s c with leaf := leaf }) s
  { s with glob := { s.glob with ctl := Controller.enter (codeStore img 0 (at' img 24 4)) (at' img 16 4) },
           dbg := { s.dbg with ready := s.dbg.ready ||| ((1 : W64) <<< 40), rcvStat := 0 } }

/-- FIRMWARE_LOAD (R443, R446, R447): after the SRAMs are clear, the image in the slot boots; one that is refused, or none, leaves the ROM
waiting for recovery. -/
def execFirmwareLoad (s : State) : Host.Outcome State Fault Refusal :=
  .next (if !bit s.dbg.ready 39 then s
    else if imageOk s.dbg.fwSlot then bootImage s
    else { s with dbg := { s.dbg with rcvStat := 1 } })

/-- The image in the recovery buffer, as long as its header says (R446, R447). -/
def recoveryImage (s : State) : List Byte :=
  let base := Config.recoveryBase.toNat
  homeRead s base (min (128 + leNat (homeRead s (base + 8) 8) + sigBytes) (2 ^ 26))

/-- RCVGO (R447): the image in the recovery buffer is verified; M4 is extended with the recovery port, and an image that is accepted is
written into the slot and boots. While firmware runs it has no effect (log 50). -/
def rcvGo (s : State) (w : W64) : State :=
  if !bit w 0 || bit s.dbg.ready 40 then s
  else
    let img := recoveryImage s
    let s := measure s 4 (shake256 (leBytes 8 (Config.freeWord s.clock 22).toNat))
    if imageOk img then bootImage { s with dbg := { s.dbg with fwSlot := img } } else { s with dbg := { s.dbg with rcvStat := 3 } }

/-- RCVGO (R447). -/
def execRcvgo (w : W64) (s : State) : Host.Outcome State Fault Refusal := .next (rcvGo s w)

/-! ### Attestation (R449) -/

/-- A quote asked for: QSTAT shows busy. -/
def askQuote (s : State) (w : W64) : State := push { s with dbg := { s.dbg with qStat := 1 } } (.quoteDone (64 * field w 6 46))

/-- QUOTE (R449). -/
def execQuote (w : W64) (s : State) : Host.Outcome State Fault Refusal := .next (askQuote s w)

/-- What a quote signs (R449, log 44). -/
def quoteBytes (s : State) (nonce : List Byte) : List Byte :=
  s.dbg.meas.toList.flatMap digestBytes ++ nonce ++ [Config.lifecycle.setWidth 8, s.dbg.dbgEn] ++ leBytes 2 s.glob.incarn.toNat ++
    (s.dbg.fwSlot.drop 4).take 4

/-- QUOTE_DONE (R441, R449): the quote follows its nonce, signed with the identity key; in the RETIRED state none is signed. -/
def execQuoteDone (pa : Nat) (s : State) : Host.Outcome State Fault Refusal :=
  .next (if Config.lifecycle = 3 then { s with dbg := { s.dbg with qStat := 0 } }
    else
      let q := quoteBytes s (homeRead s pa 64)
      let s := homeWrite s (pa + 64) (q ++ Config.slhSign q)
      { s with dbg := { s.dbg with qStat := 2 } })

/-! ### Debug tokens (R442) -/

/-- Verification of a token begins. -/
def askToken (s : State) (w : W64) : State := push { s with dbg := { s.dbg with tokStat := 1 } } (.dbgtokenVerified (8 * field w 3 49))

/-- DBGTOKEN (R442). -/
def execDbgtoken (w : W64) (s : State) : Host.Outcome State Fault Refusal := .next (askToken s w)

/-- Whether a token is accepted (R442). -/
def tokenOk (t : List Byte) : Bool :=
  let key := (t.drop 88).take 64
  Config.lifecycle == 1 && BitVec.ofNat 512 (at' t 0 64) == shake256 (digestBytes Config.idPub) &&
    Config.rootKeyDigests.contains (shake256 key) && slhVerify key (t.take 152) (t.drop 152)

/-- DBGTOKEN_VERIFIED (R441, R442): an accepted token opens its features and is extended into M3. -/
def execDbgtokenVerified (pa : Nat) (s : State) : Host.Outcome State Fault Refusal :=
  let t := homeRead s pa 29944
  .next (if tokenOk t then
      let d := s.dbg
      measure { s with dbg := { d with tokStat := 2, dbgEn := d.dbgEn ||| (BitVec.ofNat 8 (at' t 64 1) &&& 0x7F) } } 3 (shake256 t)
    else { s with dbg := { s.dbg with tokStat := 3 } })

end Sys2Proof.Machine
end

