-- ==== Sys2Proof/Machine/Coherence.lean ====
section
/-! DEFINITION. The messages between L1s and homes, and the host's halves (R196 to R214, R237). -/

namespace Sys2Proof.Machine

/-! ### Serving reads at the home (R200) -/

/-- The words of a half of a line. -/
def halfWords (half : Nat) : W32 := if half % 2 = 0 then 0x0000FFFF else 0xFFFF0000

/-- Whether a home can give a half of a line now: the host owns none of its words and is taking none, and in a host window the half is not
Invalid (R210 to R212). -/
def halfServed (s : State) (line half : Nat) : Bool :=
  let h := homeLine s line
  (hostWords h ||| h.dropping) &&& halfWords half == 0 && halfReady s (128 * line + 64 * (half % 2)) false

/-- The words of a line that its home can give now: whole halves (R209, R211). -/
def servedWords (s : State) (line : Nat) : W32 :=
  (if halfServed s line 0 then halfWords 0 else 0) ||| (if halfServed s line 1 then halfWords 1 else 0)

/-- The words that DATA carries: as the home can give them, and of a line with an uncorrectable error none (R450, R451). -/
def sentWords (s : State) (line : Nat) : W32 := if lineBad s line then 0 else servedWords s line

/-- Asks the host for what some words of a line lack: halves of which it owns words, and halves that are not held as they are wanted (R210,
R212). A half that the host is taking is asked for later. -/
def askForLine (s : State) (line : Nat) (wr : Bool) (mask : W32) : State :=
  let h := homeLine s line
  let need (half : Nat) : Bool :=
    (mask &&& halfWords half) != 0 && (h.dropping &&& halfWords half) == 0 &&
      ((hostWords h &&& halfWords half) != 0 || !halfReady s (128 * line + 64 * half) wr)
  let s := if need 0 then askHost s (128 * line) wr else s
  if need 1 then askHost s (128 * line + 64) wr else s

/-- One read at its home, as far as it can go now (R200): it begins once no word is revoking and the home has the halves that it needs, asking
each other owner for its bytes; and the line is sent once every answer is in. Of a half-held line the half that is held is sent (R211), and of
one with an uncorrectable error nothing (R450). -/
def serveRead (s : State) (r : HomeRead) : State :=
  let h := homeLine s r.line
  let others := s.reads.filter fun q => q.req != r.req
  let send : State := push { s with reads := others } (.data r.requester r.line 
      { content := readLine s.mem r.line, words := sentWords s r.line })
  if !r.started then
    if !h.revoking.isEmpty then s
    else if (r.need &&& ~~~servedWords s r.line) != 0 then askForLine s r.line false r.need
    else
      let os := ownersOf h r.requester
      if os.isEmpty then send
      else
        pushAll { s with reads := s.reads.map fun q => if q.req == r.req then { q with started := true, asked := os } else q }
          (os.map fun (c, m) => .fwd c r.line m r.req)
  else if r.asked.isEmpty then send
  else s

/-- Every read of a line at its home, in arrival order. -/
def serveLine (s : State) (line : Nat) : State := (s.reads.filter (·.line == line)).foldl serveRead s

/-- The answer of an owner to a read: its words are no longer awaited. -/
def HomeRead.answer (r : HomeRead) (owner : Nat) (mask : W32) : HomeRead :=
  { r with asked := (r.asked.map fun (c, m) => (c, if c = owner then m &&& ~~~mask else m)).filter fun (_, m) => m ≠ 0 }

/-- The answer recorded, and the line served on. -/
def answered (s : State) (owner line : Nat) (mask : W32) (req : Nat) : State :=
  serveLine { s with reads := s.reads.map fun r => if r.req = req then HomeRead.answer r owner mask else r } line

/-! ### Registration at the home (R191, R197, R199) -/

/-- The distinct owners of a line. -/
def distinctOwners (h : HomeLine) : List Nat := (h.owners.map (·.2)).eraseDups

/-- Whether a line holds an entry of the registration array: it has owners, or its owners are being revoked to free the entry (R191, R199). -/
def HomeLine.inArray (h : HomeLine) : Bool := !h.owners.isEmpty || h.clearing

/-- Whether a line is Split, or its overflow entry is not free yet (R197, R199). -/
def HomeLine.isSplit (h : HomeLine) : Bool := decide (2 ≤ (distinctOwners h).length) || h.clearing

/-- The lines of a line's home with a property, by when the home first made an entry for them (R191, R199; log 123). -/
def homeLines (s : State) (line : Nat) (p : HomeLine → Bool) : List Nat :=
  s.regOrder.filter fun l => homeNo s l == homeNo s line && p (homeLine s l)

/-- The line whose owners must be revoked before an owner can be recorded for a line: the oldest registered line, where the line needs an entry
and all 8,192 are in use; or the oldest Split line, where it would become Split and all 4,096 overflow entries are in use (R191, R199). A line's age,
a Split line's too, is counted from its first entry at the home (DESIGN CHOICE, log 123: R199 does not say whether it counts from becoming Split). -/
def mustClear (s : State) (owner line : Nat) : Option Nat :=
  let h := homeLine s line
  let os := distinctOwners h
  let all := homeLines s line HomeLine.inArray
  let split := homeLines s line HomeLine.isSplit
  if !HomeLine.inArray h && decide (8192 ≤ all.length) then all.head?
  else if !os.isEmpty && os != [owner] && !HomeLine.isSplit h && decide (4096 ≤ split.length) then split.head?
  else none

/-- Every owner of a line revoked, to free its entries once all their write-backs have arrived; a host gives up its words on a back-invalidate
(R191, R199, R212). -/
def clearLine (s : State) (line : Nat) : State :=
  let s := if (hostWords (homeLine s line)) = 0 then s else askForLine s line true (hostWords (homeLine s line))
  let s := sendRevokes s line (BitVec.allOnes 32)
  setHomeLine s line { homeLine s line with clearing := true }

/-- One word recorded for an owner: an earlier owner is to write it back (R199). -/
def HomeLine.record (h : HomeLine) (c w : Nat) : HomeLine :=
  match Tab.find? h.owners w with
  | some d =>
    if d = c then h
    else { h with owners := Tab.put h.owners w c, revoking := h.revoking ++ [{ core := d, words := (1 : W32) <<< w, late := 0 }] }
  | none => { h with owners := Tab.put h.owners w c }

/-- The words of a mask, rising. -/
def wordList (m : W32) : List Nat := (List.range 32).filter fun w => bit m w

/-- REG recorded: the words are the core's at once, REVOKE goes to each earlier owner, and REGACK to the core (R199). -/
def recordReg (s : State) (c line : Nat) (mask : W32) : State :=
  let h := homeLine s line
  let revokes := (ownersOf h c).filterMap fun (d, m) => if m &&& mask = 0 then none else some (Instr.revoke d line (m &&& mask))
  let s := setHomeLine s line { (wordList mask).foldl (fun h w => HomeLine.record h c w) h with held := none }
  serveLine (lineTouched (pushAll s (revokes ++ [.regack c line mask])) line) line

/-! ### Lost words (R207, R208, R420) -/

/-- LOST set in a sync word, which is bit 96 of its 16 bytes, by an OR at its home (R205, R208). -/
def setLost (s : State) (pa : Nat) : State := homeWrite s (pa + 12) [homeByte s (pa + 12) ||| 1]

/-- The sync words of the region-table entries of a launch whose region holds a word (R208), where its space maps them. -/
def syncWordsFor (s : State) (a : Launch) (pa : Nat) : List Nat :=
  a.table.filterMap fun (_, e) =>
    if (pieces s 0 a.space e.base e.len).any (fun (p, n) => decide (p < pa + 4 ∧ pa < p + n)) then walkPa s 0 a.space e.sync else none

/-- Launches that are resident or saved (R208). -/
def liveLaunches (s : State) : List (Nat × Launch) := s.launches.filter fun (_, a) => resident a || a.saved.isSome

/-- One lost word (R208, R420): LOST in the sync word of every region that holds it; in no region, the launch that owned it, which is the one that
stored it last (log 48), has an error. -/
def wordLost (s : State) (owner : Option Nat) (cause pa : Nat) : State :=
  let syncs := ((liveLaunches s).flatMap fun (_, a) => syncWordsFor s a pa).eraseDups
  if syncs.isEmpty then (match owner with | some l => recordError s l cause 0 0xFF 0xFF 0xFF | none => s) else syncs.foldl setLost s

/-- The lost words of a line, each of the launch that had stored it. -/
def wordsLost (s : State) (line : Nat) (mask : W32) (lids : Table Nat) : State :=
  (wordList mask).foldl (fun s w => wordLost s (Tab.find? lids w) 7 (128 * line + 4 * w)) s

/-! ### Registrations -/

/-- A registration that cannot reach its host is lost (R420): its words are lost, no release may wait for it without a trap,
and its launch has an error. -/
def loseReg (s : State) (c line : Nat) (mask : W32) : State :=
  let x := coreOf s c
  let hit (o : RegOut) : Bool := o.line == line && o.mask == mask
  let s := setCore s c { x with regsOut := x.regsOut.map fun o => if hit o then { o with lost := true } else o }
  let s := setHomeLine s line { homeLine s line with held := none }
  let s := wordsLost s line mask []
  match (x.regsOut.filter hit).head?.bind (·.who.head?) with
  | some (.task r) => recordError s r.launch 12 0 r.x r.y r.slot
  | some (.node l _) => recordError s l 12 0 0xFF 0xFF 0xFF
  | none => s

/-- Whether a far line cannot be reached. -/
def lineLost (s : State) (line : Nat) : Bool :=
  match physKind (128 * line) with
  | .far => (match farTarget s 0 (128 * line) with | .host _ => false | _ => true)
  | _ => false

/-- Whether a REG can be recorded now: the host owns none of its words and takes none, and in a host window the halves are Exclusive (R210 to
R212, R214). -/
def regReady (s : State) (line : Nat) (mask : W32) : Bool :=
  ((hostWords (homeLine s line) ||| (homeLine s line).dropping) &&& mask) == 0 &&
    (wordList mask).all fun w => halfReady s (128 * line + 4 * w) true

/-- A registration that waits at its home; the line's later ones and reads wait behind it (R199, R210). -/
def holdReg (s : State) (core line : Nat) (mask : W32) : State :=
  defer (setHomeLine s line { homeLine s line with held := some (core, mask) }) (.reg core line mask)

/-- REG (R191, R199, R210, R212, R420): recorded once the host has given up its words and there is room. -/
def execReg (core line : Nat) (mask : W32) (s : State) : Host.Outcome State Fault Refusal :=
  .next (
    if lineLost s line then loseReg s core line mask
    else if !regReady s line mask then holdReg (askForLine s line true mask) core line mask
    else
      match mustClear s core line with
      | some l => holdReg (clearLine s l) core line mask
      | none => recordReg s core line mask)

/-- REGACK (R198): the registration is recorded. -/
def execRegack (core line : Nat) (mask : W32) (s : State) : Host.Outcome State Fault Refusal :=
  let x := coreOf s core
  let i := x.regsOut.findIdx fun o => o.line == line && o.mask == mask
  .next (setCore s core { x with regsOut := x.regsOut.eraseIdx i })

/-- RDREQ (R200): the read waits at the home until it can be served. -/
def execRdreq (core : Nat) (line : LineRead) (s : State) : Host.Outcome State Fault Refusal :=
  let r : HomeRead := { req := s.nextReq, line := line.line, requester := core, need := line.need, started := false, asked := [] }
  .next (serveLine { s with reads := s.reads ++ [r], nextReq := s.nextReq + 1 } line.line)

/-- DATA (R198). The line takes the eviction priority of the access that caused the read (R189). An answer that an invalidation or a registration
has overtaken fills nothing, and the L1 asks again when it needs the line (R251, log 24). -/
def execData (core line : Nat) (content : LinePart) (s : State) : Host.Outcome State Fault Refusal :=
  let x := coreOf s core
  let stale := x.readsStale.contains line
  let prio := ((x.readsOut.find? (·.1 == line)).map (·.2)).getD 0
  let s := setCore s core { x with readsOut := x.readsOut.filter (·.1 != line), readsStale := x.readsStale.filter (· != line) }
  .next (
    if stale then s
    else
      let s := makeRoom s core line
      let l := L1Line.fill (l1Line (coreOf s core) line) content.content content.words
      setCore s core (Core.setLine (coreOf s core) line (L1Line.touch l prio s.clock)))

/-- FWD (R198, R200): the owner sends the dirty bytes of the words that it owns, and refuses the others. -/
def execFwd (owner line : Nat) (mask : W32) (req : Nat) (s : State) : Host.Outcome State Fault Refusal :=
  let l := l1Line (coreOf s owner) line
  let mine := l.owned &&& mask
  let other := mask &&& ~~~l.owned
  let s := if mine = 0 then s else push s (.fwddata owner line mine l.content (l.dirty &&& wordsToBytes mine) req)
  .next (if other = 0 then s else push s (.refuse owner line other req))

/-- The bytes that an earlier or present owner's message may still change: for each word, all bytes if it owns the word, and those not
written since if its write-back was expected (R201). A word that it neither owns nor owes keeps the tile's bytes. -/
def mergeable (h : HomeLine) (c : Nat) (mask : W32) : W128 :=
  (wordList mask).foldl (fun m w =>
    let wb := wordsToBytes ((1 : W32) <<< w)
    match h.revoking.find? fun r => r.core == c && bit r.words w with
    | some r => m ||| (wb &&& ~~~r.late)
    | none => if Tab.find? h.owners w = some c then m ||| wb else m) 0

/-- Bytes written by an owner's message: the write-backs that are still to come from owners before it do not change them (R201). -/
def coverBefore (c : Nat) (mask : W32) (bytes : W128) : List Revoking → List Revoking
  | [] => []
  | r :: rs =>
    let own := r.core == c && r.words &&& mask != 0
    if own then r :: rs
    else { r with late := r.late ||| (bytes &&& wordsToBytes (r.words &&& mask)) } :: coverBefore c mask bytes rs

/-- FWDDATA (R200): merges the owner's dirty bytes over the tile's. -/
def execFwddata (owner line : Nat) (mask : W32) (content : LineData) (bytes : W128) (req : Nat) (s : State) :
    Host.Outcome State Fault Refusal :=
  let h := homeLine s line
  let m := bytes &&& mergeable h owner mask
  let s := mergeHome s line content m
  let s := if h.revoking.isEmpty then s else setHomeLine s line { h with revoking := coverBefore owner mask m h.revoking }
  .next (answered (lineTouched s line) owner line mask req)

/-- REFUSE (R200): the owner's write-back has reached the home before it (R198). -/
def execRefuse (owner line : Nat) (mask : W32) (req : Nat) (s : State) : Host.Outcome State Fault Refusal :=
  .next (answered s owner line mask req)

/-- REVOKE (R198): the owner writes back the words that it still owns, and keeps clean copies of the whole ones. -/
def execRevoke (owner line : Nat) (mask : W32) (s : State) : Host.Outcome State Fault Refusal :=
  let mine := (l1Line (coreOf s owner) line).owned &&& mask
  .next (if mine = 0 then s else writeBackWords s owner line mine)

/-- The words of a mask struck from the first write-back expected of a core. -/
def settleRevoking (c w : Nat) : List Revoking → List Revoking
  | [] => []
  | r :: rs =>
    if r.core == c && bit r.words w then
      let m := r.words &&& ~~~((1 : W32) <<< w)
      if m = 0 then rs else { r with words := m } :: rs
    else r :: settleRevoking c w rs

/-- One word of a write-back: an expected one is settled, and otherwise the core gives up its ownership (R199). -/
def HomeLine.settle (c : Nat) (h : HomeLine) (w : Nat) : HomeLine :=
  if h.revoking.any fun r => r.core == c && bit r.words w then { h with revoking := settleRevoking c w h.revoking }
  else if Tab.find? h.owners w = some c then { h with owners := Tab.del h.owners w }
  else h

/-- WB (R199): merges the dirty bytes, clears the core from the words that it still owns, and sends WBACK. A write-back that cannot reach
its host is lost (R420). -/
def execWb (core line : Nat) (content : LineData) (bytes : W128) (mask : W32) (s : State) : Host.Outcome State Fault Refusal :=
  let h := homeLine s line
  let m := bytes &&& mergeable h core mask
  let s := if lineLost s line then wordsLost s line mask ((((coreOf s core).wbOut.find? fun o => o.1 == line && o.2.1 == mask).map (·.2.2)).getD [])
           else mergeHome s line content m
  let h := { h with revoking := coverBefore core mask m h.revoking }
  let s := setHomeLine s line (HomeLine.cleared ((wordList mask).foldl (HomeLine.settle core) h))
  .next (serveLine (lineTouched (push s (.wback core line mask)) line) line)

/-- WBACK (R198): the write-back buffer is freed. -/
def execWback (core line : Nat) (mask : W32) (s : State) : Host.Outcome State Fault Refusal :=
  let x := coreOf s core
  let i := x.wbOut.findIdx fun o => o.1 == line && o.2.1 == mask
  .next (setCore s core { x with wbOut := x.wbOut.eraseIdx i })

/-! ### The host's halves (R209 to R214) -/

/-- A half of a line set. -/
def HomeLine.setHalf (h : HomeLine) (half : Nat) (x : Half) (waiting : Bool) : HomeLine :=
  if half % 2 = 0 then { h with half0 := x, waiting0 := waiting } else { h with half1 := x, waiting1 := waiting }

/-- HOST_ANSWER (R210, R212): the half is granted, Exclusive if a writer waits for it and otherwise at least Shared; or the host gives
up the words that it owns. What waits for it goes on. -/
def execHostAnswer (half : Nat) (s : State) : Host.Outcome State Fault Refusal :=
  let line := half / 2
  let h := homeLine s line
  let owners := h.owners.filter fun (w, o) => !(o == 16 && bit (halfWords half) w)
  let wr := if half % 2 = 0 then h.waiting0 else h.waiting1
  let old := if half % 2 = 0 then h.half0 else h.half1
  let far := physKind (128 * line) == .far
  let h := HomeLine.cleared { h with owners := owners }
  let h := if far && !lineLost s line then HomeLine.setHalf h half (if wr || old == .exclusive then .exclusive else .shared) false
           else HomeLine.setHalf h half old false
  .next (serveLine (setHomeLine s line h) line)

/-- The device's owners of some words revoked, and their write-backs awaited (R211, R212): the host's step goes on once none is left. -/
def wordsFree (s : State) (line : Nat) (mask : W32) : Bool :=
  let h := homeLine s line
  h.owners.all (fun (w, o) => !(decide (o < 16) && bit mask w)) && h.revoking.all fun r => (r.words &&& mask) == 0

/-- The host begins to take words of a line: no later read or registration of them comes before it (R214). -/
def beginTake (s : State) (line : Nat) (mask : W32) : State :=
  setHomeLine s line { homeLine s line with dropping := (homeLine s line).dropping ||| mask }

/-- A half served for the host and dropped (R211): a read that waits for it at the home is served first (R214); then the device's owners of its
words are revoked; and once their write-backs have been merged the host has its answer and the half is dropped. -/
def dropHalf (s : State) (half : Nat) (again : Instr) : State :=
  let line := half / 2
  let mask := halfWords half
  if (homeLine s line).dropping &&& mask = 0 && s.reads.any (fun r => r.line == line && (r.need &&& mask) != 0) then push s again
  else if wordsFree s line mask then
    let h := homeLine s line
    let h := HomeLine.setHalf { h with dropping := h.dropping &&& ~~~mask } half .invalid (if half % 2 = 0 then h.waiting0 else h.waiting1)
    serveLine (lineTouched (setHomeLine s line h) line) line
  else push (sendRevokes (beginTake s line mask) line mask) again

/-- HOST_SNOOP (R211). -/
def execHostSnoop (half : Nat) (s : State) : Host.Outcome State Fault Refusal := .next (dropHalf s half (.hostSnoop half))

/-- BACK_INVALIDATE (R211). -/
def execBackInvalidate (half : Nat) (s : State) : Host.Outcome State Fault Refusal := .next (dropHalf s half (.backInvalidate half))

/-- HOST_HALF_TAKE (R191, R199, R212): the device's owners of the half are revoked, and once their write-backs have been merged and there is room
the host owns all of its 16 words. -/
def execHostHalfTake (half : Nat) (s : State) : Host.Outcome State Fault Refusal :=
  let line := half / 2
  let mask := halfWords half
  let again := Instr.hostHalfTake half
  .next (
    if !wordsFree s line mask then push (sendRevokes (beginTake s line mask) line mask) again
    else
      match mustClear s 16 line with
      | some l => push (clearLine (beginTake s line mask) l) again
      | none =>
        let h := homeLine s line
        let h := { h with owners := (wordList mask).foldl (fun t w => Tab.put t w 16) h.owners, dropping := h.dropping &&& ~~~mask }
        serveLine (lineTouched (setHomeLine s line h) line) line)

/-- HOST_WRITE (R212): performed at the home once the device's owners of the words written have been revoked and their write-backs merged; it
records no owner, and leaves the host's own words to the host. -/
def execHostWrite (pa : Nat) (content : List Byte) (s : State) : Host.Outcome State Fault Refusal :=
  let ls := linesOf pa content.length
  .next (
    if ls.all fun l => wordsFree s l (wordsIn l pa content.length) then homeStore s pa content
    else push (ls.foldl (fun s l => sendRevokes s l (wordsIn l pa content.length)) s) (.hostWrite pa content))

end Sys2Proof.Machine
end

