-- ==== Sys2Proof/Machine/Complete.lean ====
section
/-! DEFINITION. The completion of long-latency producers: loads, held atomics, write-backs, barrier waits, transaction-barrier waits,
child waits and engine answers (R47, R121, R220 to R223, R240, R243, R256, R273, R353). -/

namespace Sys2Proof.Machine

/-! ### Filling a destination (R32, R121) -/

/-- The thread with a producer completed: its register takes the value and is full (R121). -/
def Thread.complete (t : Thread) (id : Nat) (f : Fill) : Thread :=
  { t with regs := Regs.fill t.regs f, producers := t.producers.filter (·.id != id) }

/-- The executing agent's producer completes: an acquire is performed then (R243), the destination fills, and the task wakes if it waits on
it (R32). -/
def completeWith (s : State) (p : Producer) (f : Fill) : State :=
  match s.cur with
  | .task k =>
    let s := match p.acq with | some scope => acquireBy s k scope | none => s
    let t := taskOf s k
    setTask s k (Task.wake (fun w => w == .register (Fill.dst f)) { t with thread := Thread.complete t.thread p.id f })
  | _ => withThread s (Thread.complete (thread s) p.id f)

/-! ### Loads (R200, R220, R222, R273, R276) -/

/-- Whether a piece of a load waits behind an earlier load's bytes of the same thread (R220). -/
def behindLoad (ps : List Producer) (id : Nat) (q : LoadPiece) : Bool := loadOverlaps (ps.takeWhile (·.id != id)) q.va q.bytes

/-- What came of one piece of a load: its bytes, or why not yet. -/
inductive PieceResult where
  | got (s : State) (bs : List Byte)
  | later (s : State)
  | fault (protect : Bool)

/-- One piece of a load tried at the task's L1, or at its home where it is performed there (R189, R190, R198, R213, R268, R276). A window
that has become unreachable since the instruction issued gives a free value, and its launch an error (R420, log 30). -/
def tryPiece (s : State) (k : TaskKey) (id : Nat) (scope : Scope) (evict : Nat) (q : LoadPiece) : PieceResult :=
  match translate s q.va q.bytes true false with
  | .error (.stall t) => .later t
  | .error _ => .later s
  | .ok (.page protect) => .fault protect
  | .ok (.localStore off) => .got s (localRead s off q.bytes)
  | .ok (.mem pa) =>
    let free : PieceResult :=
      let r := refOr s k
      .got (recordError s r.launch 12 0 r.x r.y r.slot) (remoteBytes s pa q.bytes)
    if logOverlaps s k q.va q.bytes || behindLoad (threadOf s (.task k)).producers id q then .later s
    else if performedAtIssue s pa scope then
      match readAtPlace s pa q.bytes (Scope.far scope) with
      | .ok bs => .got (noteRemote s (k.core / 4) pa []) bs
      | .error (.stall t) => .later t
      | .error _ => free
    else if l1Has s k.core pa q.bytes then
      let x := coreOf s k.core
      .got (setCore s k.core (Core.setLine x (pa / 128) (L1Line.touch (l1Line x (pa / 128)) evict s.clock))) (l1Bytes s k.core pa q.bytes)
    else if Target.unreachable s (.mem pa) then free
    else .later (requestLine s (curLaunch s) k.core (spaceOfTask s k) q.va pa q.bytes evict)

/-- The pieces of a load, each tried once; a page fault is reported and holds the load (R273). -/
def tryPieces (k : TaskKey) (id : Nat) (scope : Scope) (evict : Nat) : State → List LoadPiece → State × List LoadPiece × Bool
  | s, [] => (s, [], false)
  | s, q :: r =>
    if q.got.isSome then
      let (s, r, h) := tryPieces k id scope evict s r
      (s, q :: r, h)
    else
      match tryPiece s k id scope evict q with
      | .got t bs =>
        let (s, r, h) := tryPieces k id scope evict t r
        (s, { q with got := some bs } :: r, h)
      | .later t =>
        let (s, r, h) := tryPieces k id scope evict t r
        (s, q :: r, h)
      | .fault protect => (reportFault s (taskFault s k q.va protect .load 0xFFFFFFFF), q :: r, true)

/-- A producer of the executing agent changed. -/
def setProducer (s : State) (p : Producer) : State :=
  let t := thread s
  withThread s { t with producers := t.producers.map fun q => if q.id = p.id then p else q }

/-- A load tried again. -/
def pollLoad (s : State) (k : TaskKey) (p : Producer) (into : LoadInto) (qs : List LoadPiece) (scope : Scope) (evict : Nat) (again : Instr) :
    State :=
  let (s, qs, held) := tryPieces k p.id scope evict s qs
  if qs.all (·.got.isSome) then completeWith s p (loadFill into qs)
  else push (setProducer s { p with state := .load into qs scope evict, held := held }) again

/-! ### Held atomics (R221, R226, R273, R274) -/

/-- An atomic or bank operation whose page had faulted, tried again. Where it no longer reaches a place that the instruction allows, its
destination receives a free value (log 30). -/
def pollAtomic (s : State) (k : TaskKey) (p : Producer) (maj fn : Nat) (i : Fin 64) (va : W64) (b c : W64) (scope : Scope)
    (evict : Nat) (again : Instr) : State :=
  let n := rmwBytes maj fn
  let free : State :=
    let r := refOr s k
    completeWith (recordError s r.launch 12 0 r.x r.y r.slot) p (.scalar i (.data (Config.freeWord s.clock 9)))
  match translate s va n true true with
  | .error (.stall t) => push t again
  | .error _ => push s again
  | .ok (.page protect) =>
    push (setProducer (reportFault s (taskFault s k va protect .atomic 0xFFFFFFFF)) { p with held := true }) again
  | .ok t =>
    if logOverlaps s k va n || loadOverlaps ((threadOf s (.task k)).producers.takeWhile (·.id != p.id)) va n then push s again
    else
      match rmwAt s maj va t n scope evict fun m => rmwNew maj fn m b c with
      | .ok (t, old) => completeWith t p (.scalar i (.data old))
      | .error (.stall t) => push t again
      | .error _ => free

/-! ### The waits -/

/-- XBWAIT examines its barrier (R353): the barrier's low half, once it has passed the phase or faulted. -/
def pollBarrier (s : State) (va : W64) (phase : BitVec 4) : Except Stop (Option W64) := do
  let place ← barrierPlace s va false
  let w ← readBarrier s va place
  .ok (if barrierPassed w phase then some (bits w 0 64) else none)

/-- Whether every child of a list has completed, and how many completed with error, saturating (R47, R417). -/
def childrenDone (cs : List Child) (ids : List Nat) : Option Nat :=
  let mine := cs.filter fun c => ids.contains c.id
  if mine.all (·.complete) then some (min (mine.filter (·.error)).length (2 ^ 32 - 1)) else none

/-- A producer of a task examined. -/
def pollTask (s : State) (k : TaskKey) (p : Producer) (again : Instr) : State :=
  match p.state with
  | .ready f => completeWith s p f
  | .performed f => completeWith s p f
  | .load into qs scope evict => if p.held then push s again else pollLoad s k p into qs scope evict again
  | .heldAtomic maj fn i va b c scope evict => if p.held then push s again else pollAtomic s k p maj fn i va b c scope evict again
  | .writeBack ls => if (coreOf s k.core).wbOut.any fun (l, _, _) => ls.contains l then push s again else completeWith s p .nothing
  | .barrier idx gang gen i =>
    match Group.status (groupOf s (refOr s k).launch { gang := gang, idx := idx }) gen with
    | some w => completeWith s p (.scalar i (.data w))
    | none => push s again
  | .transaction va phase i =>
    match pollBarrier s va phase with
    | .ok (some w) => completeWith s p (.scalar i (.data w))
    | .ok none => push s again
    | .error (.stall t) => push t again
    | .error _ => push s again
  | .children ids i =>
    match childrenDone (taskOf s k).children ids with
    | some n => completeWith s p (.scalar i (.data (BitVec.ofNat 64 n)))
    | none => push s again
  | .engine _ => push s again
  | .delta node f =>
    match nodeAt s (refOr s k) node with
    | some n =>
      if !(matchOf s n.home).settled || !nodeAcked s (matchAccessor s n.home) then push s again
      else completeWith (reportAcquire s (refOr s k) (some n.home)) p f
    | none => completeWith s p f

/-- PRODUCER_COMPLETE (R121): a producer whose value is there fills its destination, and its register is full; one that still waits is
examined again. -/
def execProducerComplete (agent : Agent) (id : Nat) (s : State) : Host.Outcome State Fault Refusal :=
  let s := { s with cur := agent }
  let again := Instr.producerComplete agent id
  .next (match (thread s).producers.find? (·.id == id) with
    | none => s
    | some p =>
      match agent, p.state with
      | .task k, _ => pollTask s k p again
      | _, .ready f => completeWith s p f
      | _, .performed f => completeWith s p f
      | _, _ => push s again)

end Sys2Proof.Machine
end

