-- ==== Sys2Proof/Machine/Debug.lean ====
section
/-! DEFINITION. Halts, state access, critical-path markers and the issue trace (R431 to R440). -/

namespace Sys2Proof.Machine

/-! ### Halts (R435, R437) -/

/-- A launch, with every region of a gang, halted or running on (R435). A launch that is over, or killed, has nothing to halt. -/
def haltLaunch (s : State) (l : Nat) (halt : Bool) : State :=
  match Tab.find? s.launches l with
  | some a => if a.killed || a.state == .complete then s else setLaunch s l { a with halted := halt }
  | none => s

/-- HALTCTL_HALT (R435). -/
def execHaltctlHalt (launch : Nat) (s : State) : Host.Outcome State Fault Refusal := .next (haltLaunch s launch true)

/-- HALTCTL_RESUME (R435). -/
def execHaltctlResume (launch : Nat) (s : State) : Host.Outcome State Fault Refusal := .next (haltLaunch s launch false)

/-! ### State access (R436, R456) -/

/-- The task that DBGSEL names: at the first site of a halted launch with its CNODE (log 45). -/
def selectedTask (s : State) : Option TaskKey :=
  let slot := field s.dbg.dbgSel 20 4
  s.sites.findSome? fun (n, x) =>
    match x.owner with
    | some o =>
      if (launchOf s o.launch).halted && siteCnode x == BitVec.ofNat 32 (field s.dbg.dbgSel 0 20) && (Tab.find? x.tasks slot).isSome then
        some { core := n / 64, site := n % 64, slot := slot }
      else none
    | none => none

/-- The item and lane that DBGSEL selects. -/
def selItem (s : State) : Nat := field s.dbg.dbgSel 24 8
/-- The lane that DBGSEL selects. -/
def selLane (s : State) : Fin 64 := ⟨field s.dbg.dbgSel 32 6, by unfold field; omega⟩

/-- What DBGDATA reads of a task (R436, R456): a register, a lane of a vector, or of item 112 the full bit of the scalar register that the lane
field names, in bit 63, with the other bits free (log 45). -/
def readSelected (s : State) (k : TaskKey) : W64 :=
  let r := (taskOf s k).thread.regs
  let i := selItem s
  if h : i < 64 then Scalar.pattern (r.s.get ⟨i, h⟩).val
  else if h : i - 64 < 32 then (Lane.pattern ((r.v.get ⟨i - 64, h⟩).lanes.get (selLane s))).setWidth 64
  else if h : i - 96 < 8 then Regs.readP r ⟨i - 96, h⟩
  else if h : i - 104 < 8 then Regs.readQ r ⟨i - 104, h⟩
  else if i = 112 then (Config.freeWord s.clock 30 &&& 0x7FFFFFFFFFFFFFFF) ||| (if (r.s.get (selLane s)).full then 0x8000000000000000 else 0)
  else 0

/-- The registers after a write of DBGDATA, and the register that became full. -/
def writeSelected (s : State) (r : Regs) (w : W64) : Regs × Dst :=
  let i := selItem s
  if h : i < 64 then (Regs.writeS r ⟨i, h⟩ (.data w), .s ⟨i, h⟩)
  else if h : i - 64 < 32 then
    let f : Fin 32 := ⟨i - 64, h⟩
    (Regs.writeV r f ((r.v.get f).lanes.set (selLane s) (.data (w.setWidth 32))), .v f)
  else if h : i - 96 < 8 then (Regs.writeP r ⟨i - 96, h⟩ w, .none)
  else if h : i - 104 < 8 then (Regs.writeQ r ⟨i - 104, h⟩ w, .none)
  else if i = 112 then
    let l := selLane s
    ({ r with s := r.s.set l { (r.s.get l) with full := bit w 63 } }, if bit w 63 then .s l else .none)
  else (r, .none)

/-- DBGDATA written (R436): a register of a halted task changes as an instruction would change it; a task that waits for it becomes ready. With
no such task nothing happens. -/
def writeDbgData (s : State) (w : W64) : State :=
  match selectedTask s with
  | none => s
  | some k =>
    let t := taskOf s k
    let (r, d) := writeSelected s t.thread.regs w
    setTask s k (Task.wake (fun x => d != .none && x == .register d) { t with thread := { t.thread with regs := r } })

/-- DBGDATA (R436). -/
def execDbgdata (w : W64) (s : State) : Host.Outcome State Fault Refusal := .next (writeDbgData s w)

/-- What a read of DBGDATA gives; with no task selected, a free value (log 45). -/
def dbgRead (s : State) : W64 :=
  match selectedTask s with
  | some k => readSelected s k
  | none => Config.freeWord s.clock 31

/-! ### Critical-path markers (R431 to R433) -/

/-- An element's most recent firing: the input that arrived last, its arrival, the firing, and a site's task and word. -/
structure FiringInfo where
  input : Nat
  arrive : W64
  fire : W64
  task : Nat
  word : Nat

/-- The output channel of a site that fired last; of several, the lowest. -/
def lastOut (x : Site) : Option OutChan :=
  x.outs.toList.foldl (fun best c =>
    if !c.fired then best else match best with
      | some b => if decide (b.lastFire < c.lastFire) then some c else best
      | none => some c) none

/-- A node's firing; one that has not fired has its firing time 0. -/
def nodeFired (input : Nat) (arrive fire : W64) : Option FiringInfo :=
  if fire = 0 then none else some { input := input, arrive := arrive, fire := fire, task := 0xFF, word := 0xFFFF }

/-- The last firing of an output channel (R431). -/
def OutChan.firing (c : OutChan) : Option FiringInfo :=
  if c.fired then some { input := c.lastInput, arrive := c.lastArrive, fire := c.lastFire, task := c.lastTask, word := c.lastWord } else none

/-- The most recent firing of an element (R431). -/
def lastFiring (s : State) : Element → Option FiringInfo
  | .site k => (lastOut (siteOf s k)).bind OutChan.firing
  | .node n =>
    match n.kind with
    | .slab => let x := slabOf s n.home n.idx; nodeFired x.lastInput x.lastArrive x.lastFire
    | .acc => let x := accOf s n.home n.idx; nodeFired x.lastInput x.lastArrive x.lastFire
    | .topk => let x := topkOf s n.home n.idx; nodeFired x.lastInput x.lastArrive x.lastFire
    | .copych => let x := copyOf s n.home n.idx; nodeFired 0 x.lastArrive x.lastFire
    | .stream => let x := streamOf s n.home n.idx; nodeFired 0 x.lastArrive x.lastFire
    | .match_ => let x := matchOf s n.home; nodeFired 0 x.lastArrive x.lastFire

/-- The firing that a MARK finds at an element: of a site that it has come to by an output channel, that channel's, and otherwise the most recent
(R431, R432; DEDUCED, log 47). -/
def walkFiring (s : State) : Element → Option Nat → Option FiringInfo
  | .site k, some o => ((siteOf s k).outs.toList[o]?).bind OutChan.firing
  | e, _ => lastFiring s e

/-- The CNODE of an element (R430). -/
def elementCnode (s : State) : Element → W32
  | .site k => siteCnode (siteOf s k)
  | .node n => ownerCnode s (nodeOwner s n)

/-- The region of an element. -/
def elementOwner (s : State) : Element → Option Owner
  | .site k => (siteOf s k).owner
  | .node n => (nodeOwner s n).map (·.1)

/-- The elements of a region. -/
def regionElements (g : Region) : List Element := (regionSites g).map Element.site ++ g.nodes.map fun (_, n) => Element.node n

/-- The place that routes into an element name (R135). -/
def elementTarget (s : State) (e : Element) (input : Nat) : Option RouteTo :=
  match e with
  | .site k => (siteOf s k).owner.map fun o => .site o.x o.y input
  | .node n => (nodeOwner s n).map fun (_, id) => .node id input

/-- The kind of a node id of the region that a node belongs to. -/
def kindAt (s : State) (n : NodeRef) (id : Nat) : Option NodeKind :=
  (nodeOwner s n).bind fun (o, _) => (regionOf s o.launch o.region).bind fun g => Tab.find? g.kinds id

/-- The firings of an element towards a place: by each output channel of a site with a route there, and of a node that has one, or of a slab,
whose ENDs go to the accumulator node (R291). -/
def firingsTo (s : State) (target : RouteTo) (e : Element) : List (Option Nat × FiringInfo) :=
  let leads (w : W32) : Bool := routeTo w == some target
  let node (b : Bool) : List (Option Nat × FiringInfo) := if b then ((lastFiring s e).map fun f => (none, f)).toList else []
  match e with
  | .site k => (siteOf s k).outs.toList.zipIdx.filterMap fun (c, o) =>
      if c.route.any leads then (OutChan.firing c).map fun f => (some o, f) else none
  | .node n =>
    match n.kind with
    | .acc => node (leads (accOf s n.home n.idx).route)
    | .topk => node (leads (topkOf s n.home n.idx).route)
    | .stream => node (leads (streamOf s n.home n.idx).route)
    | .slab => node (match target with
        | .node id 0 => kindAt s n id == some .acc
        | _ => false)
    | _ => []

/-- Whether an element of a launch has been placed again since a firing (R432). -/
def replacedSince (s : State) (l : Nat) (fire : W64) : Bool :=
  match (launchOf s l).resumed with
  | some t => decide (fire < t)
  | none => false

/-- The producer of an input, with the output channel of a site: of the elements of the region that feed it and fired by the arrival, the one that
fired last (R432, log 47); none where it has been placed again since. -/
def producerOf (s : State) (e : Element) (input : Nat) (arrive : W64) : Option (Element × Option Nat) :=
  match elementTarget s e input, elementOwner s e with
  | some t, some o =>
    match regionOf s o.launch o.region with
    | some g =>
      let all := (regionElements g).flatMap fun x => (firingsTo s t x).map fun (c, f) => (x, c, f.fire)
      (all.filter fun y => y.2.2 ≤ arrive).foldl
        (fun best y => match best with
          | some b => if decide (b.2.2 < y.2.2) then some y else best
          | none => some y) none |>.bind fun b => if replacedSince s o.launch b.2.2 then none else some (b.1, b.2.1)
    | none => none
  | _, _ => none

/-- Whether the last arrival at an element is a memory access (R432): a slab's operand fetch, the inputs of a copy channel, a match engine and a
stream program that no token starts, and a site's firing before any token (log 47). -/
def fromMemory (s : State) (e : Element) (f : FiringInfo) : Bool :=
  match e with
  | .site _ => decide (f.input ≥ 32)
  | .node n =>
    match n.kind with
    | .slab => true
    | .copych => true
    | .match_ => true
    | .stream => !(streamOf s n.home n.idx).needToken
    | _ => false

/-- A path record in the debug ring (R433, R434); none where the ring is full. -/
def pathRecord (s : State) (w : MarkWalk) (origin : Nat) (f : Option FiringInfo) : Option State :=
  let d := s.dbg
  let head := field d.ringHead 0 12
  let tail := field d.ringTail 0 12
  if (tail + 4096 - head) % 4096 = 2048 then none
  else
    let f := f.getD { input := 0, arrive := 0, fire := 0, task := 0xFF, word := 0xFFFF }
    let bs := leBytes 2 w.sample ++ [BitVec.ofNat 8 w.hop, BitVec.ofNat 8 origin] ++ leBytes 4 (elementCnode s w.place).toNat ++
      [BitVec.ofNat 8 (f.input % 32), BitVec.ofNat 8 f.task] ++ leBytes 2 f.word ++ leBytes 4 0 ++ leBytes 8 f.arrive.toNat ++ leBytes 8 f.fire.toNat
    let s := { s with dbg := { d with ringTail := BitVec.ofNat 64 ((tail + 1) % 4096) } }
    some (homeWrite s (field d.ringBase 16 36 * 65536 + 32 * (tail % 2048)) bs)

/-- MARK_HOP (R432 to R434): the element's path record is written, and the MARK moves to the producer of its last arrival, or the walk ends. -/
def markHop (s : State) (w : MarkWalk) : State :=
  if (elementOwner s w.place).map (·.launch) ≠ some w.launch then s
  else
    match walkFiring s w.place w.out with
    | none => (pathRecord s w 2 none).getD s
    | some f =>
      if fromMemory s w.place f then (pathRecord s w 1 (some f)).getD s
      else
        match producerOf s w.place f.input f.arrive with
        | none => (pathRecord s w 3 (some f)).getD s
        | some p =>
          if w.hop ≥ 255 then (pathRecord s w 4 (some f)).getD s
          else
            match pathRecord s w 0 (some f) with
            | some t => push t (.markHop { w with hop := w.hop + 1, place := p.1, out := p.2 })
            | none => s

/-- MARK_HOP (R432). -/
def execMarkHop (walk : MarkWalk) (s : State) : Host.Outcome State Fault Refusal := .next (markHop s walk)

/-- The element of a launch with a CNODE. -/
def elementWith (s : State) (l : Nat) (cnode : W32) : Option Element :=
  ((launchOf s l).regions.filter (·.placed)).findSome? fun g => (regionElements g).find? fun e => elementCnode s e == cnode

/-- MARKINJ (R432): a MARK at the element of a launch with a CNODE; where there is none, nothing happens. -/
def injectMark (s : State) (w : W64) : State :=
  match elementWith s (field w 0 32) (BitVec.ofNat 32 (field w 32 20)) with
  | some e => push s (.markHop { launch := field w 0 32, sample := field w 52 12, hop := 0, place := e, out := none })
  | none => s

/-- MARKINJ (R432). -/
def execMarkinj (w : W64) (s : State) : Host.Outcome State Fault Refusal := .next (injectMark s w)

/-! ### The issue trace (R438 to R440) -/

/-- TRCSEL (R438): the core is selected, and recording runs while the trace is armed. -/
def selectTrace (s : State) (w : W64) : State :=
  let d := { s.dbg with trcSel := BitVec.ofNat 64 (field w 0 5) }
  if bit w 4 then { s with dbg := { d with trcStat := 1, trcRows := [], trcLeft := 0, trcTrigger := 0 } }
  else { s with dbg := { d with trcStat := d.trcStat &&& ~~~1 } }

/-- TRCSEL (R438). -/
def execTrcsel (w : W64) (s : State) : Host.Outcome State Fault Refusal := .next (selectTrace s w)

/-- TRCSTAT (R5, R438, R456): recording and stopped are set, triggered is cleared by a 0, and a 1 in it triggers a trace that records (DEDUCED,
log 138). -/
def writeTrcStat (s : State) (w : W64) : State :=
  let t := { s with dbg := { s.dbg with trcStat := (w &&& 5) ||| (s.dbg.trcStat &&& w &&& 2) } }
  if bit w 1 then traceTrigger t else t

/-- TRCSTAT_TRIGGER (R438). -/
def execTrcstatTrigger (s : State) : Host.Outcome State Fault Refusal := .next (traceTrigger s)

/-- TRACE_STOP (R438): once TRCPOST cycles have passed since the trigger, recording stops. -/
def execTraceStop (s : State) : Host.Outcome State Fault Refusal :=
  .next (if !(bit s.dbg.trcStat 0 && bit s.dbg.trcStat 1) then s
    else if s.dbg.trcLeft = 0 then { s with dbg := { s.dbg with trcStat := (s.dbg.trcStat &&& ~~~1) ||| 4 } }
    else push s .traceStop)

/-- The 4 KiB header of a dump, whose layout the manual does not give: free bytes (R440, log 46). -/
def traceHeader (s : State) : List Byte := (List.range 4096).map fun i => Config.freeByte s.clock i

/-- TRCDUMP (R440): the header and then the rows, oldest first, 68 columns of 16 bits each. -/
def dumpTrace (s : State) (w : W64) : State :=
  homeWrite s (4096 * field w 12 40) (traceHeader s ++ s.dbg.trcRows.flatMap fun r => r.flatMap fun c => leBytes 2 c.toNat)

/-- TRCDUMP (R440). -/
def execTrcdump (w : W64) (s : State) : Host.Outcome State Fault Refusal := .next (dumpTrace s w)

end Sys2Proof.Machine
end

