-- ==== Sys2Proof/Machine/Reliability.lean ====
section
/-! DEFINITION. Faults of the device and their containment, ports, the fabric and thermal limits (R207, R208, R418 to R420, R422, R450 to R456). -/

namespace Sys2Proof.Machine

/-! ### Owner loss (R207, R208) -/

/-- The words of a line that an owner loses with dirty bytes. -/
def dirtyWords (l : L1Line) : W32 :=
  (List.range 32).foldl (fun m w => if bit l.owned w && field l.dirty (4 * w) 4 != 0 then m ||| ((1 : W32) <<< w) else m) 0

/-- The launches with a region on a core. -/
def launchesOn (s : State) (c : Nat) : List Nat :=
  (s.launches.filter fun (_, a) => a.regions.any fun g => g.placed && (Region.cores g).contains c).map (·.1)

/-- The words of a mask no longer registered to a core, and no answer or write-back of it awaited at the line's home (R207). -/
def unregister (s : State) (c line : Nat) (mask : W32) : State :=
  let h := homeLine s line
  let h := HomeLine.cleared ((wordList mask).foldl (HomeLine.settle c) h)
  let s := setHomeLine s line { h with held := if h.held.any (·.1 == c) then none else h.held }
  serveLine { s with reads := s.reads.map fun r => if r.line = line then HomeRead.answer r c mask else r } line

/-- Lines of which a core is an owner, or of which a home awaits something of it or holds its registration back. -/
def linesOfCore (s : State) (c : Nat) : List Nat :=
  ((s.homes.filter fun (_, h) => h.owners.any (·.2 == c) || h.revoking.any (·.core == c) || h.held.any (·.1 == c)).map (·.1) ++
    (s.reads.filter fun r => r.asked.any (·.1 == c)).map (·.line)).eraseDups

/-- A message that a core has still to send or to receive, other than a write-back on its way. -/
def coreMessage (c : Nat) : Instr → Bool
  | .reg d _ _ => d == c
  | .rdreq d _ => d == c
  | .regack d _ _ => d == c
  | .data d _ _ => d == c
  | .fwd d _ _ _ => d == c
  | .revoke d _ _ => d == c
  | .wback d _ _ => d == c
  | _ => false

/-- The words of a line whose write-back by a core is on its way. -/
def wbWords (s : State) (c line : Nat) : W32 :=
  s.agenda.foldl (fun m e => match e with | .wb d l _ _ k => if d = c ∧ l = line then m ||| k else m | _ => m) 0

/-- A core leaves service (R207, R208, R451, R452): its messages and its L1 are gone, its words are unregistered, its launches are killed, its
dirty words are lost, and a RAS record says so. -/
def loseCore (s : State) (c : Nat) : State :=
  let x := coreOf s c
  let lost := x.l1.flatMap fun (line, l) => (wordList (dirtyWords l)).map fun w => (128 * line + 4 * w, Tab.find? l.lids w)
  let s := { s with agenda := s.agenda.filter (!coreMessage c ·), reads := s.reads.filter (·.requester != c) }
  let s := (linesOfCore s c).foldl (fun s line => unregister s c line (~~~(wbWords s c line))) s
  let s := setCore s c { coreOf s c with
    inService := false, l1 := [], readsOut := [], readsStale := [], regsOut := [], wbOut := [],
    leaf := { (coreOf s c).leaf with running := false, idle := false } }
  let s := lost.foldl (fun s (pa, l) => wordLost s l 7 pa) s
  let s := (launchesOn s c).foldl (fun s l => killWith s l 14 0 0xFF 0xFF 0xFF) s
  rasRecord s 12 1 (c / 4) c 0xFFFFFFFF 0 0

/-- OWNER_LOSS (R207). -/
def execOwnerLoss (core : Nat) (s : State) : Host.Outcome State Fault Refusal := .next (loseCore s core)

/-! ### Uncorrectable errors (R451) -/

/-- The die and core of a launch's first placed region. -/
def launchPlace (s : State) (l : Nat) : Nat × Nat :=
  match (launchOf s l).regions.find? (·.placed) with
  | some g => (g.die, (siteAt g 0 0).core)
  | none => (0, 0)

/-- A launch killed for an error of the device, with its RAS record (R451, R452). -/
def killForError (s : State) (l kind : Nat) (addr : W64) : State :=
  let (die, core) := launchPlace s l
  rasRecord (killWith s l 14 0 0xFF 0xFF 0xFF) kind 1 die core 0xFFFFFFFF l addr

/-- An owned word of an L1 lost (R207, R208, R451). -/
def loseWord (s : State) (c line w : Nat) : State :=
  let l := l1Line (coreOf s c) line
  let m : W32 := (1 : W32) <<< w
  if bit l.owned w && field l.dirty (4 * w) 4 != 0 then
    let b := wordsToBytes m
    let owner := Tab.find? l.lids w
    let l := { l with owned := l.owned &&& ~~~m, dirty := l.dirty &&& ~~~b, valid := l.valid &&& ~~~b }
    let s := unregister (setCore s c (Core.setLine (coreOf s c) line l)) c line m
    rasRecord (wordLost s owner 7 (128 * line + 4 * w)) 2 1 (c / 4) c 0xFFFFFFFF 0 (BitVec.ofNat 64 (128 * line + 4 * w))
  else s

/-- An error that stands in a line of HBM4E or LPDDR memory until the line is rewritten (R451). -/
def markBad (s : State) (pa : Nat) : State :=
  if isDram pa then { s with badLines := Tab.put s.badLines (pa / 128) (BitVec.allOnes 128) } else s

/-- UNCORRECTABLE_ERROR (R451). -/
def execUncorrectableError (place : ErrorPlace) (s : State) : Host.Outcome State Fault Refusal :=
  .next (match place with
    | .launchState l => killForError s l 2 0
    | .l1Word c line w => loseWord s c line w
    | .dram pa l => killForError (markBad s pa) l 4 (BitVec.ofNat 64 pa)
    | .dramAgain pa l => killForError s l 4 (BitVec.ofNat 64 pa)
    | .leaf c => loseCore s c)

/-! ### Lockstep (R450, R451) -/

/-- LOCKSTEP_MISMATCH (R451): both scheduler cores halt, and each runs the self-check. -/
def execLockstepMismatch (s : State) : Host.Outcome State Fault Refusal :=
  let ctl := { s.glob.ctl with running := false, idle := false }
  .next (rasRecord { s with glob := { s.glob with ctl := ctl }, dbg := { s.dbg with checking := true } } 7 1 0 0 0xFFFFFFFF 0 0)

/-- SELF_CHECK_DONE (R451): a core that passed continues at the recovery entry, die 0's if both did; with neither the event is fatal. -/
def execSelfCheckDone (pass0 pass2 : Bool) (s : State) : Host.Outcome State Fault Refusal :=
  .next (if !s.dbg.checking then s
    else
      let s := { s with dbg := { s.dbg with checking := false } }
      let goOn (die : Nat) : State :=
        let ctl := { s.glob.ctl with thread := Thread.start (recoveryEntry s), running := true, idle := false }
        { s with glob := { s.glob with active := die, ctl := ctl } }
      if pass0 then goOn 0 else if pass2 then goOn 2 else rasRecord s 7 2 0 0 0xFFFFFFFF 0 0)

/-! ### Injected events (R456) -/

/-- RASINJ (R456): a RAS event of a kind, at a die and core; its severity is a free value (log 49). -/
def injectRas (s : State) (w : W64) : State :=
  rasRecord s (field w 0 8) (field (Config.freeWord s.clock 32) 0 8) (field w 12 4) (field w 8 4) 0xFFFFFFFF 0 0

/-- RASINJ (R456). -/
def execRasinj (w : W64) (s : State) : Host.Outcome State Fault Refusal := .next (injectRas s w)

/-! ### Clock and temperature (R453, R455) -/

/-- CLKSTEP (R453, R456): bits [1:0] select the clock. -/
def setClock (s : State) (w : W64) : State := { s with dbg := { s.dbg with clkStep := BitVec.ofNat 64 (field w 0 2) } }

/-- CLKSTEP (R453). -/
def execClkstep (w : W64) (s : State) : Host.Outcome State Fault Refusal := .next (setClock s w)

/-- Whether a die's sensor shows 95 °C or more (log 11). -/
def hot (s : State) : Bool := (List.range 4).any fun d => decide (95 ≤ (Config.temperature s.clock d).toNat)

/-- THERMAL_STEP (R455): the clock goes down one step, a RAS record is written, and the next step comes unless every sensor reads below 95 °C. -/
def execThermalStep (s : State) : Host.Outcome State Fault Refusal :=
  let s := rasRecord { s with dbg := { s.dbg with clkStep := BitVec.ofNat 64 (min 3 (field s.dbg.clkStep 0 2 + 1)) } } 10 1 0 0 0xFFFFFFFF 0 0
  .next (if hot s then push s .thermalStep else s)

/-- THERMAL_SHUTDOWN (R455): every clock stops, until a cold start. -/
def execThermalShutdown (s : State) : Host.Outcome State Fault Refusal := .next { s with dbg := { s.dbg with shutdown := true } }

/-! ### Ports and the fabric (R418 to R423) -/

/-- CXL_PORT_DOWN (R422): EVENTS bit 4; the windows of the port are reached no more. -/
def execCxlPortDown (die : Nat) (s : State) : Host.Outcome State Fault Refusal :=
  .next (setEvents { s with glob := { s.glob with cxlUp := s.glob.cxlUp &&& ~~~((1 : BitVec 4) <<< die) } } 16)

/-- A port cleared from the mask of one node's entry of the route table (R418). -/
def clearRoute (s : State) (port node : Nat) : State :=
  let pa := routeEntry s node
  let m := leNat (homeRead s pa 4)
  if m.testBit port then homeWrite s pa (leBytes 4 (m - 2 ^ port)) else s

/-- FLOHOLT_PORT_DOWN (R418): the port is cleared from every mask of the route table and of the remote translation caches, and EVENTS bit 3 is
set. -/
def execFloholtPortDown (port : Nat) (s : State) : Host.Outcome State Fault Refusal :=
  let cut (e : RemoteEntry) : RemoteEntry := { e with route := e.route &&& ~~~((1 : BitVec 18) <<< port) }
  let s := { s with dies := s.dies.map fun (i, d) => (i, { d with remoteCache := d.remoteCache.map cut }), glob := { s.glob with floholtUp := s.glob.floholtUp &&& ~~~((1 : BitVec 18) <<< port) } }
  .next (setEvents (if port < 18 then (List.range 4096).foldl (fun s n => clearRoute s port n) s else s) 8)

/-- FABRIC_REQUEST (R195, R418, R419): a request with another incarnation, or for an address that is not this package's, is refused, which
changes nothing here; otherwise it is performed at its home, once its words are at rest. -/
def execFabricRequest (req : RemoteRequest) (s : State) : Host.Outcome State Fault Refusal :=
  let n := match req.op with
    | .read n => n
    | .write bs => bs.length
    | .atomic fn _ _ => rmwBytes 0x42 fn
  .next (
    if req.incarnation ≠ s.glob.incarn || physKind req.pa == .far || !physReady s req.pa then s
    else if homeBusy s req.pa n then
      pushOnce (if (List.range n).any (fun i => ownerAt s (req.pa + i) == some 16) then askHost s req.pa true else s) (.fabricRequest req)
    else
      match req.op with
      | .read _ => s
      | .write bs => homeWrite s req.pa bs
      | .atomic fn b c =>
        let old := BitVec.ofNat 64 (leNat (homeRead s req.pa n))
        homeWrite s req.pa (leBytes n (rmwNew 0x42 fn old c b).toNat))

/-- REMOTE_REFUSAL (R420): the node's entries leave the remote translation caches, and every window that targets it is STALE. -/
def execRemoteRefusal (node : Nat) (s : State) : Host.Outcome State Fault Refusal :=
  let stale (w : Window) : Window := if !bit w.tgt 1 && field w.tgt 4 12 == node then { w with tgt := w.tgt ||| 0x100000000 } else w
  .next { s with dies := s.dies.map fun (i, d) => (i, { d with remoteCache := d.remoteCache.filter (·.node != node) }),
                 glob := { s.glob with windows := s.glob.windows.map stale } }

end Sys2Proof.Machine
end

