-- ==== Sys2Proof/Machine/Registers.lean ====
section
/-! DEFINITION. The system registers: their addresses, what a read of each gives and what a write does (R5, R6, R279, R311, R400 to R402, R441, R456). -/

namespace Sys2Proof.Machine

/-- The registers of the register maps; an index is a die, core, leaf, handle, window, breakpoint, unit or dword. -/
inductive SysReg where
  | sptBase (d : Nat) | walkCfg (d : Nat) | hotDeliv (d : Nat) | hotStarve (d : Nat) | hotQBase (d : Nat) | hotQHead (d : Nat) | hotQTail (d : Nat)
  | hotDrop (d : Nat) | hotClr (d : Nat) | spaceGone (d : Nat) | fltBase (c : Nat) | fltHead (c : Nat) | fltTail (c : Nat) | fltRes (c : Nat)
  | rampCfg (c : Nat) | rampStat (c : Nat) | rampEmpty (c : Nat) | rampDummy (c : Nat) | rampFuse (c : Nat)
  | leafClrx (c i : Nat) | leafCltx (c i : Nat) | levents (c : Nat) | retired (c : Nat) | ltrapVec (c : Nat)
  | rgnPos (c h : Nat) | rgnNode (c h : Nat) | rgnLid (c h : Nat) | rgnSave (c h : Nat)
  | qtBase | qtSize | pollInt | monSet | monCnt | events | monHit | timer | ctrapVec | nodeId | incarn | ceFlush | rtBase
  | cltx (l i : Nat) | clPermit | clrx (i : Nat) | winBase (w : Nat) | winSize (w : Nat) | winTgt (w : Nat) | winRbase (w : Nat)
  | rdy | lifecycle | dbgFuse | dbgEn | dbgToken | dbgTstat | dbgDeny | resetCtl | idPub (i : Nat) | meas (m i : Nat) | measExt | quote | qStat
  | rasBase | rasHead | rasTail | rasDrop | rasInj | clkStep | temp | brkCtl (b : Nat) | brkLid (b : Nat) | haltCtl | brkStat | dbgSel | dbgData
  | markInj | ringBase | ringHead | ringTail | trcSel | trcPost | trcStat | trcDump | trnCmd (u : Nat) | trnStat (u : Nat) | trnCfg (u : Nat)
  | rcvAddr | rcvGo | rcvStat
  deriving DecidableEq, Repr

/-! ### Addresses (R400) -/

/-- The translation block of die `d` (R279). -/
def transReg (d o : Nat) : Option SysReg :=
  if o < 0x50 then ([.sptBase d, .walkCfg d, .hotDeliv d, .hotStarve d, .hotQBase d, .hotQHead d, .hotQTail d, .hotDrop d, .hotClr d,
    .spaceGone d] : List SysReg)[o / 8]?
  else if 0x100 ≤ o ∧ o < 0x180 then
    let c := 4 * d + (o - 0x100) / 0x20
    ([.fltBase c, .fltHead c, .fltTail c, .fltRes c] : List SysReg)[(o - 0x100) % 0x20 / 8]?
  else none

/-- The matrix block of core `c` (R311). -/
def matrixReg (c o : Nat) : Option SysReg := ([.rampCfg c, .rampStat c, .rampEmpty c, .rampDummy c, .rampFuse c] : List SysReg)[o / 8]?

/-- The leaf block of core `c` (R402). -/
def leafReg (c o : Nat) : Option SysReg :=
  if o < 0x40 then some (.leafClrx c (o / 8))
  else if o < 0x80 then some (.leafCltx c ((o - 0x40) / 8))
  else if o < 0x98 then ([.levents c, .retired c, .ltrapVec c] : List SysReg)[(o - 0x80) / 8]?
  else if 0x100 ≤ o ∧ o < 0x900 then
    let h := (o - 0x100) / 0x20
    ([.rgnPos c h, .rgnNode c h, .rgnLid c h, .rgnSave c h] : List SysReg)[(o - 0x100) % 0x20 / 8]?
  else none

/-- The global block (R401). -/
def globalReg (o : Nat) : Option SysReg :=
  if o < 0x68 then ([.qtBase, .qtSize, .pollInt, .monSet, .monCnt, .events, .monHit, .timer, .ctrapVec, .nodeId, .incarn, .ceFlush,
    .rtBase] : List SysReg)[o / 8]?
  else if 0x100 ≤ o ∧ o < 0x500 then some (.cltx ((o - 0x100) / 0x40) ((o - 0x100) % 0x40 / 8))
  else if o = 0x500 then some .clPermit
  else if 0x600 ≤ o ∧ o < 0x640 then some (.clrx ((o - 0x600) / 8))
  else if 0x700 ≤ o ∧ o < 0x900 then
    let w := (o - 0x700) / 0x20
    ([.winBase w, .winSize w, .winTgt w, .winRbase w] : List SysReg)[(o - 0x700) % 0x20 / 8]?
  else none

/-- Block 6 (R456). -/
def debugReg (o : Nat) : Option SysReg :=
  if o < 0x40 then ([.rdy, .lifecycle, .dbgFuse, .dbgEn, .dbgToken, .dbgTstat, .dbgDeny, .resetCtl] : List SysReg)[o / 8]?
  else if o < 0x80 then some (.idPub ((o - 0x40) / 8))
  else if 0x100 ≤ o ∧ o < 0x300 then some (.meas ((o - 0x100) / 0x40) ((o - 0x100) % 0x40 / 8))
  else if 0x300 ≤ o ∧ o < 0x318 then ([.measExt, .quote, .qStat] : List SysReg)[(o - 0x300) / 8]?
  else if 0x400 ≤ o ∧ o < 0x428 then ([.rasBase, .rasHead, .rasTail, .rasDrop, .rasInj] : List SysReg)[(o - 0x400) / 8]?
  else if 0x500 ≤ o ∧ o < 0x510 then ([.clkStep, .temp] : List SysReg)[(o - 0x500) / 8]?
  else if 0x600 ≤ o ∧ o < 0x680 then
    let b := (o - 0x600) / 0x10
    if o % 0x10 = 0 then some (.brkCtl b) else some (.brkLid b)
  else if 0x680 ≤ o ∧ o < 0x6A0 then ([.haltCtl, .brkStat, .dbgSel, .dbgData] : List SysReg)[(o - 0x680) / 8]?
  else if 0x700 ≤ o ∧ o < 0x720 then ([.markInj, .ringBase, .ringHead, .ringTail] : List SysReg)[(o - 0x700) / 8]?
  else if 0x800 ≤ o ∧ o < 0x820 then ([.trcSel, .trcPost, .trcStat, .trcDump] : List SysReg)[(o - 0x800) / 8]?
  else if 0x1000 ≤ o ∧ o < 0x1980 then
    let u := (o - 0x1000) / 0x40
    ([.trnCmd u, .trnStat u, .trnCfg u] : List SysReg)[(o - 0x1000) % 0x40 / 8]?
  else if 0x2000 ≤ o ∧ o < 0x2018 then ([.rcvAddr, .rcvGo, .rcvStat] : List SysReg)[(o - 0x2000) / 8]?
  else none

/-- The register that a 32-bit system address names (R400): KIND in [31:26], INST in [25:20], OFFSET in [19:0]. -/
def regAt (a : W32) : Option SysReg :=
  let kind := field a 26 6
  let inst := field a 20 6
  let o := field a 0 20
  if o % 8 ≠ 0 then none
  else if kind = 0 then (if inst < 4 then transReg inst o else none)
  else if kind = 1 then (if inst < 16 then matrixReg inst o else none)
  else if kind = 2 then (if inst < 16 then leafReg inst o else none)
  else if kind = 3 then (if inst = 0 then globalReg o else none)
  else if kind = 6 then (if inst = 0 then debugReg o else none)
  else none

/-! ### Debug features (R441) -/

/-- The feature that an access to a register of block 6 needs (R441, R456). -/
def SysReg.feature (wr : Bool) : SysReg → Option Nat
  | .brkCtl _ => some 0
  | .brkLid _ => some 0
  | .haltCtl => some 0
  | .brkStat => some 0
  | .dbgData => some (if wr then 2 else 1)
  | .markInj => some 4
  | .trcSel => some 3
  | .trcPost => some 3
  | .trcStat => some 3
  | .trcDump => some 3
  | .rasInj => some 6
  | _ => none

/-- Whether an access to a register is denied: the feature that it needs is not in force (R441). -/
def denied (s : State) (r : SysReg) (wr : Bool) : Bool :=
  match r.feature wr with
  | some f => !bit s.dbg.dbgEn f
  | none => false

/-- A denied access counted (R441, R456). -/
def countDenied (s : State) : State :=
  { s with dbg := { s.dbg with deny := if s.dbg.deny = BitVec.allOnes 64 then s.dbg.deny else s.dbg.deny + 1 } }

/-! ### Reads (R5) -/

/-- A region handle's registers (R402). -/
def regionRegs (s : State) (c h : Nat) : RegionRegs := Tab.get { pos := 0, node := 0, lid := 0, save := 0 } (coreOf s c).block.regions h

/-- A window's registers (R401). -/
def windowOf (s : State) (w : Nat) : Window := (s.glob.windows.toList[w]?).getD { base := 0, size := 0, tgt := 0, rbase := 0 }

/-- CLPERMIT: four bits for each leaf (R401). -/
def permitWord (s : State) : W64 :=
  (s.glob.permits.toList.zipIdx).foldl (fun m (n, l) => m ||| (BitVec.ofNat 64 (n % 16) <<< (4 * l))) 0

/-- TEMP: eight bits for each die (R456). -/
def tempWord (s : State) : W64 :=
  (List.range 4).foldl (fun m d => m ||| ((Config.temperature s.clock d).setWidth 64 <<< (8 * d))) 0

/-- What a read of a register gives; a write-only register reads as zero (R5, R279, R311, R401, R402, R456). -/
def readReg (s : State) : SysReg → W64
  | .sptBase d => (dieOf s d).sptBase
  | .walkCfg d => (dieOf s d).walkCfg
  | .hotDeliv d => (dieOf s d).hotDeliv
  | .hotStarve d => (dieOf s d).hotStarve
  | .hotQBase d => (dieOf s d).hotQBase
  | .hotQHead d => (dieOf s d).hotQHead
  | .hotQTail d => (dieOf s d).hotQTail
  | .hotDrop d => (dieOf s d).hotDrop
  | .hotClr _ => 0
  | .spaceGone d => (dieOf s d).spaceGone
  | .fltBase c => (coreOf s c).fltBase
  | .fltHead c => (coreOf s c).fltHead
  | .fltTail c => (coreOf s c).fltTail
  | .fltRes _ => 0
  | .rampCfg c => (coreOf s c).rampCfg
  | .rampStat c => (coreOf s c).rampStat
  | .rampEmpty c => (coreOf s c).rampEmpty
  | .rampDummy c => (coreOf s c).rampDummy
  | .rampFuse c => (Config.rampFuse c).setWidth 64
  | .leafClrx c i => commandDword s c i
  | .leafCltx _ _ => 0
  | .levents c => (coreOf s c).block.levents
  | .retired c => retiredWord s c
  | .ltrapVec c => (coreOf s c).block.trapVec
  | .rgnPos c h => (regionRegs s c h).pos
  | .rgnNode c h => (regionRegs s c h).node
  | .rgnLid c h => (regionRegs s c h).lid
  | .rgnSave c h => (regionRegs s c h).save
  | .qtBase => s.glob.qtBase
  | .qtSize => s.glob.qtSize
  | .pollInt => if s.glob.pollInt = 0 then 1 else s.glob.pollInt
  | .monSet => 0
  | .monCnt => BitVec.ofNat 64 s.glob.monitored.length
  | .events => s.glob.events
  | .monHit => monhitWord s
  | .timer => s.glob.timer
  | .ctrapVec => s.glob.trapVec
  | .nodeId => s.glob.nodeId
  | .incarn => s.glob.incarn.setWidth 64
  | .ceFlush => 0
  | .rtBase => s.glob.rtBase
  | .cltx _ _ => 0
  | .clPermit => permitWord s
  | .clrx i => reportDword s i
  | .winBase w => (windowOf s w).base
  | .winSize w => (windowOf s w).size
  | .winTgt w => (windowOf s w).tgt
  | .winRbase w => (windowOf s w).rbase
  | .rdy => s.dbg.ready
  | .lifecycle => Config.lifecycle.setWidth 64
  | .dbgFuse => (Config.dbgFuse &&& 0x7F).setWidth 64
  | .dbgEn => s.dbg.dbgEn.setWidth 64
  | .dbgToken => 0
  | .dbgTstat => s.dbg.tokStat
  | .dbgDeny => s.dbg.deny
  | .resetCtl => 0
  | .idPub i => bits Config.idPub (64 * i) 64
  | .meas m i => bits ((s.dbg.meas.toList[m]?).getD 0) (64 * i) 64
  | .measExt => 0
  | .quote => 0
  | .qStat => s.dbg.qStat
  | .rasBase => s.dbg.rasBase
  | .rasHead => s.dbg.rasHead
  | .rasTail => s.dbg.rasTail
  | .rasDrop => s.dbg.rasDrop
  | .rasInj => 0
  | .clkStep => s.dbg.clkStep
  | .temp => tempWord s
  | .brkCtl b => (s.dbg.brkCtl.toList[b]?).getD 0
  | .brkLid b => (s.dbg.brkLid.toList[b]?).getD 0
  | .haltCtl => 0
  | .brkStat => s.dbg.brkStat
  | .dbgSel => s.dbg.dbgSel
  | .dbgData => dbgRead s
  | .markInj => 0
  | .ringBase => s.dbg.ringBase
  | .ringHead => s.dbg.ringHead
  | .ringTail => s.dbg.ringTail
  | .trcSel => s.dbg.trcSel
  | .trcPost => s.dbg.trcPost
  | .trcStat => s.dbg.trcStat
  | .trcDump => 0
  | .trnCmd _ => 0
  | .trnStat u => (trainAt s u).stat
  | .trnCfg u => (trainAt s u).cfg
  | .rcvAddr => Config.recoveryBase.setWidth 64
  | .rcvGo => 0
  | .rcvStat => s.dbg.rcvStat

/-- What a read does beside: it takes the message, handle or hit that it has read (R401 to R403). -/
def readEffect (s : State) : SysReg → State
  | .leafClrx c i => if i = 7 then takeCommand s c else s
  | .retired c => takeRetired s c
  | .monHit => takeHit s
  | .clrx i => if i = 7 then takeReport s else s
  | _ => s

/-- A read of a system register: a denied one gives zero (R414, R441). -/
def sysRead (s : State) (r : SysReg) : W64 × State :=
  if denied s r false then (0, countDenied s) else (readReg s r, readEffect s r)

/-! ### Writes to registers with no behaviour of their own (R5, R6) -/

/-- The bits of a word from `lo` to `hi`, the rest zero: a reserved field ignores what is written (R6). -/
def keepBits (w : W64) (lo hi : Nat) : W64 := BitVec.ofNat 64 (field w lo (hi + 1 - lo) * 2 ^ lo)

/-- A die's block changed. -/
def onDie (s : State) (d : Nat) (f : Die → Die) : State := setDie s d (f (dieOf s d))
/-- A core changed. -/
def onCore (s : State) (c : Nat) (f : Core → Core) : State := setCore s c (f (coreOf s c))
/-- The global block changed. -/
def onGlobal (s : State) (f : Global → Global) : State := { s with glob := f s.glob }
/-- Block 6 changed. -/
def onDebug (s : State) (f : Debug → Debug) : State := { s with dbg := f s.dbg }
/-- A window changed. -/
def onWindow (s : State) (w : Nat) (f : Window → Window) : State :=
  onGlobal s fun g => { g with windows := g.windows.setIfInBounds w (f (windowOf s w)) }
/-- A region handle's registers changed. -/
def onHandle (s : State) (c h : Nat) (f : RegionRegs → RegionRegs) : State :=
  onCore s c fun x => { x with block := { x.block with regions := Tab.put x.block.regions h (f (regionRegs s c h)) } }

/-- STEP clamped to the fused range (R311). -/
def clampStep (c : Nat) (w : W64) : W64 :=
  let lo := field (Config.rampFuse c) 0 8
  let hi := field (Config.rampFuse c) 8 8
  BitVec.ofNat 64 (max lo (min hi (field w 0 8)))

/-- WINTGT written: bit 32, STALE, is write-1-to-clear, and the rest is set (R401). -/
def winTarget (old w : W64) : W64 := keepBits w 0 31 ||| (old &&& 0x100000000 &&& ~~~w)

/-- A write to a register with no behaviour of its own, by its access code: RW sets the field, W1C clears bits (R5). None for the others. -/
def plainWrite (s : State) (w : W64) : SysReg → Option State
  | .sptBase d => some (onDie s d fun x => { x with sptBase := keepBits w 12 51 })
  | .walkCfg d => some (onDie s d fun x => { x with walkCfg := keepBits w 0 4 })
  | .hotDeliv d => some (onDie s d fun x => { x with hotDeliv := w })
  | .hotStarve d => some (onDie s d fun x => { x with hotStarve := w })
  | .hotQBase d => some (onDie s d fun x => { x with hotQBase := keepBits w 14 51 })
  | .hotQHead d => some (onDie s d fun x => { x with hotQHead := keepBits w 0 10 })
  | .hotDrop d => some (onDie s d fun x => { x with hotDrop := w })
  | .spaceGone d => some (onDie s d fun x => { x with spaceGone := w })
  | .fltBase c => some (onCore s c fun x => { x with fltBase := keepBits w 11 51 })
  | .fltHead c => some (releaseFaults (onCore s c fun x => { x with fltHead := keepBits w 0 6 }) c)
  | .rampCfg c => some (onCore s c fun x => { x with rampCfg := clampStep c w })
  | .levents c => some (onCore s c fun x => { x with block := { x.block with levents := x.block.levents &&& ~~~w } })
  | .ltrapVec c => some (onCore s c fun x => { x with block := { x.block with trapVec := keepBits w 0 13 } })
  | .rgnPos c h => some (onHandle s c h fun r => { r with pos := keepBits w 0 16 })
  | .rgnNode c h => some (onHandle s c h fun r => { r with node := w })
  | .rgnLid c h => some (onHandle s c h fun r => { r with lid := keepBits w 0 47 })
  | .rgnSave c h => some (onHandle s c h fun r => { r with save := keepBits w 12 51 })
  | .qtBase => some (onGlobal s fun g => { g with qtBase := keepBits w 6 51 })
  | .qtSize => some (onGlobal s fun g => { g with qtSize := keepBits w 0 20 })
  | .pollInt => some (onGlobal s fun g => { g with pollInt := keepBits w 0 7 })
  | .events => some (onGlobal s fun g => { g with events := g.events &&& ~~~w })
  | .ctrapVec => some (onGlobal s fun g => { g with trapVec := keepBits w 0 13 })
  | .nodeId => some (onGlobal s fun g => { g with nodeId := keepBits w 0 11 })
  | .rtBase => some (onGlobal s fun g => { g with rtBase := keepBits w 12 51 })
  | .winBase i => some (onWindow s i fun x => { x with base := keepBits w 30 51 })
  | .winSize i => some (onWindow s i fun x => { x with size := keepBits w 0 21 })
  | .winTgt i => some (onWindow s i fun x => { x with tgt := winTarget x.tgt w })
  | .winRbase i => some (onWindow s i fun x => { x with rbase := keepBits w 30 51 })
  | .dbgDeny => some (onDebug s fun d => { d with deny := w })
  | .rasBase => some (onDebug s fun d => { d with rasBase := keepBits w 17 51 })
  | .rasHead => some (onDebug s fun d => { d with rasHead := keepBits w 0 12 })
  | .rasDrop => some (onDebug s fun d => { d with rasDrop := w })
  | .brkCtl b => some (onDebug s fun d => { d with brkCtl := d.brkCtl.setIfInBounds b (keepBits w 0 0 ||| keepBits w 8 63) })
  | .brkLid b => some (onDebug s fun d => { d with brkLid := d.brkLid.setIfInBounds b (keepBits w 0 31) })
  | .brkStat => some (onDebug s fun d => { d with brkStat := d.brkStat &&& ~~~w })
  | .dbgSel => some (onDebug s fun d => { d with dbgSel := keepBits w 0 37 })
  | .ringBase => some (onDebug s fun d => { d with ringBase := keepBits w 16 51 })
  | .ringHead => some (onDebug s fun d => { d with ringHead := keepBits w 0 11 })
  | .trcPost => some (onDebug s fun d => { d with trcPost := keepBits w 0 16 })
  | .trnCfg u => some (setTrain s u { trainAt s u with cfg := w })
  | _ => none

/-! ### Writes that act (R5 WO) -/

/-- TIMER written: a value other than zero lets the timer run out (R401). -/
def setTimer (s : State) (w : W64) : State :=
  let s := onGlobal s fun g => { g with timer := keepBits w 0 31 }
  if keepBits w 0 31 = 0 then s else pushOnce s .globalTimerExpiry

/-- HALTCTL written (R456): bit 32 halts the launch, and bit 33 resumes it. -/
def writeHalt (s : State) (w : W64) : State :=
  let s := if bit w 32 then haltLaunch s (field w 0 32) true else s
  if bit w 33 then haltLaunch s (field w 0 32) false else s

/-- A write to a register that acts; read-only registers ignore it (R5). A command or report without a permit waits (R403). -/
def actWrite (s : State) (w : W64) : SysReg → Exec
  | .hotClr d => .ok (clearHot s d w)
  | .fltRes c => .ok (if bit w 8 then resolveKill s c (field w 0 6) else resolveRetry s c (field w 0 6))
  | .leafCltx c i =>
    if i = 7 then sendReport s c w
    else .ok (onCore s c fun x => { x with block := { x.block with tx := setDword x.block.tx i w } })
  | .monSet => .ok (if bit w 20 then watchQueue s (field w 0 20) else unwatchQueue s (field w 0 20))
  | .timer => .ok (setTimer s w)
  | .ceFlush => .ok (flushEntry s (field w 0 20))
  | .cltx l i =>
    if i = 7 then sendCommand s l w
    else .ok (onGlobal s fun g => { g with tx := g.tx.setIfInBounds l (setDword ((g.tx.toList[l]?).getD []) i w) })
  | .dbgToken => .ok (askToken s w)
  | .measExt => .ok (measureFrom s w)
  | .quote => .ok (askQuote s w)
  | .rasInj => .ok (injectRas s w)
  | .clkStep => .ok (setClock s w)
  | .haltCtl => .ok (writeHalt s w)
  | .dbgData => .ok (writeDbgData s w)
  | .markInj => .ok (injectMark s w)
  | .trcSel => .ok (selectTrace s w)
  | .trcStat => .ok (writeTrcStat s w)
  | .trcDump => .ok (dumpTrace s w)
  | .trnCmd u => .ok (startStep s u w.toNat)
  | .rcvGo => .ok (rcvGo s w)
  | _ => .ok s

/-- A write of a system register: a denied one has no effect but is counted (R414, R441). -/
def sysWrite (s : State) (r : SysReg) (w : W64) : Exec :=
  if denied s r true then .ok (countDenied s)
  else
    match plainWrite s w r with
    | some t => .ok t
    | none => actWrite s w r

/-- REGISTER_WRITE (R5): a write to a register with no behaviour of its own; at any other address nothing is set. -/
def execRegisterWrite (addr : W32) (w : W64) (s : State) : Host.Outcome State Fault Refusal :=
  .next (match regAt addr with
    | some r => if denied s r true then countDenied s else (plainWrite s w r).getD s
    | none => s)

/-! ### The host's BAR (R422, R441, R456)

An access of a host's bring-up agent through the BAR of a CXL port. No row of the opcode table is such an access, so no step makes one:
these two functions say what it does to the state between two steps (log 55). -/

/-- Whether a register of block 6 is open to the BAR whatever DBGEN holds (R456). -/
def SysReg.always : SysReg → Bool
  | .rdy | .lifecycle | .dbgEn | .resetCtl | .idPub _ | .meas _ _ | .quote | .qStat | .rasBase | .rasHead | .rasTail | .rasDrop | .temp
  | .trnCmd _ | .trnStat _ | .trnCfg _ | .rcvAddr | .rcvGo | .rcvStat => true
  | _ => false

/-- Whether the BAR is denied a register: it is not open always and HOSTDBG is not in force (R441). -/
def barDenied (s : State) (r : SysReg) : Bool := !r.always && !bit s.dbg.dbgEn 5

/-- A read through the BAR, of the register of block 6 at an offset. -/
def barRead (s : State) (off : Nat) : W64 × State :=
  match debugReg off with
  | some r => if barDenied s r then (0, countDenied s) else sysRead s r
  | none => (0, s)

/-- A write through the BAR; one of RESETCTL asks for the start that it names. -/
def barWrite (s : State) (off : Nat) (w : W64) : Exec :=
  match debugReg off with
  | some .resetCtl => .ok (if bit w 1 then push s .coldStart else if bit w 0 then push s .warmStart else s)
  | some r => if barDenied s r then .ok (countDenied s) else sysWrite s r w
  | none => .ok s

end Sys2Proof.Machine
end

