-- ==== Sys2Proof/Machine/System.lean ====
section
/-! DEFINITION. Major 0x80: traps, system registers, halting and waiting of controllers, and child launches (R46, R47, R414 to R417). -/

namespace Sys2Proof.Machine

/-- On controllers only; a controller instruction traps ILLOP elsewhere (R414). -/
def sysOp (p : Places) (o : Operands) (s : State) (x : Exec) : Host.Outcome State Fault Refusal :=
  issue p o s (predicated s (Mod.pred o.mod) do
    ready s o
    x)

/-! ### TRAP and ERET (R415) -/

/-- TRAP (R415): DETAIL is bits [15:0] of field A, or 0xFFFF where it is not data. -/
def execTrap (o : Operands) (s : State) : Host.Outcome State Fault Refusal :=
  sysOp Places.all o s (match scalarOf s o.a with
    | .data w => .error (.trap .trap 3 (field w 0 16))
    | _ => .error (.trap .trap 3 0xFFFF))

/-- Whether the trapped word was fetched as an instruction of its block (R101). -/
def trapFetched (s : State) : Bool :=
  let t := (thread s).trap
  decide (t.addr < storeWords s.cur) && decide (t.count < 256)

/-- ERET (R141, R415): in the Handler state only, with 0 to execute the trapped instruction again, or 1 to go on after it, which traps ILLOP
where it was a closing instruction. -/
def execEret (o : Operands) (s : State) : Host.Outcome State Fault Refusal :=
  sysOp Places.all o s (
    if !(thread s).handler then illop
    else
      match scalarOf s o.a with
      | .data w =>
        if w = 0 then .ok (withThread s (Thread.leave (thread s) false))
        else if w = 1 then
          if trapFetched s && closing (thread s).trap.word then illop else .ok (withThread s (Thread.leave (thread s) true))
        else illop
      | _ => illop)

/-! ### System registers (R400, R414) -/

/-- The register that a source names: a source that is not data, or an address that names none, traps ILLOP (R400, R414). -/
def namedReg (x : Scalar) : Except Stop SysReg := do
  let w ← dataOf x
  match if w.toNat < 2 ^ 32 then regAt (bits w 0 32) else none with
  | some r => .ok r
  | none => illop

/-- SYSRD (R414): the destination is a long-latency producer. -/
def execSysrd (o : Operands) (s : State) : Host.Outcome State Fault Refusal :=
  sysOp Places.controllers o s do
    let r ← namedReg (scalarOf s o.a)
    let (v, t) := sysRead s r
    .ok (retire (produceS t o.dst (.data v)))

/-- SYSWR (R414): the write by the register's access code. A reset by RESETCTL leaves no instruction to go on with (R443, R444). -/
def execSyswr (o : Operands) (s : State) : Host.Outcome State Fault Refusal :=
  sysOp Places.controllers o s do
    let r ← namedReg (scalarOf s o.a)
    let w ← dataOf (scalarOf s o.b)
    if r = .resetCtl then
      .ok (if bit w 1 then coldStart s else if bit w 0 then warmStart s else retire s)
    else do
      let t ← sysWrite s r w
      .ok (retire t)

/-! ### HALT and IDLE (R414, R416) -/

/-- The controller that executes stops until reset, and a RAS event says so (R414, R452). -/
def haltController (s : State) : State :=
  match s.cur with
  | .leaf c =>
    let x := coreOf s c
    rasRecord (setCore s c { x with leaf := { x.leaf with running := false } }) 8 1 (c / 4) c 0xFFFFFFFF 0 0
  | _ =>
    let die := s.glob.active
    rasRecord { s with glob := { s.glob with ctl := { s.glob.ctl with running := false } } } 8 1 die (4 * die) 0xFFFFFFFF 0 0

/-- HALT (R414). -/
def execHalt (o : Operands) (s : State) : Host.Outcome State Fault Refusal := sysOp Places.controllers o s (.ok (haltController s))

/-- EVENTS, or LEVENTS of the leaf (R416). -/
def eventsOf (s : State) : W64 :=
  match s.cur with
  | .leaf c => (coreOf s c).block.levents
  | _ => s.glob.events

/-- The executing controller waits until an event bit is set (R416). -/
def goIdle (s : State) : State :=
  match s.cur with
  | .leaf c => setCore s c { coreOf s c with leaf := { (coreOf s c).leaf with idle := true } }
  | _ => { s with glob := { s.glob with ctl := { s.glob.ctl with idle := true } } }

/-- IDLE (R416): it retires once an event bit is set, and its destination receives the events. -/
def execIdle (o : Operands) (s : State) : Host.Outcome State Fault Refusal :=
  sysOp Places.controllers o s (
    if eventsOf s = 0 then .error (.stall (goIdle s))
    else .ok (retire (produceS s o.dst (.data (eventsOf s)))))

/-! ### Child launches (R46, R47, R417) -/

/-- The packet in lanes 0 to 15 (R417): lanes that are not data, lanes 16 to 63 that are not zero, or a packet that breaks R407 trap ILLOP. -/
def packetOf (ls : Vector Lane 64) : Except Stop (List Byte) := do
  let d ← descriptor ls
  let p := d.flatMap fun w => leBytes 4 w.toNat
  if packetOk p false then .ok p else illop

/-- What LQSEND's destination receives (R417). -/
def SendCode.word : SendCode → W64
  | .queue => 0xC000000000000000
  | .limit => 0x8000000000000000
  | .full => 0x4000000000000000
  | .sent r => BitVec.ofNat 64 (r % 2 ^ 32)

/-- The task has created a child (R46, R47). -/
def addChild (s : State) (id : Nat) : State :=
  match s.cur with
  | .task k => setTask s k { taskOf s k with children := (taskOf s k).children ++ [{ id := id, complete := false, error := false }] }
  | _ => s

/-- LQSEND (R417): the queue and the limit are checked; then it releases at system scope; and then the packet is written and published, where the
ring is not full. -/
def execLqsend (o : Operands) (s : State) : Host.Outcome State Fault Refusal :=
  sysOp Places.sites o s do
    let p ← packetOf (vectorOf s o.a)
    let q ← dataOf (scalarOf s o.b)
    let l := (curLaunch s).getD 0
    if (← sendRefused s l q).isNone then memGate s .rel .system else .ok ()
    let (t, code) ← publish s (curDie s) l q p
    match code with
    | .sent r => .ok (retire (produceS (addChild t (packetId q.toNat r)) o.dst (.data code.word)))
    | code => .ok (retire (produceS t o.dst (.data code.word)))

/-- LQWAIT (R47, R417): the task waits on the destination, which fills once every child that the task has created by now has completed, and that
is an acquire at system scope. -/
def execLqwait (o : Operands) (s : State) : Host.Outcome State Fault Refusal :=
  sysOp Places.sites o s (
    match s.cur, o.dst with
    | .task k, .s i =>
      .ok (waitCur (retire (startProducer s o.dst (.children ((taskOf s k).children.map (·.id)) i) (some .system))) (.register o.dst))
    | _, _ => .ok (retire s))

end Sys2Proof.Machine
end

