-- ==== Sys2Proof/Machine/Verdict.lean ====
section
/-! DEFINITION. Major 0x61: reading verdicts, ranking candidates, and the monitor's width (R328 to R331). -/

namespace Sys2Proof.Machine

/-- The tags of a channel source in field A and, where it is one, in field B (R328). -/
def verdictTags (bs : List Fmt) (n : Nat) : List Fmt := if n = 0 then [.fp32] else bs

/-- Whether the head token of a field's channel carries none of the tags given. -/
def wrongTag (s : State) (f : Field) (tags : List Fmt) : Bool :=
  match (Field.chan f).bind (headToken s) with
  | some t => !tags.contains t.fmt
  | none => false

/-- The tags of the channel sources: the first wrong one traps FMT, whatever the token's kind (R140, R328). -/
def strictTags (s : State) (fs : List (Nat × Field)) (bs : List Fmt) : Except Stop Unit :=
  match fs.find? fun (n, f) => wrongTag s f (verdictTags bs n) with
  | some (n, _) => .error (.trap .fmt n 0)
  | none => .ok ()

/-- A lane classified by VVRD (R329): its verdict and its value, or its mark. -/
def classify (v : Verdict) (theta : W32) : Lane → Except Lane (Bool × W32)
  | .data x =>
    if isAbandoned x then
      if field x 16 3 = Verdict.code v then .ok (bit x 19, roundF32 .rne (bf16Val (bits x 0 16))) else .error (.err 2)
    else
      .ok (match v with
        | .sign => Val.holds .gt (f32Val x) (.fin false 0 0)
        | .ge => Val.holds .ge (f32Val x) (f32Val theta)
        | .topk => !(f32Val x).isNan, x)
  | l => .error l

/-- Whether a lane's verdict is 1. -/
def verdictBit (v : Verdict) (theta : W32) (l : Lane) : Bool :=
  match classify v theta l with
  | .ok (b, _) => b
  | .error _ => false

/-- The value of a lane, or its mark. -/
def verdictLane (v : Verdict) (theta : W32) (l : Lane) : Lane :=
  match classify v theta l with
  | .ok (_, x) => .data x
  | .error m => m

/-- The 64 bits that a function of the lane number gives. -/
def laneBits (p : Fin 64 → Bool) : W64 :=
  (List.finRange 64).foldl (fun m i => if p i then m ||| ((1 : W64) <<< i.val) else m) 0

/-- VVRD (R329): into a predicate the verdicts, into a vector the values, into a scalar the number of verdicts that are 1. -/
def execVvrd (o : Operands) (s : State) : Host.Outcome State Fault Refusal :=
  issue Places.sites o s do
    available s ([(0, o.a), (1, o.b)] ++ thetaSource s o)
    dstReady s o.dst
    let v ← verdictOf (← dataOf (scalarOf s o.b))
    let theta ← thetaOf s v o.c
    strictTags s [(0, o.a)] []
    let m := predBits (thread s).regs (Mod.pred o.mod)
    let ls := vectorOf s o.a
    let verdicts := laneBits fun i => verdictBit v theta (ls.get i)
    let s' := match o.dst with
      | .p _ => writePred s o.dst m verdicts
      | .v _ => writeVector s o.dst .fp32 m (Vector.ofFn fun i => verdictLane v theta (ls.get i))
      | d => writeScalar s d .int32 (.data (BitVec.ofNat 64 ((activeIdx (verdicts &&& m)).length)))
    .ok (retire (consume s' (if v = .ge then [o.a, o.b, o.c] else [o.a, o.b])))

/-- The candidate lanes of VTOPK, with their values and columns (R330). -/
def rankable (m : W64) (a b : Vector Lane 64) : List (Nat × W32 × W32) :=
  (activeIdx m).filterMap fun i =>
    match ((a.toList)[i]? : Option Lane), ((b.toList)[i]? : Option Lane) with
    | some (.data x), some (.data y) => if (f32Val x).isNan || isAbandoned x then none else some (i, x, y)
    | _, _ => none

/-- Whether a candidate lane ranks above another: by value, then by column, then by lane (R330). -/
def laneAbove (x y : Nat × W32 × W32) : Bool :=
  Val.holds .gt (f32Val x.2.1) (f32Val y.2.1) ||
    (Val.holds .eq (f32Val x.2.1) (f32Val y.2.1) && (x.2.2.ult y.2.2 || (x.2.2 == y.2.2 && x.1 < y.1)))

/-- A lane inserted in its rank. -/
def insertLane (x : Nat × W32 × W32) : List (Nat × W32 × W32) → List (Nat × W32 × W32)
  | [] => [x]
  | y :: r => if laneAbove x y then x :: y :: r else y :: insertLane x r

/-- The candidate lanes in rank order. -/
def ranked (xs : List (Nat × W32 × W32)) : List Nat := (xs.foldl (fun acc x => insertLane x acc) []).map (·.1)

/-- VTOPK (R330). -/
def execVtopk (o : Operands) (s : State) : Host.Outcome State Fault Refusal :=
  issue Places.sites o s do
    ready s o
    strictTags s [(0, o.a), (1, o.b)] [.fp32, .int32, .idx]
    let r := ranked (rankable (predBits (thread s).regs (Mod.pred o.mod)) (vectorOf s o.a) (vectorOf s o.b))
    let ls : Vector Lane 64 := Vector.ofFn fun j => match r[j.val]? with | some i => .data (BitVec.ofNat 32 i) | none => .null
    .ok (retire (consumeAll (writeVector s o.dst .int32 (BitVec.allOnes 64) ls) o))

/-- A lane of VBND (R331). -/
def boundLane (gr : Nat) (p rem : W32) : W32 :=
  if (f32Val p).isNan || (f32Val rem).isNan || Val.holds .lt (f32Val rem) (.fin false 0 0) then BitVec.ofNat 32 fp32.nanPattern
  else boundWidth p rem gr

/-- VBND (R63, R328, R331): an abandoned pattern in an active data lane traps ABANDONED. -/
def execVbnd (o : Operands) (s : State) : Host.Outcome State Fault Refusal :=
  issue Places.sites o s do
    ready s o
    let g ← dataOf (scalarOf s o.c)
    check (decide (g.toNat < 2 ^ 24)) .illop
    strictTags s [(0, o.a), (1, o.b)] [.fp32]
    let m := predBits (thread s).regs (Mod.pred o.mod)
    let a := vectorOf s o.a
    let b := vectorOf s o.b
    abandonedOk s m [(0, o.a), (1, o.b)]
    let ls : Vector Lane 64 := Vector.ofFn fun i =>
      Lane.combine [a.get i, b.get i] (.data (boundLane g.toNat (Lane.pattern (a.get i)) (Lane.pattern (b.get i))))
    .ok (retire (consumeAll (writeVector s o.dst .fp32 m ls) o))

end Sys2Proof.Machine
end

