-- ==== Sys2Proof/Machine/Dispatch.lean ====
section
/-! DEFINITION. One arm for each instruction and step: a direct call of its meaning. -/

namespace Sys2Proof.Machine

def exec (i : Instr) (s : State) : Host.Outcome State Fault Refusal :=
  match i with
  | .nop o => Sys2Proof.Machine.execNop o s
  | .xj o => Sys2Proof.Machine.execXj o s
  | .xsel o => Sys2Proof.Machine.execXsel o s
  | .xidx o => Sys2Proof.Machine.execXidx o s
  | .xcall o => Sys2Proof.Machine.execXcall o s
  | .xret o => Sys2Proof.Machine.execXret o s
  | .wait o => Sys2Proof.Machine.execWait o s
  | .yield o => Sys2Proof.Machine.execYield o s
  | .done o => Sys2Proof.Machine.execDone o s
  | .tbind o => Sys2Proof.Machine.execTbind o s
  | .tunbind o => Sys2Proof.Machine.execTunbind o s
  | .add o => Sys2Proof.Machine.execAdd o s
  | .sub o => Sys2Proof.Machine.execSub o s
  | .mul o => Sys2Proof.Machine.execMul o s
  | .mulh o => Sys2Proof.Machine.execMulh o s
  | .mulhu o => Sys2Proof.Machine.execMulhu o s
  | .div o => Sys2Proof.Machine.execDiv o s
  | .divu o => Sys2Proof.Machine.execDivu o s
  | .rem o => Sys2Proof.Machine.execRem o s
  | .remu o => Sys2Proof.Machine.execRemu o s
  | .and o => Sys2Proof.Machine.execAnd o s
  | .or o => Sys2Proof.Machine.execOr o s
  | .xor o => Sys2Proof.Machine.execXor o s
  | .andn o => Sys2Proof.Machine.execAndn o s
  | .shl o => Sys2Proof.Machine.execShl o s
  | .shr o => Sys2Proof.Machine.execShr o s
  | .sar o => Sys2Proof.Machine.execSar o s
  | .rol o => Sys2Proof.Machine.execRol o s
  | .clz o => Sys2Proof.Machine.execClz o s
  | .ctz o => Sys2Proof.Machine.execCtz o s
  | .popc o => Sys2Proof.Machine.execPopc o s
  | .min o => Sys2Proof.Machine.execMin o s
  | .max o => Sys2Proof.Machine.execMax o s
  | .minu o => Sys2Proof.Machine.execMinu o s
  | .maxu o => Sys2Proof.Machine.execMaxu o s
  | .abs o => Sys2Proof.Machine.execAbs o s
  | .sel o => Sys2Proof.Machine.execSel o s
  | .mov o => Sys2Proof.Machine.execMov o s
  | .bfx o => Sys2Proof.Machine.execBfx o s
  | .bfi o => Sys2Proof.Machine.execBfi o s
  | .lea o => Sys2Proof.Machine.execLea o s
  | .cmp o => Sys2Proof.Machine.execCmp o s
  | .pcmp o => Sys2Proof.Machine.execPcmp o s
  | .pand o => Sys2Proof.Machine.execPand o s
  | .por o => Sys2Proof.Machine.execPor o s
  | .pxor o => Sys2Proof.Machine.execPxor o s
  | .pnot o => Sys2Proof.Machine.execPnot o s
  | .pmov o => Sys2Proof.Machine.execPmov o s
  | .vadd ty o => Sys2Proof.Machine.execVadd ty o s
  | .vsub ty o => Sys2Proof.Machine.execVsub ty o s
  | .vmul ty o => Sys2Proof.Machine.execVmul ty o s
  | .vfma ty o => Sys2Proof.Machine.execVfma ty o s
  | .vmin ty o => Sys2Proof.Machine.execVmin ty o s
  | .vmax ty o => Sys2Proof.Machine.execVmax ty o s
  | .vabs ty o => Sys2Proof.Machine.execVabs ty o s
  | .vneg ty o => Sys2Proof.Machine.execVneg ty o s
  | .vcmp ty o => Sys2Proof.Machine.execVcmp ty o s
  | .vsel ty o => Sys2Proof.Machine.execVsel ty o s
  | .vdiv ty o => Sys2Proof.Machine.execVdiv ty o s
  | .vsqrt ty o => Sys2Proof.Machine.execVsqrt ty o s
  | .vdot4 ty o => Sys2Proof.Machine.execVdot4 ty o s
  | .vshl ty o => Sys2Proof.Machine.execVshl ty o s
  | .vshr ty o => Sys2Proof.Machine.execVshr ty o s
  | .vand ty o => Sys2Proof.Machine.execVand ty o s
  | .vor ty o => Sys2Proof.Machine.execVor ty o s
  | .vxor ty o => Sys2Proof.Machine.execVxor ty o s
  | .vcvt fd fs o => Sys2Proof.Machine.execVcvt fd fs o s
  | .vmov o => Sys2Proof.Machine.execVmov o s
  | .vbcast o => Sys2Proof.Machine.execVbcast o s
  | .vins o => Sys2Proof.Machine.execVins o s
  | .vext o => Sys2Proof.Machine.execVext o s
  | .vshuf o => Sys2Proof.Machine.execVshuf o s
  | .vcomp o => Sys2Proof.Machine.execVcomp o s
  | .vexp o => Sys2Proof.Machine.execVexp o s
  | .viota o => Sys2Proof.Machine.execViota o s
  | .vred o => Sys2Proof.Machine.execVred o s
  | .vscan o => Sys2Proof.Machine.execVscan o s
  | .vpopc o => Sys2Proof.Machine.execVpopc o s
  | .vpfx o => Sys2Proof.Machine.execVpfx o s
  | .vamax o => Sys2Proof.Machine.execVamax o s
  | .send o => Sys2Proof.Machine.execSend o s
  | .sendn o => Sys2Proof.Machine.execSendn o s
  | .sende o => Sys2Proof.Machine.execSende o s
  | .peek o => Sys2Proof.Machine.execPeek o s
  | .drop o => Sys2Proof.Machine.execDrop o s
  | .tkind o => Sys2Proof.Machine.execTkind o s
  | .qset o => Sys2Proof.Machine.execQset o s
  | .qclr o => Sys2Proof.Machine.execQclr o s
  | .qtest o => Sys2Proof.Machine.execQtest o s
  | .qzero o => Sys2Proof.Machine.execQzero o s
  | .ldb o => Sys2Proof.Machine.execLdb o s
  | .ldbu o => Sys2Proof.Machine.execLdbu o s
  | .ldh o => Sys2Proof.Machine.execLdh o s
  | .ldhu o => Sys2Proof.Machine.execLdhu o s
  | .ldw o => Sys2Proof.Machine.execLdw o s
  | .ldwu o => Sys2Proof.Machine.execLdwu o s
  | .ldd o => Sys2Proof.Machine.execLdd o s
  | .stb o => Sys2Proof.Machine.execStb o s
  | .sth o => Sys2Proof.Machine.execSth o s
  | .stw o => Sys2Proof.Machine.execStw o s
  | .std o => Sys2Proof.Machine.execStd o s
  | .ldv o => Sys2Proof.Machine.execLdv o s
  | .stv o => Sys2Proof.Machine.execStv o s
  | .ldvs o => Sys2Proof.Machine.execLdvs o s
  | .stvs o => Sys2Proof.Machine.execStvs o s
  | .ldvx o => Sys2Proof.Machine.execLdvx o s
  | .stvx o => Sys2Proof.Machine.execStvx o s
  | .pref o => Sys2Proof.Machine.execPref o s
  | .amoadd o => Sys2Proof.Machine.execAmoadd o s
  | .amoaddf o => Sys2Proof.Machine.execAmoaddf o s
  | .amomin o => Sys2Proof.Machine.execAmomin o s
  | .amomax o => Sys2Proof.Machine.execAmomax o s
  | .amominu o => Sys2Proof.Machine.execAmominu o s
  | .amomaxu o => Sys2Proof.Machine.execAmomaxu o s
  | .amoand o => Sys2Proof.Machine.execAmoand o s
  | .amoor o => Sys2Proof.Machine.execAmoor o s
  | .amoxor o => Sys2Proof.Machine.execAmoxor o s
  | .amoswap o => Sys2Proof.Machine.execAmoswap o s
  | .amocas o => Sys2Proof.Machine.execAmocas o s
  | .bkadd o => Sys2Proof.Machine.execBkadd o s
  | .bkaddf o => Sys2Proof.Machine.execBkaddf o s
  | .bkmax o => Sys2Proof.Machine.execBkmax o s
  | .bkaxpy o => Sys2Proof.Machine.execBkaxpy o s
  | .bkcnt o => Sys2Proof.Machine.execBkcnt o s
  | .bind o => Sys2Proof.Machine.execBind o s
  | .unbind o => Sys2Proof.Machine.execUnbind o s
  | .acq o => Sys2Proof.Machine.execAcq o s
  | .rel o => Sys2Proof.Machine.execRel o s
  | .invr o => Sys2Proof.Machine.execInvr o s
  | .inva o => Sys2Proof.Machine.execInva o s
  | .wbr o => Sys2Proof.Machine.execWbr o s
  | .fence o => Sys2Proof.Machine.execFence o s
  | .waita o => Sys2Proof.Machine.execWaita o s
  | .bara o => Sys2Proof.Machine.execBara o s
  | .barw o => Sys2Proof.Machine.execBarw o s
  | .baraw o => Sys2Proof.Machine.execBaraw o s
  | .barm o => Sys2Proof.Machine.execBarm o s
  | .barq o => Sys2Proof.Machine.execBarq o s
  | .mcfg o => Sys2Proof.Machine.execMcfg o s
  | .mvcfg o => Sys2Proof.Machine.execMvcfg o s
  | .mtkcfg o => Sys2Proof.Machine.execMtkcfg o s
  | .mma o => Sys2Proof.Machine.execMma o s
  | .mmab o => Sys2Proof.Machine.execMmab o s
  | .mmas o => Sys2Proof.Machine.execMmas o s
  | .mman o => Sys2Proof.Machine.execMman o s
  | .mrel o => Sys2Proof.Machine.execMrel o s
  | .mthr o => Sys2Proof.Machine.execMthr o s
  | .mrpr o => Sys2Proof.Machine.execMrpr o s
  | .mstat o => Sys2Proof.Machine.execMstat o s
  | .vvrd o => Sys2Proof.Machine.execVvrd o s
  | .vtopk o => Sys2Proof.Machine.execVtopk o s
  | .vbnd o => Sys2Proof.Machine.execVbnd o s
  | .cphead o => Sys2Proof.Machine.execCphead o s
  | .cpstat o => Sys2Proof.Machine.execCpstat o s
  | .cpstop o => Sys2Proof.Machine.execCpstop o s
  | .xbinit o => Sys2Proof.Machine.execXbinit o s
  | .xbexp o => Sys2Proof.Machine.execXbexp o s
  | .xbarv o => Sys2Proof.Machine.execXbarv o s
  | .xbwait o => Sys2Proof.Machine.execXbwait o s
  | .xbtest o => Sys2Proof.Machine.execXbtest o s
  | .gthr o => Sys2Proof.Machine.execGthr o s
  | .sctr o => Sys2Proof.Machine.execSctr o s
  | .isect o => Sys2Proof.Machine.execIsect o s
  | .wmclass o => Sys2Proof.Machine.execWmclass o s
  | .wmadd o => Sys2Proof.Machine.execWmadd o s
  | .wmdel o => Sys2Proof.Machine.execWmdel o s
  | .wmupd o => Sys2Proof.Machine.execWmupd o s
  | .wmget o => Sys2Proof.Machine.execWmget o s
  | .netld o => Sys2Proof.Machine.execNetld o s
  | .agrnd o => Sys2Proof.Machine.execAgrnd o s
  | .agnext o => Sys2Proof.Machine.execAgnext o s
  | .agdone o => Sys2Proof.Machine.execAgdone o s
  | .scget o => Sys2Proof.Machine.execScget o s
  | .scput o => Sys2Proof.Machine.execScput o s
  | .trap o => Sys2Proof.Machine.execTrap o s
  | .eret o => Sys2Proof.Machine.execEret o s
  | .sysrd o => Sys2Proof.Machine.execSysrd o s
  | .syswr o => Sys2Proof.Machine.execSyswr o s
  | .halt o => Sys2Proof.Machine.execHalt o s
  | .idle o => Sys2Proof.Machine.execIdle o s
  | .lqsend o => Sys2Proof.Machine.execLqsend o s
  | .lqwait o => Sys2Proof.Machine.execLqwait o s
  | .cfgpush o => Sys2Proof.Machine.execCfgpush o s
  | .preempt o => Sys2Proof.Machine.execPreempt o s
  | .genbump o => Sys2Proof.Machine.execGenbump o s
  | .spflush o => Sys2Proof.Machine.execSpflush o s
  | .sitecfg pkt => Sys2Proof.Machine.execSitecfg pkt s
  | .code pkt => Sys2Proof.Machine.execCode pkt s
  | .route pkt => Sys2Proof.Machine.execRoute pkt s
  | .nodemap pkt => Sys2Proof.Machine.execNodemap pkt s
  | .nodecfg pkt => Sys2Proof.Machine.execNodecfg pkt s
  | .lsdata pkt => Sys2Proof.Machine.execLsdata pkt s
  | .cfgEnd pkt => Sys2Proof.Machine.execCfgEnd pkt s
  | .packetForward pkt => Sys2Proof.Machine.execPacketForward pkt s
  | .siteWake launch region => Sys2Proof.Machine.execSiteWake launch region s
  | .dispatch launch region => Sys2Proof.Machine.execDispatch launch region s
  | .granuleRefill task extent granule => Sys2Proof.Machine.execGranuleRefill task extent granule s
  | .tokenArrival src parityBad => Sys2Proof.Machine.execTokenArrival src parityBad s
  | .producerComplete agent id => Sys2Proof.Machine.execProducerComplete agent id s
  | .taskRetire task => Sys2Proof.Machine.execTaskRetire task s
  | .regionRetire launch region => Sys2Proof.Machine.execRegionRetire launch region s
  | .launchComplete launch => Sys2Proof.Machine.execLaunchComplete launch s
  | .preemptSave launch => Sys2Proof.Machine.execPreemptSave launch s
  | .engineHalt node => Sys2Proof.Machine.execEngineHalt node s
  | .launchResume launch => Sys2Proof.Machine.execLaunchResume launch s
  | .commandLinkMessage toLeaf leaf => Sys2Proof.Machine.execCommandLinkMessage toLeaf leaf s
  | .reg core line mask => Sys2Proof.Machine.execReg core line mask s
  | .regack core line mask => Sys2Proof.Machine.execRegack core line mask s
  | .rdreq core line => Sys2Proof.Machine.execRdreq core line s
  | .data core line content => Sys2Proof.Machine.execData core line content s
  | .fwd owner line mask req => Sys2Proof.Machine.execFwd owner line mask req s
  | .fwddata owner line mask content bytes req => Sys2Proof.Machine.execFwddata owner line mask content bytes req s
  | .refuse owner line mask req => Sys2Proof.Machine.execRefuse owner line mask req s
  | .revoke owner line mask => Sys2Proof.Machine.execRevoke owner line mask s
  | .wb core line content bytes mask => Sys2Proof.Machine.execWb core line content bytes mask s
  | .wback core line mask => Sys2Proof.Machine.execWback core line mask s
  | .waitaTimeout task => Sys2Proof.Machine.execWaitaTimeout task s
  | .hostAnswer half => Sys2Proof.Machine.execHostAnswer half s
  | .hostHalfTake half => Sys2Proof.Machine.execHostHalfTake half s
  | .hostWrite pa content => Sys2Proof.Machine.execHostWrite pa content s
  | .walkResponse walk => Sys2Proof.Machine.execWalkResponse walk s
  | .faultRecord fault => Sys2Proof.Machine.execFaultRecord fault s
  | .endToken core acc token => Sys2Proof.Machine.execEndToken core acc token s
  | .topkCandidate core topk input token => Sys2Proof.Machine.execTopkCandidate core topk input token s
  | .thresh core slab theta => Sys2Proof.Machine.execThresh core slab theta s
  | .startRequest core topk slabCore slab => Sys2Proof.Machine.execStartRequest core topk slabCore slab s
  | .scorerPacketWrite core entry => Sys2Proof.Machine.execScorerPacketWrite core entry s
  | .sigChange core entry => Sys2Proof.Machine.execSigChange core entry s
  | .markHop walk => Sys2Proof.Machine.execMarkHop walk s
  | .trainingComplete unit code pass => Sys2Proof.Machine.execTrainingComplete unit code pass s
  | .dbgtokenVerified pa => Sys2Proof.Machine.execDbgtokenVerified pa s
  | .quoteDone pa => Sys2Proof.Machine.execQuoteDone pa s
  | .hotnessCrossing die space window => Sys2Proof.Machine.execHotnessCrossing die space window s
  | .linkFailed src => Sys2Proof.Machine.execLinkFailed src s
  | .cardBegin core card => Sys2Proof.Machine.execCardBegin core card s
  | .sideLogDrain core entry => Sys2Proof.Machine.execSideLogDrain core entry s
  | .hostSnoop half => Sys2Proof.Machine.execHostSnoop half s
  | .backInvalidate half => Sys2Proof.Machine.execBackInvalidate half s
  | .fabricRequest req => Sys2Proof.Machine.execFabricRequest req s
  | .uncorrectableError place => Sys2Proof.Machine.execUncorrectableError place s
  | .steerNodeFire site => Sys2Proof.Machine.execSteerNodeFire site s
  | .mergeNodeFire site => Sys2Proof.Machine.execMergeNodeFire site s
  | .conversionNodeFire site => Sys2Proof.Machine.execConversionNodeFire site s
  | .agingPreempt launch => Sys2Proof.Machine.execAgingPreempt launch s
  | .launchPacketTake queue => Sys2Proof.Machine.execLaunchPacketTake queue s
  | .cltx leaf w => Sys2Proof.Machine.execCltx leaf w s
  | .clrx => Sys2Proof.Machine.execClrx s
  | .leafCltx leaf w => Sys2Proof.Machine.execLeafCltx leaf w s
  | .leafClrx leaf => Sys2Proof.Machine.execLeafClrx leaf s
  | .retired leaf => Sys2Proof.Machine.execRetired leaf s
  | .monhit => Sys2Proof.Machine.execMonhit s
  | .monsetWatch queue => Sys2Proof.Machine.execMonsetWatch queue s
  | .monsetUnwatch queue => Sys2Proof.Machine.execMonsetUnwatch queue s
  | .ceflush queue => Sys2Proof.Machine.execCeflush queue s
  | .globalTimerExpiry => Sys2Proof.Machine.execGlobalTimerExpiry s
  | .cxlPortDown die => Sys2Proof.Machine.execCxlPortDown die s
  | .floholtPortDown port => Sys2Proof.Machine.execFloholtPortDown port s
  | .remoteRefusal node => Sys2Proof.Machine.execRemoteRefusal node s
  | .ownerLoss core => Sys2Proof.Machine.execOwnerLoss core s
  | .fltresRetry core index => Sys2Proof.Machine.execFltresRetry core index s
  | .fltresKill core index => Sys2Proof.Machine.execFltresKill core index s
  | .hotclr die w => Sys2Proof.Machine.execHotclr die w s
  | .streamElement die slot => Sys2Proof.Machine.execStreamElement die slot s
  | .configAtHead core slab => Sys2Proof.Machine.execConfigAtHead core slab s
  | .slabCommandStart core slab => Sys2Proof.Machine.execSlabCommandStart core slab s
  | .slabGroup core slab => Sys2Proof.Machine.execSlabGroup core slab s
  | .accumulatorRelease core acc => Sys2Proof.Machine.execAccumulatorRelease core acc s
  | .topkEnd core topk => Sys2Proof.Machine.execTopkEnd core topk s
  | .rampWindow core => Sys2Proof.Machine.execRampWindow core s
  | .recordFetch core chan => Sys2Proof.Machine.execRecordFetch core chan s
  | .sectorIssue core chan => Sys2Proof.Machine.execSectorIssue core chan s
  | .sectorLand core chan => Sys2Proof.Machine.execSectorLand core chan s
  | .recordFinish core chan => Sys2Proof.Machine.execRecordFinish core chan s
  | .followOnOffer core chan => Sys2Proof.Machine.execFollowOnOffer core chan s
  | .gatherDelivery die id => Sys2Proof.Machine.execGatherDelivery die id s
  | .scatterWrite die id => Sys2Proof.Machine.execScatterWrite die id s
  | .isectResult die id => Sys2Proof.Machine.execIsectResult die id s
  | .deltaPropagate core => Sys2Proof.Machine.execDeltaPropagate core s
  | .selectionRound core => Sys2Proof.Machine.execSelectionRound core s
  | .haltctlHalt launch => Sys2Proof.Machine.execHaltctlHalt launch s
  | .haltctlResume launch => Sys2Proof.Machine.execHaltctlResume launch s
  | .dbgdata w => Sys2Proof.Machine.execDbgdata w s
  | .markinj w => Sys2Proof.Machine.execMarkinj w s
  | .trcsel w => Sys2Proof.Machine.execTrcsel w s
  | .trcstatTrigger => Sys2Proof.Machine.execTrcstatTrigger s
  | .traceStop => Sys2Proof.Machine.execTraceStop s
  | .trcdump w => Sys2Proof.Machine.execTrcdump w s
  | .dbgtoken w => Sys2Proof.Machine.execDbgtoken w s
  | .coldStart => Sys2Proof.Machine.execColdStart s
  | .warmStart => Sys2Proof.Machine.execWarmStart s
  | .trnReset unit => Sys2Proof.Machine.execTrnReset unit s
  | .lanetest unit => Sys2Proof.Machine.execLanetest unit s
  | .wck unit => Sys2Proof.Machine.execWck unit s
  | .catrain unit => Sys2Proof.Machine.execCatrain unit s
  | .rdtrain unit => Sys2Proof.Machine.execRdtrain unit s
  | .wrtrain unit => Sys2Proof.Machine.execWrtrain unit s
  | .eq unit => Sys2Proof.Machine.execEq unit s
  | .deskew unit => Sys2Proof.Machine.execDeskew unit s
  | .flitlock unit => Sys2Proof.Machine.execFlitlock unit s
  | .ltssm unit => Sys2Proof.Machine.execLtssm unit s
  | .save unit => Sys2Proof.Machine.execSave unit s
  | .restore unit => Sys2Proof.Machine.execRestore unit s
  | .online unit => Sys2Proof.Machine.execOnline unit s
  | .firmwareLoad => Sys2Proof.Machine.execFirmwareLoad s
  | .rcvgo w => Sys2Proof.Machine.execRcvgo w s
  | .measext w => Sys2Proof.Machine.execMeasext w s
  | .quote w => Sys2Proof.Machine.execQuote w s
  | .rasinj w => Sys2Proof.Machine.execRasinj w s
  | .lockstepMismatch => Sys2Proof.Machine.execLockstepMismatch s
  | .selfCheckDone pass0 pass2 => Sys2Proof.Machine.execSelfCheckDone pass0 pass2 s
  | .clkstep w => Sys2Proof.Machine.execClkstep w s
  | .thermalStep => Sys2Proof.Machine.execThermalStep s
  | .thermalShutdown => Sys2Proof.Machine.execThermalShutdown s
  | .registerWrite addr w => Sys2Proof.Machine.execRegisterWrite addr w s
  | .leafTimerExpiry leaf => Sys2Proof.Machine.execLeafTimerExpiry leaf s

end Sys2Proof.Machine
end

