-- ==== Sys2Proof/Machine/Sched.lean ====
section
/-! DEFINITION. What can happen next: the order of messages, the round robin of a site, fetching, and the issue trace (R18, R42, R101,
R198, R438, R439). -/

namespace Sys2Proof.Machine

/-! ### Time -/

/-- One step passes: the step counter, and TIME by one cycle or more (R95, R122; log 3). Stopped clocks stop TIME (R455). -/
def tick (s : State) : State :=
  { s with clock := s.clock + 1,
           time := if s.dbg.shutdown then s.time else s.time + 1 + BitVec.ofNat 64 (Config.cycles s.clock) }

/-! ### Which steps of the agenda can come next -/

/-- Ordered channels of steps: two steps with the same key happen in the order in which they were put on the agenda. The first number
names the kind of channel, the others its ends. -/
def linkOf (s : State) : Instr → Option (Nat × Nat × Nat)
  | .reg c l _ => some (1, c, homeNo s l)
  | .rdreq c l => some (1, c, homeNo s l.line)
  | .wb c l _ _ _ => some (1, c, homeNo s l)
  | .fwddata c l _ _ _ _ => some (1, c, homeNo s l)
  | .refuse c l _ _ => some (1, c, homeNo s l)
  | .regack c l _ => some (2, c, homeNo s l)
  | .data c l _ => some (2, c, homeNo s l)
  | .fwd c l _ _ => some (2, c, homeNo s l)
  | .revoke c l _ => some (2, c, homeNo s l)
  | .wback c l _ => some (2, c, homeNo s l)
  | .commandLinkMessage toLeaf leaf => some (3, if toLeaf then 1 else 0, leaf)
  | .tokenArrival (.chan k o) false => some (4, siteKeyNat k, o)
  | .tokenArrival (.node n) false => some (5, (match n.kind with | .slab => 0 | .acc => 1 | .topk => 2 | .copych => 3 | .stream => 4
                                                                  | .match_ => 5) + 8 * n.home, n.idx)
  | .tokenArrival (.unit d i) false => some (6, d, i)
  | .cfgEnd p => some (8, p.launch, p.region)
  | .sitecfg p => some (8, p.launch, p.region)
  | .code p => some (8, p.launch, p.region)
  | .route p => some (8, p.launch, p.region)
  | .nodemap p => some (8, p.launch, p.region)
  | .nodecfg p => some (8, p.launch, p.region)
  | .lsdata p => some (8, p.launch, p.region)
  | .packetForward p => some (8, p.launch, p.region)
  | .siteWake l r => some (8, l, r)
  | .endToken c a _ => some (9, c, a)
  | .topkCandidate c k _ _ => some (10, c, k)
  | .startRequest c k _ _ => some (10, c, k)
  | _ => none

/-- The registration that a line's home holds back, if a step is that one: it has arrived, and delays only its own line (R198, R199). -/
def heldReg (s : State) : Instr → Option Nat
  | .reg c l m => if (homeLine s l).held = some (c, m) then some l else none
  | _ => none

/-- The line of a message to a home. -/
def lineOf : Instr → Option Nat
  | .reg _ l _ => some l
  | .rdreq _ l => some l.line
  | .wb _ l _ _ _ => some l
  | .fwddata _ l _ _ _ _ => some l
  | .refuse _ l _ _ => some l
  | _ => none

/-- Whether a token of a top-k node waits for one of its own input that is being converted, and which input that is (R83). -/
def behindConversion (s : State) : Instr → Option Nat
  | .topkCandidate c k i _ => if (topkOf s c k).away.contains i then some i else none
  | _ => none

/-- The input of a top-k node at which a token has arrived. -/
def inputNo : Instr → Option Nat
  | .topkCandidate _ _ i _ => some i
  | _ => none

/-- Whether a step waits behind an earlier one of the agenda: of its ordered channel, unless that one has arrived and waits for another line, or
waits for a conversion at another input (R18, R83, R198, R337). -/
def waitsBehind (s : State) (b e : Instr) : Bool :=
  linkOf s b == linkOf s e && (match heldReg s b with | some l => lineOf e == some l | none => true) &&
    (match behindConversion s b with | some i => inputNo e == some i | none => true)

/-- Whether a registration or a read waits behind the one that its line's home holds back (R199). -/
def behindHeld (s : State) : Instr → Bool
  | .reg c l m => (match (homeLine s l).held with | some h => h != (c, m) | none => false)
  | .rdreq _ l => (homeLine s l.line).held.isSome
  | _ => false

/-- Whether a step may come next although others of the agenda stand before it. -/
def unordered (s : State) (before : List Instr) (e : Instr) : Bool :=
  !behindHeld s e && ((linkOf s e).isNone || !before.any fun b => waitsBehind s b e)

/-- The positions of the agenda's steps that can come next (R18, R38, R198, R403). With every clock stopped, only a cold start can
(R455). -/
def readySteps (s : State) : List Nat :=
  (List.range s.agenda.length).filter fun i =>
    match s.agenda[i]? with
    | some e => if s.dbg.shutdown then e == .coldStart else unordered s (s.agenda.take i) e
    | none => false

/-! ### Which instruction streams can issue (R42, R54, R273) -/

/-- Whether a task can issue: ready, not holding on a page fault, its launch running. -/
def canIssue (s : State) (x : Site) (t : Task) : Bool :=
  t.slot == .ready && !(t.thread.producers.any (·.held)) &&
    (match x.owner with | some o => launchRuns s o.launch | none => false)

/-- The slots of a site in round-robin order, beginning after the one that issued last (R42). -/
def robin (x : Site) : List Nat := (List.range 16).map fun i => (x.lastIssued + 1 + i) % 16

/-- The task slots of a site that can issue, in round-robin order (R42). -/
def readySlots (s : State) (x : Site) : List Nat :=
  (robin x).filter fun i =>
    match Tab.find? x.tasks i with
    | some t => canIssue s x t
    | none => false

/-- Whether a controller runs (R397, R416). -/
def Controller.canIssue (x : Controller) : Bool := x.running && !x.idle

/-- The task slot of a site that issues next, if one can: the first ready one in round-robin order (R42, R153). A task that is refilling or
interlocked passes its slot on only for cycles that the model leaves out (log 3). -/
def nextSlot (s : State) (x : Site) : Option Nat := (readySlots s x).head?

/-- The agents that can issue. -/
def readyAgents (s : State) : List Agent :=
  if s.dbg.shutdown then [] else
  s.sites.filterMap (fun (n, x) => (nextSlot s x).map fun i => .task { core := n / 64, site := n % 64, slot := i }) ++
  (s.cores.filter fun (_, x) => Controller.canIssue x.leaf).map (fun (c, _) => Agent.leaf c) ++
  (if Controller.canIssue s.glob.ctl then [Agent.global] else [])

/-! ### Moves of the engines and of the scheduler -/

/-- The scheduler's own moves: the next queue's packet is taken (R410), a pending launch that has waited pre-empts others (R411), and the
self-check after a lockstep mismatch ends (R451). -/
def schedulerMoves (s : State) : List Auto :=
  (if s.glob.ctl.running then ((nextQueue s).map Auto.take).toList else []) ++
    ((s.launches.filter fun (l, _) => !(agingVictims s l).isEmpty).map fun (l, _) => Auto.age l) ++
    (if s.dbg.checking then [Auto.selfCheck] else [])

/-- The moves that need no instruction and no step of the agenda; none with every clock stopped (R455). -/
def autoMoves (s : State) : List Auto := if s.dbg.shutdown then [] else engineMoves s ++ schedulerMoves s

/-- What happens next: a step of the agenda, by its position; a move of an engine or of the scheduler; or an instruction of an agent. -/
inductive Move where
  | event (i : Nat)
  | auto (a : Auto)
  | issue (a : Agent)
  deriving DecidableEq, Repr

/-- Everything that can happen next. -/
def moves (s : State) : List Move := (readySteps s).map Move.event ++ (autoMoves s).map Move.auto ++ (readyAgents s).map Move.issue

/-- The move that the device makes: the only one, or one of several by a free value (log 1). -/
def pick (s : State) : List Move → Option Move
  | [] => none
  | [m] => some m
  | m :: ms => (m :: ms)[Config.choice s.clock % (m :: ms).length]?

/-! ### Fetching (R89, R101) -/

/-- Whether the fetch faults: beyond the store, or the 257th word of a block (R101). -/
def fetchFaults (s : State) : Bool := decide (storeWords s.cur ≤ (thread s).pc) || decide (256 ≤ (thread s).blockCount)

/-- The instruction at the program counter; none where the fetch faults or the word is no instruction (R108). -/
def fetched (s : State) : Option Instr :=
  if fetchFaults s then none
  else
    match decode (wordAt s s.cur (thread s).pc) with
    | .ok i => some i
    | .error _ => none

/-- The state as an agent's instruction begins: the agent executes, and a site's round-robin position moves to its task (R42). -/
def begin_ (s : State) (a : Agent) : State :=
  match a with
  | .task k =>
    { setSite s (TaskKey.siteKey k) { siteOf s (TaskKey.siteKey k) with lastIssued := k.slot } with cur := a }
  | _ => { s with cur := a }

/-- Whether a word breakpoint halts the launch before the word at pc issues (R435); a stream that it has halted there goes on when the
launch resumes (log 15). -/
def wordBreak (s : State) : Option State :=
  match s.cur with
  | .task k =>
    let t := thread s
    let c := siteCnode (siteOf s (TaskKey.siteKey k))
    let l := launchOfTask s k
    if t.stepOver || (breaksAt s 0 c l (some t.pc)).isEmpty then none
    else some (breakpoint (withThread s { t with stepOver := true }) 0 c k.core l (some t.pc))
  | _ => none

/-! ### The issue trace (R438, R439) -/

/-- Buffered tokens of a site. -/
def Site.buffered (x : Site) : Nat := (x.chans.toList.map fun c => c.slots.length).foldl (· + ·) 0

/-- A site's column when no instruction of it issues (R439). -/
def idleColumn (s : State) (x : Site) : BitVec 16 :=
  match x.owner with
  | none => 4
  | some o =>
    if (launchOf s o.launch).halted then 5
    else if (readySlots s x).isEmpty then 0
    else 2

/-- Whether a task's instruction stayed at its word, ready to be tried again: it is blocked on a full buffer or queue, or holds on something else
that it needs before it can retire. -/
def stalled (before after : State) (t : TaskKey) : Bool :=
  let a := threadOf before (.task t)
  let b := threadOf after (.task t)
  a.pc == b.pc && a.handler == b.handler && (taskOf after t).slot == .ready && !closing (wordAt before (.task t) a.pc)

/-- A site's column (R439): of an instruction that was held back, reason 3. -/
def siteColumn (before after : State) (m : Move) (k : SiteKey) : BitVec 16 :=
  match m with
  | .issue (.task t) =>
    if TaskKey.siteKey t = k then
      let took := Site.buffered (siteOf after k) < Site.buffered (siteOf before k)
      if stalled before after t then 3
      else BitVec.ofNat 16 (0x8000 + t.slot * 2048 + (if took then 1024 else 0) + (threadOf before (.task t)).pc)
    else idleColumn before (siteOf before k)
  | _ => idleColumn before (siteOf before k)

/-- A slab's column: set, with the index of the group that the step added (R439). -/
def slabColumn (before after : State) (core slab : Nat) : BitVec 16 :=
  let next (s : State) : Option Nat := ((coreOf s core).slabs.toList[slab]?.bind (·.exec)).map (·.next)
  match next before, next after with
  | some n, some n' => if n' = n + 1 then BitVec.ofNat 16 (0x8000 + n % 8192) else 0
  | some n, none => BitVec.ofNat 16 (0x8000 + n % 8192)
  | _, _ => 0

/-- One row of the trace: 64 sites, then four slabs (R438). -/
def traceRow (before after : State) (m : Move) : List (BitVec 16) :=
  let c := field before.dbg.trcSel 0 4
  ((List.range 64).map fun i => siteColumn before after m { core := c, site := i }) ++
  ((List.range 4).map fun i => slabColumn before after c i)

/-- A row recorded while the trace runs; the last 65,536 are kept, and TRCPOST counts down after the trigger (R438; one row for each
step, log 3). -/
def recordRow (before after : State) (m : Move) : State :=
  if bit before.dbg.trcStat 0 then
    let d := after.dbg
    let rows := d.trcRows ++ [traceRow before after m]
    let drop := rows.length - 65536
    { after with dbg := { d with trcRows := rows.drop drop, trcFirst := if d.trcRows.isEmpty then before.time else d.trcFirst,
                                 trcTrigger := d.trcTrigger - drop,
                                 trcLeft := if bit d.trcStat 1 then d.trcLeft - 1 else d.trcLeft } }
  else after

end Sys2Proof.Machine
end

