-- ==== Sys2Proof/Machine/Step.lean ====
section
/-! DEFINITION. One step of the machine, and placing an instruction where the next step fetches it. -/

namespace Sys2Proof.Machine

/-- An outcome with the trace recorded on its next state (R438). -/
def traced (before : State) (m : Move) : Host.Outcome State Fault Refusal → Host.Outcome State Fault Refusal
  | .next t => .next (recordRow before t m)
  | x => x

/-- The executing agent issues: a word breakpoint halts it, a fetch that gives no instruction traps ILLOP (R101, R108), and otherwise
the instruction executes. -/
def issueStep (s : State) : Host.Outcome State Fault Refusal :=
  match wordBreak s with
  | some t => .next t
  | none =>
    match fetched s with
    | some i => exec i s
    | none => .next (takeTrap .illop 3 0 s)

/-- A move of an engine or of the scheduler made: the step of the opcode table that it is. What the self-check of each core finds is a free
value (R451, log 1). -/
def runAuto (s : State) : Auto → Host.Outcome State Fault Refusal
  | .config c i => execConfigAtHead c i s
  | .start c i => execSlabCommandStart c i s
  | .group c i => execSlabGroup c i s
  | .release c i => execAccumulatorRelease c i s
  | .topkEnd c i => execTopkEnd c i s
  | .ramp c => execRampWindow c s
  | .fetch c i => execRecordFetch c i s
  | .sector c i => execSectorIssue c i s
  | .land c i => execSectorLand c i s
  | .finish c i => execRecordFinish c i s
  | .offer c i => execFollowOnOffer c i s
  | .delta c => execDeltaPropagate c s
  | .select c => execSelectionRound c s
  | .scorer c e => execScorerPacketWrite c e s
  | .sig c e => execSigChange c e s
  | .stream d i => execStreamElement d i s
  | .gather d i => execGatherDelivery d i s
  | .scatter d i => execScatterWrite d i s
  | .isect d i => execIsectResult d i s
  | .steer k => execSteerNodeFire k s
  | .merge k => execMergeNodeFire k s
  | .conv k => execConversionNodeFire k s
  | .take q => execLaunchPacketTake q s
  | .age l => execAgingPreempt l s
  | .selfCheck => execSelfCheckDone (bit (Config.freeWord s.clock 33) 0) (bit (Config.freeWord s.clock 33) 1) s

/-- A move made: a step leaves the agenda and happens, an engine or the scheduler moves, or an agent issues. -/
def makeMove (s : State) : Move → Host.Outcome State Fault Refusal
  | .event i =>
    match s.agenda[i]? with
    | some e => exec e { s with agenda := s.agenda.eraseIdx i }
    | none => .next s
  | .auto a => runAuto s a
  | .issue a => issueStep (begin_ s a)

/-- ONE STEP: time passes, and one of the moves that can happen does; with none, the machine stays idle (R45). -/
def step (s : State) : Host.Outcome State Fault Refusal :=
  let s := tick s
  match pick s (moves s) with
  | none => .next s
  | some m => traced s m (makeMove s m)

/-! ### Placing an instruction (log 18) -/

/-- Whether only a controller executes the instruction (R414), and whether only a leaf does. -/
def placeFor : Instr → Agent
  | .sysrd _ => .global
  | .syswr _ => .global
  | .halt _ => .global
  | .idle _ => .global
  | .preempt _ => .global
  | .genbump _ => .global
  | .spflush _ => .global
  | .cfgpush _ => .leaf 0
  | _ => .task { core := 0, site := 0, slot := 0 }

/-- The agent for a word: the task, unless the word decodes to an instruction of a controller. -/
def placeForWord (w : W128) : Agent :=
  match decode w with
  | .ok i => placeFor i
  | .error _ => .task { core := 0, site := 0, slot := 0 }

/-- A core whose engines and leaf have nothing to do. -/
def Core.quiet (x : Core) : Core :=
  { x with slabs := Vector.replicate 4 Slab.init, accs := Vector.replicate 16 Acc.init, topks := Vector.replicate 16 TopK.init,
           chans := Vector.replicate 2 CopyChan.init, match_ := Match.init, rampCount := 0, rampStat := 0,
           leaf := { x.leaf with running := false } }

/-- The state in which nothing moves: no step to come, every engine at rest, no task and no controller running. -/
def quiet (s : State) : State :=
  { s with agenda := [], sites := [], launches := [], cores := s.cores.map fun (c, x) => (c, Core.quiet x),
           dies := s.dies.map fun (d, x) => (d, { x with streams := [], units := [] }),
           glob := { s.glob with ctl := { s.glob.ctl with running := false } }, dbg := { s.dbg with shutdown := false, checking := false } }

/-- The region of one site in which a placed task runs. -/
def probeRegion : Region :=
  { die := 0, x0 := 0, y0 := 0, w := 1, h := 1, leaf := 0, handle := 0, image := 0, args := 0, assigned := [], nodes := [], kinds := [], sitesIn := 1,
    nodesIn := 0, installed := true, dispatched := true, retired := false, producer := none, placed := true,
    imagePa := 0, sent := 0, onDie := none, stray := false, awaited := false }

/-- The state with one task, ready at word 0 of site 0 of core 0, whose store holds a word there; nothing else can issue. -/
def placeTask (s : State) (w : W128) : State :=
  let t := { Task.absent with slot := .ready, thread := Thread.start 0 }
  let x := { Site.gated with owner := some { launch := 1, region := 0, x := 0, y := 0 }, awake := true, installed := true,
                             istore := [(0, w)], tasks := [(0, t)] }
  { quiet s with sites := [(0, x)],
                 launches := [(1, { Launch.none with state := .running, w := 1, h := 1, regions := [probeRegion] })] }

/-- A controller that runs a word at word 0 of its store. -/
def Controller.running1 (x : Controller) (w : W128) : Controller :=
  { x with thread := Thread.start 0, istore := [(0, w)], running := true, idle := false }

/-- The state in which a controller is the only agent that can issue, with a word at word 0 of its store. -/
def placeController (s : State) (a : Agent) (w : W128) : State :=
  let s := quiet s
  match a with
  | .leaf c => setCore s c { coreOf s c with leaf := Controller.running1 (coreOf s c).leaf w }
  | _ => { s with glob := { s.glob with ctl := Controller.running1 s.glob.ctl w } }

/-- The state with an instruction where the next step fetches it: the word in the store of the agent that may execute it, which is the
only agent that can issue, with no other step to come. -/
def State.withFetchWord (s : State) (_nbits w : Nat) : State :=
  let w : W128 := BitVec.ofNat 128 w
  match placeForWord w with
  | .task _ => placeTask s w
  | a => placeController s a w

end Sys2Proof.Machine
end

