-- ==== Sys2Proof/Safety.lean ====
section
/-! DEFINITION. What counts as a safe run, and the words in which claims about the machine are stated: what an instruction may change,
what it leaves alone, and where its result is read. -/

namespace Sys2Proof.Machine

/-- Two agents that share no instruction stream. -/
def Agent.apart : Agent → Agent → Prop
  | .task k, .task k' => siteKeyNat (TaskKey.siteKey k') ≠ siteKeyNat (TaskKey.siteKey k) ∨ k'.slot ≠ k.slot
  | .leaf c, .leaf c' => c' ≠ c
  | .global, .global => False
  | _, _ => True

end Sys2Proof.Machine

namespace Sys2Proof.Safety

open Sys2Proof.Machine

/-! ### Outcomes -/

/-- The step answers a next state. -/
def goesOn (o : Host.Outcome State Fault Refusal) : Prop := ∃ t, o = .next t

/-- The canonical form of everything that is held as bytes at addresses: memory, and the local store of every site. -/
def memoryOk (s : State) : Prop := Memory.wf s.mem = true

/-! ### What an instruction leaves alone -/

/-- A core, its leaf's instruction stream apart. -/
def coreRest (x : Core) : Core := { x with leaf := { x.leaf with thread := Thread.start 0 } }

/-- The global block, the global core's instruction stream apart. -/
def globRest (g : Global) : Global := { g with ctl := { g.ctl with thread := Thread.start 0 } }

/-- A site, its tasks, input channels and output channels apart: its stores, its bindings and its configuration. -/
def siteRest (x : Site) : Site :=
  { x with tasks := [], chans := Vector.replicate 32 InChan.empty, outs := Vector.replicate 16 OutChan.empty }

/-- A task, its instruction stream and its record of the last token it consumed apart. -/
def taskRest (t : Task) : Task := { t with thread := Thread.start 0, lastChan := 32, lastArrive := 0 }

/-- Nothing outside the executing agent's instruction stream and its site's channels has changed: every byte of memory and of every local
store, every line's registration, every launch, core, die and other site, the stream of every other agent, and what is left of the
executing task. -/
structure Elsewhere (s t : State) : Prop where
  cur : t.cur = s.cur
  clock : t.clock = s.clock
  time : t.time = s.time
  memory : ∀ a, readByte t.mem a = readByte s.mem a
  badLines : t.badLines = s.badLines
  homes : t.homes = s.homes
  regOrder : t.regOrder = s.regOrder
  refusals : t.refusals = s.refusals
  reads : t.reads = s.reads
  nextReq : t.nextReq = s.nextReq
  dies : t.dies = s.dies
  launches : t.launches = s.launches
  dbg : t.dbg = s.dbg
  glob : globRest t.glob = globRest s.glob
  cores : ∀ c, coreRest (coreOf t c) = coreRest (coreOf s c)
  sites : ∀ k, siteRest (siteOf t k) = siteRest (siteOf s k)
  otherSites : ∀ k, (∀ k', curSite s = some k' → siteKeyNat k ≠ siteKeyNat k') → siteOf t k = siteOf s k
  otherTasks : ∀ k, Agent.apart s.cur (.task k) → taskOf t k = taskOf s k
  otherStreams : ∀ a, Agent.apart s.cur a → threadOf t a = threadOf s a
  task : ∀ k, s.cur = .task k → taskRest (taskOf t k) = taskRest (taskOf s k)

/-- One token is gone from each input channel that the fields name, and no other channel has changed (R96). -/
def Took (fs : List Field) (s t : State) : Prop :=
  ∀ c : Fin 32, chanOf t c = if (chansOf fs).contains c then (chanOf s c).drop 1 else chanOf s c

/-- No output channel but the destination's has changed. -/
def OutsBut (d : Dst) (s t : State) : Prop := ∀ o : Fin 16, d ≠ .o o → outOf t o = outOf s o

/-- No register but the destination's has changed, in its value or its full bit. -/
def RegsBut (d : Dst) (r r' : Regs) : Prop :=
  (∀ i : Fin 64, d ≠ .s i → r'.s.get i = r.s.get i) ∧ (∀ i : Fin 32, d ≠ .v i → r'.v.get i = r.v.get i) ∧
  (∀ i : Fin 8, d ≠ .p i → r'.p.get i = r.p.get i) ∧ (∀ i : Fin 8, d ≠ .q i → r'.q.get i = r.q.get i)

/-- The trap state, the Handler state, the call stack, EXITHIST, ROWPROG and the producers of a stream have not changed. -/
def SpecialKept (x y : Thread) : Prop :=
  y.trap = x.trap ∧ y.handler = x.handler ∧ y.callStack = x.callStack ∧ y.exitHist = x.exitHist ∧ y.rowProg = x.rowProg ∧
  y.producers = x.producers ∧ y.nextProducer = x.nextProducer

/-- The stream goes on at the next word of its block (R101). -/
def Advanced (x y : Thread) : Prop := y.pc = x.pc + 1 ∧ y.blockCount = x.blockCount + 1

/-- An ordinary instruction has retired: it has taken its source tokens, the stream goes on at the next word, and nothing but the
destination has changed. -/
structure Retires (s t : State) (fs : List Field) (d : Dst) : Prop where
  elsewhere : Elsewhere s t
  tokens : Took fs s t
  outs : OutsBut d s t
  regs : RegsBut d (thread s).regs (thread t).regs
  special : SpecialKept (thread s) (thread t)
  advanced : Advanced (thread s) (thread t)

/-- An instruction has retired with no effect (R97, R145). -/
def NoEffect (s t : State) : Prop := Retires s t [] .none ∧ t.agenda = s.agenda

/-! ### Where results are read -/

/-- A token has been put into the send buffer of an output channel, with the route's tag and a sequence tag, which NEXTSEQ then follows;
its arrival is a step to come (R124, R178). -/
def Sent (o : Fin 16) (fmt : Fmt) (pay : Payload) (tag : BitVec 12) (s t : State) : Prop :=
  (outOf t o).send = (outOf s o).send ++ [{ route := bits ((outOf s o).route.getD 0) 0 10, seq := tag, fmt := fmt, pay := pay }] ∧
  (outOf t o).route = (outOf s o).route ∧ (outOf t o).nextSeq = tag + 1 ∧
  ∃ k, curSite s = some k ∧ t.agenda = s.agenda ++ [.tokenArrival (.chan k o) false]

/-- A scalar result stands in its destination: a register, full; or a token of the given tag with the scalar as its lane; or nowhere. -/
def ScalarAt (d : Dst) (fmt : Fmt) (x : Scalar) (s t : State) : Prop :=
  match d with
  | .s i => (thread t).regs.s.get i = { val := x, full := true } ∧ t.agenda = s.agenda
  | .o i => Sent i fmt (.scalar (Scalar.toLane x)) (outOf s i).nextSeq s t
  | _ => t.agenda = s.agenda

/-- A predicate result stands in its destination: under the mask the value's bits, elsewhere the old ones (R162); p0 stays all ones (R97). -/
def PredAt (d : Dst) (mask value : W64) (s t : State) : Prop :=
  t.agenda = s.agenda ∧
  match d with
  | .p i => Regs.readP (thread t).regs i =
      if i = 0 then BitVec.allOnes 64 else (Regs.readP (thread s).regs i &&& ~~~mask) ||| (value &&& mask)
  | .q i => (thread t).regs.q.get i = { val := (Regs.readQ (thread s).regs i &&& ~~~mask) ||| (value &&& mask), full := true }
  | _ => True

/-- A vector result stands in its destination: in a register the written lanes, the others kept; in a token the written lanes, the others
null (R165). -/
def VectorAt (d : Dst) (fmt : Fmt) (written : W64) (ls : Vector Lane 64) (s t : State) : Prop :=
  match d with
  | .v i => ((thread t).regs.v.get i).full = true ∧ t.agenda = s.agenda ∧
      ∀ j : Fin 64, ((thread t).regs.v.get i).lanes.get j = if bit written j then ls.get j else ((thread s).regs.v.get i).lanes.get j
  | .o i => ∃ r : Vector Lane 64, (∀ j : Fin 64, r.get j = if bit written j then ls.get j else .null) ∧
      Sent i fmt (.vector r) (outOf s i).nextSeq s t
  | _ => t.agenda = s.agenda

/-! ### When an instruction executes -/

/-- The executing agent may execute the instruction, and its operands fit the agent (R107). -/
def Admitted (p : Places) (s : State) (o : Operands) : Prop := Places.ok p s.cur = true ∧ (onSite s = true ∨ Operands.ctlOk o = true)

/-- The fields' sources are full: registers that no producer is to fill, and channels that hold a token (R32, R121). -/
def Full (s : State) (fs : List Field) : Prop := ∀ f ∈ fs, emptyOn s f = none

/-- The destination can take a result: a register that is full, or an output channel with a route and room in its send buffer (R121, R124,
R178). -/
def Room (s : State) (d : Dst) : Prop :=
  match d with
  | .o i => (outOf s i).route.isSome = true ∧ (outOf s i).send.length < 2
  | d => Regs.dstFull (thread s).regs d = true

/-- Every source is full and the destination can take a result. -/
def Supplied (s : State) (o : Operands) : Prop := Full s [o.a, o.b, o.c] ∧ Room s o.dst

/-- Bit 0 of the instruction's predicate (R97). -/
def predicate (s : State) (o : Operands) : Bool := predHolds (thread s).regs (Mod.pred o.mod)

/-! ### Scalar instructions: what each computes -/

/-- A scalar instruction of a claim: its fields that it reads, and its value of their 64-bit patterns A, B and C. -/
structure ScalarClaim where
  instr : Instr
  srcs : List Field
  value : W64 → W64 → W64 → W64

/-- An exact integer clamped to the signed range of 64 bits where SAT is set, and modulo 2^64 otherwise (R158). -/
def signed64 (sat : Bool) (v : Int) : W64 :=
  if sat then BitVec.ofInt 64 (max (-(2 ^ 63)) (min (2 ^ 63 - 1) v)) else BitVec.ofInt 64 v

/-- The 26 instructions of major 0x01 that are no division, with what each computes (R158, R160). -/
def integerClaims (o : Operands) : List ScalarClaim :=
  let ab := [o.a, o.b]
  [{ instr := .add o, srcs := ab, value := fun a b _ => if Mod.sat o.mod then signed64 true (a.toInt + b.toInt) else a + b },
   { instr := .sub o, srcs := ab, value := fun a b _ => if Mod.sat o.mod then signed64 true (a.toInt - b.toInt) else a - b },
   { instr := .mul o, srcs := ab, value := fun a b _ => if Mod.sat o.mod then signed64 true (a.toInt * b.toInt) else a * b },
   { instr := .mulh o, srcs := ab, value := fun a b _ => bits (a.signExtend 128 * b.signExtend 128) 64 64 },
   { instr := .mulhu o, srcs := ab, value := fun a b _ => bits (a.setWidth 128 * b.setWidth 128) 64 64 },
   { instr := .and o, srcs := ab, value := fun a b _ => a &&& b },
   { instr := .or o, srcs := ab, value := fun a b _ => a ||| b },
   { instr := .xor o, srcs := ab, value := fun a b _ => a ^^^ b },
   { instr := .andn o, srcs := ab, value := fun a b _ => a &&& ~~~b },
   { instr := .shl o, srcs := ab, value := fun a b _ => BitVec.ofNat 64 (a.toNat * 2 ^ (b.toNat % 64)) },
   { instr := .shr o, srcs := ab, value := fun a b _ => BitVec.ofNat 64 (a.toNat / 2 ^ (b.toNat % 64)) },
   { instr := .sar o, srcs := ab, value := fun a b _ => BitVec.ofInt 64 (a.toInt / 2 ^ (b.toNat % 64)) },
   { instr := .rol o, srcs := ab, value := fun a b _ => (a <<< (b.toNat % 64)) ||| (a >>> (64 - b.toNat % 64)) },
   { instr := .clz o, srcs := [o.a], value := fun a _ _ => a.clz },
   { instr := .ctz o, srcs := [o.a], value := fun a _ _ =>
       BitVec.ofNat 64 ((List.range 64).takeWhile fun i => !bit a i).length },
   { instr := .popc o, srcs := [o.a], value := fun a _ _ => BitVec.ofNat 64 ((List.range 64).countP fun i => bit a i) },
   { instr := .min o, srcs := ab, value := fun a b _ => if a.toInt ≤ b.toInt then a else b },
   { instr := .max o, srcs := ab, value := fun a b _ => if a.toInt ≤ b.toInt then b else a },
   { instr := .minu o, srcs := ab, value := fun a b _ => if a.toNat ≤ b.toNat then a else b },
   { instr := .maxu o, srcs := ab, value := fun a b _ => if a.toNat ≤ b.toNat then b else a },
   { instr := .abs o, srcs := [o.a], value := fun a _ _ =>
       if Mod.sat o.mod && a == BitVec.intMin 64 then BitVec.intMax 64 else if a.toInt < 0 then -a else a },
   { instr := .sel o, srcs := [o.a, o.b, o.c], value := fun a b c => if bit c 0 then a else b },
   { instr := .mov o, srcs := [o.a], value := fun a _ _ => a },
   { instr := .bfx o, srcs := ab, value := fun a b _ =>
       let pos := b.toNat % 64
       BitVec.ofNat 64 (a.toNat / 2 ^ pos % 2 ^ min (b.toNat / 256 % 128) (64 - pos)) },
   { instr := .bfi o, srcs := [o.a, o.b, o.c], value := fun a b c =>
       let pos := c.toNat % 64
       let mask := BitVec.ofNat 64 ((2 ^ min (c.toNat / 256 % 128) (64 - pos) - 1) * 2 ^ pos)
       (a &&& ~~~mask) ||| ((b <<< pos) &&& mask) },
   { instr := .lea o, srcs := [o.a, o.b, o.c], value := fun a b c => a + b * BitVec.ofNat 64 (2 ^ (c.toNat % 8)) }]

/-- The four divisions, with what each computes of a divisor that is not zero (R159). -/
def divisionClaims (o : Operands) : List ScalarClaim :=
  let ab := [o.a, o.b]
  [{ instr := .div o, srcs := ab, value := fun a b _ => a.sdiv b },
   { instr := .divu o, srcs := ab, value := fun a b _ => a / b },
   { instr := .rem o, srcs := ab, value := fun a b _ => a.srem b },
   { instr := .remu o, srcs := ab, value := fun a b _ => a % b }]

/-- A field's value as a 64-bit pattern (R143). -/
def pattern (s : State) (f : Field) : W64 := Scalar.pattern (scalarOf s f)

/-- A scalar instruction has completed with its value in its destination, marked as its sources are (R144). -/
def Computes (x : ScalarClaim) (o : Operands) (s : State) : Prop :=
  ∃ t, exec x.instr s = .next t ∧ Retires s t [o.a, o.b, o.c] o.dst ∧
    ScalarAt o.dst .int32 (Scalar.combine (x.srcs.map (scalarOf s)) (x.value (pattern s o.a) (pattern s o.b) (pattern s o.c))) s t

/-- An instruction whose predicate is false has no effect (R97, R145). -/
def Skips (i : Instr) (s : State) : Prop := ∃ t, exec i s = .next t ∧ NoEffect s t

/-! ### Compares and predicate logic -/

/-- A condition between two 64-bit scalars: eq to ge signed, ltu to geu unsigned (R161). -/
def condTrue (c : Cond) (a b : W64) : Prop :=
  match c with
  | .eq => a = b
  | .ne => a ≠ b
  | .lt => a.toInt < b.toInt
  | .le => a.toInt ≤ b.toInt
  | .gt => b.toInt < a.toInt
  | .ge => b.toInt ≤ a.toInt
  | .ltu => a.toNat < b.toNat
  | .leu => a.toNat ≤ b.toNat
  | .gtu => b.toNat < a.toNat
  | .geu => b.toNat ≤ a.toNat

/-- The instructions of predicate logic with what each computes, bit by bit (R162). -/
def logicClaims (o : Operands) : List (Instr × (Bool → Bool → Bool)) :=
  [(.pand o, fun a b => a && b), (.por o, fun a b => a || b), (.pxor o, fun a b => a != b), (.pnot o, fun a _ => !a),
   (.pmov o, fun a _ => a)]

/-- The bits of a source of predicate logic: all zeros where it is not data (R162). -/
def logicBits (s : State) (f : Field) : W64 :=
  match scalarOf s f with
  | .data w => w
  | _ => 0

/-! ### Vector instructions -/

/-- The lanes that a vector instruction acts on: the bits of its predicate (R97). -/
def active (s : State) (o : Operands) : W64 := predBits (thread s).regs (Mod.pred o.mod)

/-- A data or control token at the head of the field's channel carries an accepted tag (R164). -/
def Tagged (s : State) (f : Field) (tags : List Fmt) : Prop :=
  ∀ c t, Field.chan f = some c → headToken s c = some t → (Token.kind t = 0 ∨ Token.kind t = 3) → t.fmt ∈ tags

/-- No active data lane of a field holds an abandoned pattern (R63, R166). -/
def NoneAbandoned (s : State) (f : Field) (mask : W64) : Prop :=
  ∀ (i : Fin 64) (w : W32), bit mask i = true → (vectorOf s f).get i = .data w → isAbandoned w = false

/-- A vector instruction of a claim: the fields it reads with their numbers, the tags that each accepts, whether it reads them as FP32
numbers, the tag of a result token, and the result of a lane from the lanes' patterns. -/
structure VectorClaim where
  instr : Instr
  fields : List (Nat × Field)
  tags : Nat → List Fmt
  fp32 : Bool
  out : Fmt
  lane : List W32 → W32

/-- The sources and the destination of a vector instruction are ready and pass its checks. -/
def VectorSupplied (s : State) (o : Operands) (fs : List (Nat × Field)) (tags : Nat → List Fmt) (fp32 : Bool) (mask : W64) : Prop :=
  (∀ f ∈ fs, emptyOn s f.2 = none ∧ Tagged s f.2 (tags f.1) ∧ (fp32 = true → NoneAbandoned s f.2 mask)) ∧ Room s o.dst

/-- The source lanes at one lane number. -/
def lanesAt (s : State) (fs : List (Nat × Field)) (i : Fin 64) : List Lane := fs.map fun f => (vectorOf s f.2).get i

/-- A function of the element values of the sources, in floating point with the type's rounding (R168) or on exact integers with SAT's
clamping (R169). -/
def arithClaim (ty : VType) (o : Operands) (i : Instr) (fs : List (Nat × Field)) (gf : List Val → Val) (gi : List Int → Int) : VectorClaim :=
  { instr := i, fields := fs, tags := fun _ => VType.tags ty, fp32 := ty == .f32, out := VType.fmt ty,
    lane := fun ws => if VType.isFp ty then fpLane ty (Mod.rounding o.mod) (fs.map (·.2)) gf ws
                      else intLane ty (Mod.sat o.mod) (fs.map (·.2)) gi ws }

/-- A function of whole lane patterns, which reads no numbers. -/
def wordClaim (ty : VType) (i : Instr) (fs : List (Nat × Field)) (g : List W32 → W32) : VectorClaim :=
  { instr := i, fields := fs, tags := fun _ => VType.tags ty, fp32 := false, out := VType.fmt ty, lane := g }

/-- The lane-by-lane vector instructions of one type, VCMP apart (R168, R169). -/
def vectorClaims (ty : VType) (o : Operands) : List VectorClaim :=
  let m := Mod.rounding o.mod
  let a := [(0, o.a)]
  let ab := [(0, o.a), (1, o.b)]
  let abc := [(0, o.a), (1, o.b), (2, o.c)]
  let v (l : List Val) (n : Nat) : Val := l[n]?.getD .nan
  let k (l : List Int) (n : Nat) : Int := l[n]?.getD 0
  let w (l : List W32) (n : Nat) : W32 := l[n]?.getD 0
  let shift (i : Instr) (g : (n : Nat) → BitVec n → Int → BitVec n) : VectorClaim := wordClaim ty i ab fun l => laneBy ty fun j =>
    (g (VType.width ty) (BitVec.ofInt (VType.width ty) (intElem ty o.a (w l 0) j)) (intElem ty o.b (w l 1) j)).setWidth 32
  [arithClaim ty o (.vadd ty o) ab (fun l => Val.add m (v l 0) (v l 1)) (fun l => k l 0 + k l 1),
   arithClaim ty o (.vsub ty o) ab (fun l => Val.add m (v l 0) (Val.neg (v l 1))) (fun l => k l 0 - k l 1),
   arithClaim ty o (.vmul ty o) ab (fun l => Val.mul (v l 0) (v l 1)) (fun l => k l 0 * k l 1),
   arithClaim ty o (.vfma ty o) abc (fun l => Val.add m (Val.mul (v l 0) (v l 1)) (v l 2)) (fun l => k l 0 * k l 1 + k l 2),
   arithClaim ty o (.vmin ty o) ab (fun l => Val.minV (v l 0) (v l 1)) (fun l => min (k l 0) (k l 1)),
   arithClaim ty o (.vmax ty o) ab (fun l => Val.maxV (v l 0) (v l 1)) (fun l => max (k l 0) (k l 1)),
   arithClaim ty o (.vabs ty o) a (fun l => Val.abs (v l 0)) (fun l => (k l 0).natAbs),
   arithClaim ty o (.vneg ty o) a (fun l => Val.neg (v l 0)) (fun l => -(k l 0)),
   arithClaim ty o (.vdiv ty o) ab (fun l => Val.div (v l 0) (v l 1)) (fun l => k l 0),
   arithClaim ty o (.vsqrt ty o) a (fun l => Val.sqrt (v l 0)) (fun l => k l 0),
   wordClaim ty (.vsel ty o) abc (fun l => if bit (w l 2) 0 then w l 0 else w l 1),
   { instr := .vdot4 ty o, fields := abc, tags := fun n => if n = 2 then [.int32, .idx] else [.int8], fp32 := false, out := .int32,
     lane := fun l => satOrWrap 32 (Mod.sat o.mod) ((w l 2).toInt +
       ((bits (w l 0) 0 8).toInt * (bits (w l 1) 0 8).toInt + (bits (w l 0) 8 8).toInt * (bits (w l 1) 8 8).toInt +
        (bits (w l 0) 16 8).toInt * (bits (w l 1) 16 8).toInt + (bits (w l 0) 24 8).toInt * (bits (w l 1) 24 8).toInt)) },
   shift (.vshl ty o) (fun n a d => if 0 ≤ d then BitVec.ofInt n (a.toInt * 2 ^ d.toNat) else BitVec.ofInt n (a.toInt / 2 ^ (-d).toNat)),
   shift (.vshr ty o) (fun n a d => if 0 ≤ d then BitVec.ofNat n (a.toNat / 2 ^ d.toNat) else BitVec.ofInt n (a.toInt * 2 ^ (-d).toNat)),
   wordClaim ty (.vand ty o) ab (fun l => w l 0 &&& w l 1),
   wordClaim ty (.vor ty o) ab (fun l => w l 0 ||| w l 1),
   wordClaim ty (.vxor ty o) ab (fun l => w l 0 ^^^ w l 1)]

/-! ### Moving lanes -/

/-- An instruction that moves lanes: which lanes it writes, and what each is. -/
structure MoveClaim where
  instr : Instr
  written : W64
  lane : Fin 64 → Lane

/-- The numbers of the lanes of a mask, rising. -/
def lanesOf (mask : W64) : List (Fin 64) := (List.finRange 64).filter fun i => bit mask i

/-- What VPFX gives an active lane: the code of the first error among the active lanes up to it; else null if it is null; else the number of
one bits in the active data lanes below it (R177). -/
def prefixCount (mask : W64) (a : Vector Lane 64) (i : Fin 64) : Lane :=
  let below := ((lanesOf mask).filter fun j => j < i).map a.get
  match Lane.firstErr (below ++ [a.get i]) with
  | some c => .err c
  | none => if Lane.isNull (a.get i) then .null
            else .data (BitVec.ofNat 32 ((below.filter Lane.isData).map fun l => (List.range 32).countP (bit (Lane.pattern l))).sum)

/-- The moves of major 0x25 whose result is a vector, without tag checks (R175, R177). -/
def moveClaims (s : State) (o : Operands) : List MoveClaim :=
  let mask := active s o
  let a := vectorOf s o.a
  let b := vectorOf s o.b
  let x := scalarOf s o.a
  let y := scalarOf s o.b
  let index : Option (Fin 64) := match y with
    | .data w => if h : w.toNat < 64 then some ⟨w.toNat, h⟩ else none
    | _ => none
  [{ instr := .vmov o, written := mask, lane := a.get },
   { instr := .vbcast o, written := mask, lane := fun _ => match index with | some k => a.get k | none => .err 6 },
   { instr := .vins o, written := match index with | some k => mask &&& BitVec.ofNat 64 (2 ^ k.val) | none => 0,
     lane := fun _ => Scalar.toLane x },
   { instr := .vshuf o, written := mask, lane := fun i => match b.get i with
       | .data w => if h : w.toNat < 64 then a.get ⟨w.toNat, h⟩ else .err 6
       | l => l },
   { instr := .vcomp o, written := BitVec.allOnes 64, lane := fun i => match (lanesOf mask)[i.val]? with
       | some j => a.get j
       | none => .null },
   { instr := .vexp o, written := mask, lane := fun i =>
       a.get ⟨((lanesOf mask).filter fun j => j < i).length % 64, Nat.mod_lt _ (by decide)⟩ },
   { instr := .viota o, written := mask, lane := fun i =>
       Lane.combine [Scalar.toLane x, Scalar.toLane y]
         (.data (BitVec.ofNat 32 ((Scalar.pattern x).toNat + i.val * (Scalar.pattern y).toNat))) },
   { instr := .vpopc o, written := mask, lane := fun i =>
       Lane.combine [a.get i] (.data (BitVec.ofNat 32 ((List.range 32).countP (bit (Lane.pattern (a.get i)))))) },
   { instr := .vpfx o, written := mask, lane := prefixCount mask a }]

/-- The sources and destination of a reduction or scan of field A in the type of its control word are ready and pass its checks (R164, R166,
R173). -/
def ReduceSupplied (s : State) (o : Operands) : Prop :=
  VectorSupplied s o [(0, o.a)] (fun _ => [ctlType (Field.control o.c)]) (ctlType (Field.control o.c) == .fp32) (active s o)

/-! ### Long-latency producers -/

/-- An instruction has started a producer and retired (R121): its destination register is empty with its old value, the producer waits for
its completion, and nothing else has changed. -/
structure Starts (s t : State) (fs : List Field) (d : Dst) (p : ProducerState) (acq : Option Scope) : Prop where
  elsewhere : Elsewhere s t
  tokens : Took fs s t
  outs : ∀ o, outOf t o = outOf s o
  regs : (thread t).regs = Regs.markEmpty (thread s).regs d
  producers : (thread t).producers = (thread s).producers ++ [{ id := (thread s).nextProducer, state := p, acq := acq, held := false }]
  nextProducer : (thread t).nextProducer = (thread s).nextProducer + 1
  trap : (thread t).trap = (thread s).trap
  handler : (thread t).handler = (thread s).handler
  callStack : (thread t).callStack = (thread s).callStack
  exitHist : (thread t).exitHist = (thread s).exitHist
  rowProg : (thread t).rowProg = (thread s).rowProg
  advanced : Advanced (thread s) (thread t)
  agenda : t.agenda = s.agenda ++ [.producerComplete s.cur (thread s).nextProducer]

/-! ### Exits -/

/-- An instruction has left its block for a word of the store (R100, R101): a new block begins there, its source tokens are taken, and
EXITHIST and the call stack are as given. -/
structure Leaves (s t : State) (fs : List Field) (pc : Nat) (hist : BitVec 30) (calls : List Nat) : Prop where
  elsewhere : Elsewhere s t
  tokens : Took fs s t
  outs : ∀ o, outOf t o = outOf s o
  agenda : t.agenda = s.agenda
  regs : (thread t).regs = (thread s).regs
  pc : (thread t).pc = pc
  blockCount : (thread t).blockCount = 0
  exitHist : (thread t).exitHist = hist
  callStack : (thread t).callStack = calls
  trap : (thread t).trap = (thread s).trap
  handler : (thread t).handler = (thread s).handler
  rowProg : (thread t).rowProg = (thread s).rowProg
  producers : (thread t).producers = (thread s).producers ∧ (thread t).nextProducer = (thread s).nextProducer

/-- Exit `j`'s target: the executing word's index plus the signed entry `j` of the table in the words that follow it, four to a word
(R102). -/
def exitTo (s : State) (j : Nat) : Int :=
  (thread s).pc + (bits (wordAt s s.cur ((thread s).pc + 1 + j / 4)) (32 * (j % 4)) 32).toInt

/-- The exit table of `n` exits is well formed (R102): its words lie in the store and in the block's 256 words, every target lies in the store, and
entries beyond the exits are zero. -/
def TableOk (s : State) (n : Nat) : Prop :=
  let words := (n + 3) / 4
  (thread s).pc + words < storeWords s.cur ∧ (thread s).blockCount + 1 + words ≤ 256 ∧
  (∀ j, j < n → 0 ≤ exitTo s j ∧ exitTo s j < storeWords s.cur) ∧
  (∀ j, n ≤ j → j < 4 * words → bits (wordAt s s.cur ((thread s).pc + 1 + j / 4)) (32 * (j % 4)) 32 = 0)

/-- The exit that XSEL takes: that of the first source, in field order, whose bit 0 is set while every source before it is data; where a source
is not data, or none is set, the last exit (R150). -/
def selExit : List Scalar → Nat → Nat → Nat
  | [], _, last => last
  | .data w :: r, j, last => if bit w 0 then j else selExit r (j + 1) last
  | .null :: _, _, last => last
  | .err _ :: _, _, last => last

/-! ### Memory instructions: when they issue -/

/-- Accesses of an ordering may be performed (R204, R220, R243, R245): no acquire of the agent is outstanding, nor one in its side log; where the
access releases, the task's earlier accesses are performed and known to their homes as the scope asks; and where it acquires at a scope that reaches
hosts or other packages, its earlier accesses there are acknowledged. -/
def GateOpen (s : State) (ord : MemOrder) (scope : Scope) : Prop :=
  (∀ p ∈ (thread s).producers, p.acq = none) ∧ ∀ k, s.cur = .task k →
    (∀ e ∈ (coreOf s k.core).sideLog, e.task = refOr s k → MemOrder.acquires e.ord = false) ∧
    (MemOrder.releases ord = true → released s k scope = true) ∧
    (MemOrder.acquires ord = true → MemOrder.releases ord = false → Scope.far scope = true → farAcked s k = true)

/-- The task has fewer than 16 loads, atomics, bank operations and barrier queries outstanding (R244). -/
def MayIssue (s : State) : Prop := ((thread s).producers.filter fun p => ProducerState.counted p.state).length < 16

/-- A memory instruction with a scalar address issues (R97, R215, R216): it may execute here, bit 0 of the predicate that its field A names is
set, its sources and destination are ready, and its ordering holds nothing up. -/
structure MemIssues (p : Places) (o : Operands) (s : State) : Prop where
  admitted : Admitted p s o
  predicate : predHolds (thread s).regs (Field.pred o.a) = true
  supplied : Supplied s o
  gate : GateOpen s (Mod.order o.mod) (Mod.scope o.mod)

/-- A producer has started in a stream and the stream goes on (R121). -/
structure Issued (x y : Thread) (d : Dst) (p : ProducerState) (acq : Option Scope) : Prop where
  regs : y.regs = Regs.markEmpty x.regs d
  producers : y.producers = x.producers ++ [{ id := x.nextProducer, state := p, acq := acq, held := false }]
  nextProducer : y.nextProducer = x.nextProducer + 1
  trap : y.trap = x.trap
  handler : y.handler = x.handler
  callStack : y.callStack = x.callStack
  exitHist : y.exitHist = x.exitHist
  rowProg : y.rowProg = x.rowProg
  advanced : Advanced x y

/-- A scalar value is on its way to a destination: a producer of a kind fills it when it completes, or it goes nowhere (R90, R121, R221). -/
def DeliversBy (kind : Fill → ProducerState) (d : Dst) (x : Scalar) (s t : State) : Prop :=
  match d with
  | .s i => Issued (thread s) (thread t) (.s i) (kind (.scalar i x)) none
  | _ => (thread t).regs = (thread s).regs ∧ SpecialKept (thread s) (thread t) ∧ Advanced (thread s) (thread t)

/-- A result of an instruction that is no access is on its way. -/
def Delivers : Dst → Scalar → State → State → Prop := DeliversBy .ready

/-- The result of a load, an atomic, a bank operation or a barrier query is on its way: it counts among the 16 outstanding until it completes
(R244). -/
def Fetches : Dst → Scalar → State → State → Prop := DeliversBy .performed

/-- A scalar has been written to a destination at once. -/
def Written (d : Dst) (x : Scalar) (s t : State) : Prop :=
  (match d with
   | .s i => (thread t).regs = Regs.writeS (thread s).regs i x
   | _ => (thread t).regs = (thread s).regs) ∧ SpecialKept (thread s) (thread t) ∧ Advanced (thread s) (thread t)

/-- The stream has gone on, and nothing of it but its place has changed. -/
def JustAdvances (s t : State) : Prop :=
  (thread t).regs = (thread s).regs ∧ SpecialKept (thread s) (thread t) ∧ Advanced (thread s) (thread t)

/-! ### What memory instructions leave alone -/

/-- A core, the lines of its L1, its reads under way, whose later releases its registrations and side-log entries hold up (R249), and its leaf's
stream apart. -/
def coreBesidesL1 (x : Core) : Core :=
  { x with l1 := [], readsOut := [], readsStale := [], regsOut := x.regsOut.map fun o => { o with who := [] },
           sideLog := x.sideLog.map fun e => { e with also := [] }, leaf := { x.leaf with thread := Thread.start 0 } }

/-- A die, its hotness counters, its cache of remote granules and its last request over the fabric apart. -/
def dieBesidesCounters (d : Die) : Die := { d with hot := [], remoteCache := [], sent := none }

/-- The words that an L1 owns, and the bytes of the lines that hold them, have not changed. -/
def OwnedKept (x y : Core) : Prop :=
  (∀ p ∈ x.l1, p.2.owned ≠ 0 → ∃ q ∈ y.l1, q.1 = p.1 ∧ q.2.owned = p.2.owned ∧ q.2.dirty = p.2.dirty ∧ q.2.valid = p.2.valid ∧
    q.2.content = p.2.content) ∧
  (∀ q ∈ y.l1, q.2.owned ≠ 0 → ∃ p ∈ x.l1, p.1 = q.1 ∧ p.2.owned = q.2.owned)

/-- A core, the lines of its L1, its registrations, reads and write-backs under way, its side log and its leaf's stream apart. -/
def coreBesidesStores (x : Core) : Core :=
  { coreBesidesL1 x with regsOut := [], wbOut := [], sideLog := [], nextLog := 0 }

/-- A memory instruction of the executing agent has changed no byte of memory or of any store, no line's registration, no other agent's stream,
no other site, no launch, no output channel, and no core and no die beyond what the view `cv` and the hotness counters leave out; of the
executing stream it has changed at most the destination register, its producers and its place; and it has taken its source tokens (R96, R121,
R215). -/
structure MemFrame (cv : Core → Core) (s t : State) (fs : List Field) (d : Dst) : Prop where
  cur : t.cur = s.cur
  clock : t.clock = s.clock
  time : t.time = s.time
  memory : ∀ a, readByte t.mem a = readByte s.mem a
  badLines : t.badLines = s.badLines
  homes : t.homes = s.homes
  regOrder : t.regOrder = s.regOrder
  refusals : t.refusals = s.refusals
  reads : t.reads = s.reads
  nextReq : t.nextReq = s.nextReq
  launches : t.launches = s.launches
  dbg : t.dbg = s.dbg
  glob : globRest t.glob = globRest s.glob
  dies : ∀ d, dieBesidesCounters (dieOf t d) = dieBesidesCounters (dieOf s d)
  cores : ∀ c, cv (coreOf t c) = cv (coreOf s c)
  sites : ∀ k, siteRest (siteOf t k) = siteRest (siteOf s k)
  otherSites : ∀ k, (∀ k', curSite s = some k' → siteKeyNat k ≠ siteKeyNat k') → siteOf t k = siteOf s k
  otherTasks : ∀ k, Agent.apart s.cur (.task k) → taskOf t k = taskOf s k
  otherStreams : ∀ a, Agent.apart s.cur a → threadOf t a = threadOf s a
  task : ∀ k, s.cur = .task k → taskRest (taskOf t k) = taskRest (taskOf s k)
  outs : ∀ o, outOf t o = outOf s o
  tokens : Took fs s t
  regs : RegsBut d (thread s).regs (thread t).regs
  trap : (thread t).trap = (thread s).trap
  handler : (thread t).handler = (thread s).handler
  callStack : (thread t).callStack = (thread s).callStack
  exitHist : (thread t).exitHist = (thread s).exitHist
  rowProg : (thread t).rowProg = (thread s).rowProg

/-- What a load leaves alone: as any memory instruction, and no owned word of any L1 has changed. -/
def LoadFrame (s t : State) (fs : List Field) (d : Dst) : Prop :=
  MemFrame coreBesidesL1 s t fs d ∧ ∀ c, OwnedKept (coreOf s c) (coreOf t c)

/-- An address in a host or fabric window that nothing serves for the executing agent's die (R420). -/
def Unreachable (s : State) (pa : Nat) : Prop := physKind pa = .far ∧ farTarget s (curDie s) pa = .unreachable

/-- A destination that a scalar load or an update may name (R90). -/
def ScalarDst (d : Dst) : Prop := (∃ i, d = .s i) ∨ d = .none

/-- The scalar loads, with their width in bytes and whether they extend the sign (R222). -/
def scalarLoads (o : Operands) : List (Instr × Nat × Bool) :=
  [(.ldb o, 1, true), (.ldbu o, 1, false), (.ldh o, 2, true), (.ldhu o, 2, false), (.ldw o, 4, true), (.ldwu o, 4, false),
   (.ldd o, 8, false)]

/-- The value that a load gives of its bytes: the little-endian number, its sign extended or not (R1, R222). -/
def extended (signed : Bool) (bs : List Byte) : W64 :=
  if signed && decide (2 ^ (8 * bs.length) ≤ 2 * leNat bs) then BitVec.ofInt 64 (leNat bs - 2 ^ (8 * bs.length)) else BitVec.ofNat 64 (leNat bs)

/-- The scalar stores, with their width in bytes (R222). -/
def scalarStores (o : Operands) : List (Instr × Nat) := [(.stb o, 1), (.sth o, 2), (.stw o, 4), (.std o, 8)]

/-- The little-endian bytes of a value (R1). -/
def storedBytes (n : Nat) (w : W64) : List Byte := (List.range n).map fun i => bits w (8 * i) 8

/-- The address of each lane of a vector memory instruction that it accesses (R223): a + b + 4i, a + b × i, or a + the lane's index where it is
data. -/
inductive LaneForm where
  | contig | stride | index
  deriving DecidableEq, Repr

/-- The active lanes that access memory, with their addresses, for base `a`, second scalar `b` and index lanes (R223). -/
def laneAddresses (f : LaneForm) (mask : W64) (a b : W64) (idx : Vector Lane 64) : List (Nat × W64) :=
  (lanesOf mask).filterMap fun i =>
    match f with
    | .contig => some (i.val, a + b + BitVec.ofNat 64 (4 * i.val))
    | .stride => some (i.val, a + BitVec.ofNat 64 i.val * b)
    | .index => match idx.get i with
      | .data w => some (i.val, a + w.setWidth 64)
      | _ => none

/-- A vector memory instruction with its addresses issues: some lane is active, and its sources, destination and ordering are ready. -/
structure LanesIssue (o : Operands) (s : State) : Prop where
  admitted : Admitted Places.sites s o
  mask : predBits (thread s).regs (Field.pred o.a) ≠ 0
  supplied : Supplied s o
  gate : GateOpen s (Mod.order o.mod) (Mod.scope o.mod)

/-- The vector loads and stores with the form of their addresses (R223). -/
def vectorLoads (o : Operands) : List (Instr × LaneForm) := [(.ldv o, .contig), (.ldvs o, .stride), (.ldvx o, .index)]
/-- The vector stores. -/
def vectorStores (o : Operands) : List (Instr × LaneForm) := [(.stv o, .contig), (.stvs o, .stride), (.stvx o, .index)]

/-- The scalars and index lanes of a vector memory instruction: a is data; b is data in the contiguous and the strided form, and in the indexed one
the index lanes stand in field B (R216, R223). -/
def LaneSources (s : State) (o : Operands) (f : LaneForm) (a b : W64) (idx : Vector Lane 64) : Prop :=
  scalarOf s o.a = .data a ∧
  match f with
  | .index => indexVector s o.b = .ok idx ∧ b = 0
  | _ => scalarOf s o.b = .data b

/-- The addresses are aligned, the base is canonical, and the whole of a contiguous access from its lowest to its highest active lane lies where an
extent serves it (R139, R217, R218). -/
def LanesLegal (s : State) (f : LaneForm) (mask a b : W64) (idx : Vector Lane 64) (rd wr : Bool) : Prop :=
  (∀ x ∈ laneAddresses f mask a b idx, x.2.toNat % 4 = 0) ∧ canonical (if f = .contig then a + b else a) = true ∧
  (f = .contig → ∀ x, contigSpan (a + b) mask = some x → ∃ g, translate s x.1 x.2 rd wr = .ok g)

/-- The mark that an active lane of an indexed load takes from an index that is no data (R223), else the lane's old value. -/
def markedOld (f : LaneForm) (mask : W64) (idx old : Vector Lane 64) (j : Fin 64) : Lane :=
  if f = .index ∧ bit mask j = true ∧ Lane.isData (idx.get j) = false then idx.get j else old.get j

/-- The last of the pieces that covers a byte of the local store gives that byte; each piece is an offset with its bytes. -/
def lastWrite (ps : List (Nat × List Byte)) (a : Nat) : Option Byte :=
  (ps.reverse.find? fun p => decide (p.1 ≤ a) && decide (a < p.1 + p.2.length)).map fun p => (p.2)[a - p.1]?.getD 0

/-- The executing agent's local store or data memory as bytes at addresses. -/
def localMem (s : State) : Memory :=
  match s.cur with
  | .task k => (siteOf s (TaskKey.siteKey k)).localStore
  | .leaf c => (coreOf s c).leaf.dataMem
  | .global => s.glob.ctl.dataMem

/-- What a store through its core's L1 does to the line that it writes (R189, R196): the bytes are in and dirty, the words that the core did not own are
owned and no longer clean copies, and what was valid stays so. -/
def LineStored (x y : L1Line) (off : Nat) (bs : List Byte) : Prop :=
  (∀ j, j < 128 → lineByte y.content j = if off ≤ j ∧ j < off + bs.length then (bs)[j - off]?.getD 0 else lineByte x.content j) ∧
  (∀ j, j < 128 → bit y.dirty j = (decide (off ≤ j ∧ j < off + bs.length) || bit x.dirty j)) ∧
  y.valid = x.valid ∧ y.owned = x.owned ||| wordsOf off bs.length ∧ y.clean = x.clean &&& ~~~(wordsOf off bs.length &&& ~~~x.owned)

/-- A task's store of the words `mask` of a line registers the new ones among them, with their REG on the way to the home, and waits as well for the
registrations that other stores have under way for the others (R196, R204). -/
def Registers (s t : State) (c line : Nat) (task : TaskRef) (mask new : W32) : Prop :=
  let joined := (coreOf s c).regsOut.map fun o =>
    if o.line = line ∧ o.mask &&& mask ≠ 0 ∧ .task task ∉ o.who then { o with who := o.who ++ [.task task] } else o
  (new = 0 → (coreOf t c).regsOut = joined) ∧
  (new ≠ 0 → (coreOf t c).regsOut = joined ++ [{ who := [.task task], line := line, mask := new, lost := false }] ∧
    .reg c line new ∈ t.agenda)

/-! ### Atomics, bank operations and sync instructions -/

/-- The stream of every other agent stays as it is. -/
def OthersKept (s t : State) : Prop := ∀ a, Agent.apart s.cur a → threadOf t a = threadOf s a

/-- An update of a claim: whether it is a bank operation, the width of its word in bytes, whether it reads its data as FP32 numbers, its address
and comparand, and the new value of the word from its old value m, the comparand b and the data c (R226, R228). -/
structure UpdateClaim where
  instr : Instr
  bank : Bool
  bytes : Nat
  fp : Bool
  new : W64 → W64 → W64 → W64

/-- The atomics whose address is a + b (R226), and the bank operations (R228). -/
def updateClaims (o : Operands) : List UpdateClaim :=
  let f (a b : W32) : W64 := (roundF32 .rne (Val.add .rne (f32Val a) (f32Val b))).setWidth 64
  let lo (x : W64) : W32 := bits x 0 32
  [{ instr := .amoadd o, bank := false, bytes := 8, fp := false, new := fun m _ c => m + c },
   { instr := .amoaddf o, bank := false, bytes := 4, fp := true, new := fun m _ c => f (lo m) (lo c) },
   { instr := .amomin o, bank := false, bytes := 8, fp := false, new := fun m _ c => if m.toInt ≤ c.toInt then m else c },
   { instr := .amomax o, bank := false, bytes := 8, fp := false, new := fun m _ c => if m.toInt ≤ c.toInt then c else m },
   { instr := .amominu o, bank := false, bytes := 8, fp := false, new := fun m _ c => if m.toNat ≤ c.toNat then m else c },
   { instr := .amomaxu o, bank := false, bytes := 8, fp := false, new := fun m _ c => if m.toNat ≤ c.toNat then c else m },
   { instr := .amoand o, bank := false, bytes := 8, fp := false, new := fun m _ c => m &&& c },
   { instr := .amoor o, bank := false, bytes := 8, fp := false, new := fun m _ c => m ||| c },
   { instr := .amoxor o, bank := false, bytes := 8, fp := false, new := fun m _ c => m ^^^ c },
   { instr := .amoswap o, bank := false, bytes := 8, fp := false, new := fun _ _ c => c },
   { instr := .amocas o, bank := false, bytes := 8, fp := false, new := fun m b c => if m = b then c else m },
   { instr := .bkadd o, bank := true, bytes := 8, fp := false, new := fun m _ c => m + c },
   { instr := .bkaddf o, bank := true, bytes := 4, fp := true, new := fun m _ c => f (lo m) (lo c) },
   { instr := .bkmax o, bank := true, bytes := 8, fp := false, new := fun m _ c => if m.toInt ≤ c.toInt then c else m },
   { instr := .bkaxpy o, bank := true, bytes := 4, fp := true, new := fun m _ c =>
       (roundF32 .rne (Val.add .rne (Val.mul (f32Val (bits c 32 32)) (f32Val (lo c))) (f32Val (lo m)))).setWidth 64 },
   { instr := .bkcnt o, bank := true, bytes := 4, fp := false, new := fun m _ c =>
       BitVec.ofNat 64 (min ((lo m).toNat + (lo c).toNat) (2 ^ 32 - 1)) }]

/-- The address and the comparand of an update: AMOCAS takes its address from A alone and compares with B; the others add B to A (R226). -/
def UpdateSources (s : State) (o : Operands) (x : UpdateClaim) (ea cmp : W64) : Prop :=
  ∃ a, scalarOf s o.a = .data a ∧
    if x.instr = .amocas o then ea = a ∧ cmp = pattern s o.b else ∃ b, scalarOf s o.b = .data b ∧ ea = a + b ∧ cmp = 0

/-- The data of an update holds an abandoned pattern where it is read as FP32 numbers: its low word, and the high word too of BKAXPY (R226,
R228). -/
def DataAbandoned (x : UpdateClaim) (o : Operands) (c : Scalar) : Prop :=
  ∃ w, c = .data w ∧ x.fp = true ∧ (isAbandoned (bits w 0 32) = true ∨ (x.instr = .bkaxpy o ∧ isAbandoned (bits w 32 32) = true))

/-- Memory has changed in just the `bs.length` bytes from `pa`, which now are `bs`. -/
def MemoryWritten (s t : State) (pa : Nat) (bs : List Byte) : Prop :=
  ∀ j, readByte t.mem j = if pa ≤ j ∧ j < pa + bs.length then (bs)[j - pa]?.getD 0 else readByte s.mem j

/-- A sync or cache instruction issues: it may execute here, its predicate holds, its operands are ready, and no acquire holds it. -/
structure SyncIssues (o : Operands) (s : State) : Prop where
  admitted : Admitted Places.all s o
  predicate : predHolds (thread s).regs (Field.pred o.a) = true
  supplied : Supplied s o
  gate : GateOpen s .rlx .task

/-- What the executing agent reads in `n` bytes shows it no uncorrectable error of the memory: there is none, or it is no launch (R451, log 140). -/
def Sound (s : State) (pa n : Nat) : Prop := badIn s pa n = false ∨ curLaunch s = none

/-- A sync word whose address is `a` lies at `pa` in memory that its home can serve now, and no earlier access of the task to it is under way. -/
structure SyncWord (s : State) (a : W64) (pa : Nat) : Prop where
  place : syncPa s a = .ok pa
  near : physKind pa ≠ .far ∧ ∀ d i, physKind pa ≠ .bank d i
  free : homeBusy s pa 16 = false
  ordered : homeOrdered s a pa 16 = .ok ()
  sound : Sound s pa 16

/-- An L1 has given up every clean copy (R203, R234). -/
def NoCleanCopies (x : Core) : Prop := ∀ p ∈ x.l1, p.2.clean = 0

/-- What an instruction on an L1's clean copies leaves alone: as a load, and every register. -/
def CopiesFrame (s t : State) (fs : List Field) : Prop := LoadFrame s t fs .none ∧ JustAdvances s t

/-! ### Barrier groups -/

/-- A barrier instruction issues for task `r` on group `g` of its launch (R238, R243). -/
structure BarrierIssues (o : Operands) (s : State) (r : TaskRef) (g : GroupKey) : Prop where
  admitted : Admitted Places.sites s o
  predicate : predHolds (thread s).regs (Field.pred o.a) = true
  supplied : Supplied s o
  gate : GateOpen s (Mod.order o.mod) (Mod.scope o.mod)
  task : ∃ k, s.cur = .task k ∧ refOf s k = some r
  group : groupKey s r (scalarOf s o.a) = .ok g

/-- No group of any launch has changed but group `g` of launch `l`, and nothing else of any launch. -/
def OnlyGroup (l : Nat) (g : GroupKey) (s t : State) : Prop :=
  (∀ l', l' ≠ l → launchOf t l' = launchOf s l') ∧ (∀ g', g' ≠ g → groupOf t l g' = groupOf s l g') ∧
  { launchOf t l with groups := [], gangGroups := [] } = { launchOf s l with groups := [], gangGroups := [] }

/-- A member has arrived (R239, R240): where every live member now has, the generation completes, its number goes up by one modulo 2^32, and no arrival
is left; otherwise the arrival is recorded. -/
def Arrived (g g' : Group) (r : TaskRef) : Prop :=
  if g.members.all (fun m => m == r || g.arrived.contains m) then g'.gen = g.gen + 1 ∧ g'.arrived = [] ∧ g'.pending = []
  else g'.gen = g.gen ∧ g'.arrived = g.arrived ++ [r] ∧ g'.members = g.members ∧ g'.pending = g.pending

/-! ### Engine commands -/

/-- A core, its engines, its job cards and its leaf's stream apart. -/
def coreBesidesEngines (x : Core) : Core :=
  { coreRest x with slabs := Vector.replicate 4 Slab.init, accs := Vector.replicate 16 Acc.init, topks := Vector.replicate 16 TopK.init,
                    chans := Vector.replicate 2 CopyChan.init, match_ := Match.init, cards := [], nextCard := 0 }

/-- No slab, accumulator or top-k node, copy channel or match engine but node `n` has changed. -/
structure OnlyEngine (n : NodeRef) (s t : State) : Prop where
  slabs : ∀ c i, ¬ (n.kind = .slab ∧ n.home = c ∧ n.idx = i) → slabOf t c i = slabOf s c i
  accs : ∀ c i, ¬ (n.kind = .acc ∧ n.home = c ∧ n.idx = i) → accOf t c i = accOf s c i
  topks : ∀ c i, ¬ (n.kind = .topk ∧ n.home = c ∧ n.idx = i) → topkOf t c i = topkOf s c i
  chans : ∀ c i, ¬ (n.kind = .copych ∧ n.home = c ∧ n.idx = i) → copyOf t c i = copyOf s c i
  matches_ : ∀ c, ¬ (n.kind = .match_ ∧ n.home = c) → (coreOf t c).match_ = (coreOf s c).match_

/-- What an engine command leaves alone: memory, every other stream and site, and every engine but its own (R314). -/
structure EngineFrame (n : NodeRef) (s t : State) (d : Dst) : Prop where
  frame : MemFrame coreBesidesEngines s t [] d
  only : OnlyEngine n s t

/-- An engine-command instruction of task `k` issues: it may execute here, the predicate that its field A names holds, and its sources and
destination are ready (R145, R314). -/
structure EngineIssues (o : Operands) (s : State) (k : TaskKey) : Prop where
  admitted : Admitted Places.sites s o
  predicate : predHolds (thread s).regs (Field.pred o.a) = true
  supplied : Supplied s o
  cur : s.cur = .task k

/-- A source names a node of the region, of one of some kinds (R116, R312). -/
def Names (s : State) (k : TaskKey) (f : Field) (ks : List NodeKind) (n : NodeRef) : Prop :=
  ∃ id, scalarOf s f = .data id ∧ id.toNat < 16 ∧ nodeAt s (refOr s k) id.toNat = some n ∧ n.kind ∈ ks

/-- A source names no node of the region of those kinds, or is no data. -/
def NamesNone (s : State) (k : TaskKey) (f : Field) (ks : List NodeKind) : Prop := ∀ n, ¬ Names s k f ks n

/-- The stream of a command that an engine has accepted: it has gone on, and its destination, if it names one, is empty until the engine
answers (R121, R316). -/
def Accepted (d : Dst) (s t : State) : Prop :=
  match d with
  | .none => JustAdvances s t
  | d => Issued (thread s) (thread t) d (.engine d) none

/-- A descriptor (R80, R318, R320): lanes 0 to 15 are data, and the rest hold zero, as a null does. -/
def DescriptorIs (v : Vector Lane 64) (d : List W32) : Prop :=
  d.length = 16 ∧ (∀ (i : Fin 64) w, d[i.val]? = some w → v.get i = .data w) ∧
    ∀ i : Fin 64, 16 ≤ i.val → v.get i = .data 0 ∨ v.get i = .null

/-- The head token of a field's channel, whatever its kind, carries an accepted tag (R328). -/
def StrictlyTagged (s : State) (f : Field) (tags : List Fmt) : Prop :=
  ∀ c t, Field.chan f = some c → headToken s c = some t → t.fmt ∈ tags

/-- A candidate lane of VTOPK (R330): active, its value neither NaN nor abandoned, its column data. -/
def RankedLane (mask : W64) (a b : Vector Lane 64) (i : Fin 64) (x y : W32) : Prop :=
  bit mask i = true ∧ a.get i = .data x ∧ b.get i = .data y ∧ (f32Val x).isNan = false ∧ isAbandoned x = false

/-- A lane ranks before another: the greater value, with −0 equal to +0; then the lower column; then the lower lane (R330). -/
def RanksBefore (a b : Vector Lane 64) (i j : Fin 64) : Prop :=
  ∃ x y u v, a.get i = .data x ∧ a.get j = .data y ∧ b.get i = .data u ∧ b.get j = .data v ∧
    (Val.holds .gt (f32Val x) (f32Val y) = true ∨ (Val.holds .eq (f32Val x) (f32Val y) = true ∧ (u < v ∨ (u = v ∧ i < j))))

/-- The width of the monitor: RU(Rem + RU(Gr × 2^−22 × RU(|P| + Rem))) (R303, R331). -/
def monitorWidth (gr : Nat) (p rem : W32) : W32 :=
  let ru (v : Val) : W32 := roundF32 .rup v
  let v := f32Val (ru (Val.add .rup (Val.abs (f32Val p)) (f32Val rem)))
  ru (Val.add .rup (f32Val rem) (f32Val (ru (Val.mul (.fin false gr (-22)) v))))

/-! ### Traps -/

/-- The trap state written by a trap at the executing word (R140): its cause with FIELD and DETAIL, the word's index, the word where there is one,
and the block-word count; the registers, the call stack, EXITHIST and ROWPROG are as they were. -/
structure TrapSaved (s : State) (y : Thread) (c : Cause) (fld detail : Nat) : Prop where
  code : field y.trap.cause 0 8 = Cause.code c
  fld : field y.trap.cause 8 8 = fld
  detail : field y.trap.cause 16 16 = detail
  addr : y.trap.addr = (thread s).pc
  word : (thread s).pc < storeWords s.cur → y.trap.word = wordAt s s.cur (thread s).pc
  count : y.trap.count = (thread s).blockCount
  regs : y.regs = (thread s).regs
  callStack : y.callStack = (thread s).callStack
  exitHist : y.exitHist = (thread s).exitHist
  rowProg : y.rowProg = (thread s).rowProg

/-- The first word of the handler of the executing agent: a task's HANDLER, a controller's trap vector (R140, R399). -/
def handlerEntry (s : State) : Nat :=
  match s.cur with
  | .task k => (taskOf s k).handlerAt
  | .leaf c => field (coreOf s c).block.trapVec 0 14
  | .global => field s.glob.trapVec 0 14

/-- A launch has been killed with an error (R52, R408): its first error stays, and none of its tasks is left to run. -/
structure Killed (s t : State) (l cause sub : Nat) : Prop where
  killed : (launchOf t l).killed = true
  error : ∃ e, (launchOf t l).error = some e ∧ ((launchOf s l).error = none → e.cause = cause ∧ e.sub = sub)
  groups : (launchOf t l).groups = [] ∧ (launchOf t l).gangGroups = []
  tasks : ∀ k, ((siteOf s (TaskKey.siteKey k)).owner.map (·.launch)) = some l → (taskOf t k).slot = .absent ∨ (taskOf t k).slot = .retired
  retires : ∀ r, r < (launchOf s l).regions.length → .regionRetire l r ∈ t.agenda

/-- A system instruction issues on its places: its predicate holds, and its sources and destination are ready (R414). -/
structure SystemIssues (p : Places) (o : Operands) (s : State) : Prop where
  admitted : Admitted p s o
  predicate : predicate s o = true
  supplied : Supplied s o

/-- The global scheduler core only. -/
def onGlobalOnly : Places := { site := false, leaf := false, glob := true }
/-- The leaves only. -/
def onLeavesOnly : Places := { site := false, leaf := true, glob := false }

/-! ### System registers -/

/-- The bits of the registers with access code RW, from the lowest to the highest (R5, R279, R311, R401, R402, R456). -/
def rwBits : SysReg → Option (Nat × Nat)
  | .sptBase _ => some (12, 51) | .walkCfg _ => some (0, 4) | .hotDeliv _ => some (0, 63) | .hotStarve _ => some (0, 63)
  | .hotQBase _ => some (14, 51) | .hotQHead _ => some (0, 10) | .hotDrop _ => some (0, 63) | .spaceGone _ => some (0, 63)
  | .fltBase _ => some (11, 51) | .fltHead _ => some (0, 6) | .ltrapVec _ => some (0, 13) | .rgnPos _ _ => some (0, 16)
  | .rgnNode _ _ => some (0, 63) | .rgnLid _ _ => some (0, 47) | .rgnSave _ _ => some (12, 51) | .qtBase => some (6, 51) | .qtSize => some (0, 20)
  | .ctrapVec => some (0, 13) | .nodeId => some (0, 11) | .rtBase => some (12, 51) | .winBase _ => some (30, 51) | .winSize _ => some (0, 21)
  | .winRbase _ => some (30, 51) | .dbgDeny => some (0, 63) | .rasBase => some (17, 51) | .rasHead => some (0, 12) | .rasDrop => some (0, 63)
  | .brkLid _ => some (0, 31) | .dbgSel => some (0, 37) | .ringBase => some (16, 51) | .ringHead => some (0, 11) | .trcPost => some (0, 16)
  | .trnCfg _ => some (0, 63)
  | _ => none

/-- The registers with access code RO that no read changes, and those read-only here: a write has no effect (R5). -/
def readOnly : SysReg → Bool
  | .hotQTail _ => true | .fltTail _ => true | .rampStat _ => true | .rampEmpty _ => true | .rampDummy _ => true | .rampFuse _ => true
  | .monCnt => true | .incarn => true | .rdy => true | .lifecycle => true | .dbgFuse => true | .dbgEn => true | .dbgTstat => true | .idPub _ => true
  | .meas _ _ => true | .qStat => true | .rasTail => true | .temp => true | .ringTail => true | .trnStat _ => true | .rcvAddr => true
  | .rcvStat => true | .monHit => true | .retired _ => true | .clPermit => true | .clrx _ => true | .leafClrx _ _ => true
  | _ => false

/-- The registers whose read takes what it reads (R401 to R403). -/
def readTakes : SysReg → Bool
  | .leafClrx _ i => i == 7 | .retired _ => true | .monHit => true | .clrx i => i == 7
  | _ => false

/-- A system address in a source names register `r` (R400). -/
def NamesReg (s : State) (f : Field) (r : SysReg) : Prop := ∃ w, scalarOf s f = .data w ∧ w.toNat < 2 ^ 32 ∧ regAt (bits w 0 32) = some r

/-! ### Transaction barriers -/

/-- A barrier after Expect(`e`) and Arrive(`k`) in one step (R347): SECT goes up, kept in its range; ARR goes down, to 0 at the least; either excess sets
OVF; and where both are then 0, PHASE goes up and ARR is EXP again. -/
def barrierAfter (e k : Nat) (b : XBar) : XBar :=
  let sect : Int := min (2 ^ 47 - 1) (b.sect + e)
  let arr := b.arr - k
  let ovf := b.ovf || decide (b.arr < k) || decide (2 ^ 47 - 1 < b.sect + e)
  if arr = 0 ∧ sect = 0 then { b with sect := sect, arr := b.exp, ovf := ovf, phase := b.phase + 1 }
  else { b with sect := sect, arr := arr, ovf := ovf }

/-- The barrier that 16 bytes hold (R346). -/
def barrierOf (bs : List Byte) : XBar := XBar.ofWord (BitVec.ofNat 128 (leNat bs))

/-- A barrier instruction that updates: its range of counts, its ordering, and the barrier after it (R347, R350). -/
structure BarrierClaim where
  instr : Instr
  lo : Nat
  hi : Nat
  order : MemOrder
  after : Nat → XBar → XBar

/-- XBINIT, XBEXP, with and without ARV, and XBARV (R347, R350). -/
def barrierClaims (o : Operands) : List BarrierClaim :=
  let arv := Mod.arv o.mod
  [{ instr := .xbinit o, lo := 1, hi := 2 ^ 32 - 1, order := .rlx,
     after := fun n _ => { sect := 0, exp := n, arr := n, ovf := false, fault := false, phase := 0 } },
   { instr := .xbexp o, lo := 0, hi := 2 ^ 47 - 1, order := if arv then .rel else .rlx,
     after := fun n => barrierAfter n (if arv then 1 else 0) },
   { instr := .xbarv o, lo := 1, hi := 2 ^ 32 - 1, order := .rel, after := barrierAfter 0 }]

/-- A source is a count within a range. -/
def CountIs (s : State) (f : Field) (lo hi n : Nat) : Prop := lo ≤ n ∧ n ≤ hi ∧ ∃ w, scalarOf s f = .data w ∧ w.toNat = n

/-! ### Fabric-interface units -/

/-- A unit of the executing task's die has taken a command (R350, R354): it stands in the die's table, the fields' tokens are taken, and nothing else
has changed but the stream's own. -/
structure UnitTook (s t : State) (k : TaskKey) (fs : List Field) (d : Dst) (u : UnitCmd) : Prop where
  command : Tab.find? (dieOf t (k.core / 4)).units (dieOf s (k.core / 4)).nextUnit = some u
  others : ∀ i, i ≠ (dieOf s (k.core / 4)).nextUnit → Tab.find? (dieOf t (k.core / 4)).units i = Tab.find? (dieOf s (k.core / 4)).units i
  die : { dieOf t (k.core / 4) with units := [], nextUnit := 0 } = { dieOf s (k.core / 4) with units := [], nextUnit := 0 }
  dies : ∀ i, i ≠ k.core / 4 → dieOf t i = dieOf s i
  tokens : Took fs s t
  stream : Accepted d s t
  streams : OthersKept s t
  memory : ∀ j, readByte t.mem j = readByte s.mem j
  launches : t.launches = s.launches
  cores : t.cores = s.cores

/-- An index vector's field (R350, R354): a vector register or a channel whose head token carries tag 000 or 111. -/
def IndexField (s : State) (f : Field) : Prop := Field.isVC f = true ∧ StrictlyTagged s f [.int32, .idx]

/-! ### Match engines -/

/-- A command that names match engine `n` in field B issues, its release met and its engine running (R312, R389). -/
structure MatchIssues (o : Operands) (s : State) (k : TaskKey) (n : NodeRef) (scope : Scope) : Prop where
  engine : EngineIssues o s k
  node : Names s k o.b [.match_] n
  gate : GateOpen s .rel scope
  runs : (matchOf s n.home).halted = false ∧ (matchOf s n.home).taken (refOr s k) = false

/-- The engine as a command finds it: it notes when the command came. -/
def engineAt (s : State) (n : NodeRef) : Match := { matchOf s n.home with lastArrive := s.time }

/-- A command to match engine `n` has completed: the engine is `m`, its destination is to receive `x` by a producer of a kind, and nothing else has
changed. -/
def MatchDoesBy (kind : Fill → ProducerState) (i : Instr) (n : NodeRef) (d : Dst) (m : Match) (x : Scalar) (s : State) : Prop :=
  ∃ t, exec i s = .next t ∧ DeliversBy kind d x s t ∧ EngineFrame n s t d ∧ matchOf t n.home = m

/-- A command to match engine `n` has completed, and its destination is to receive `x` at once. -/
def MatchDoes : Instr → NodeRef → Dst → Match → Scalar → State → Prop := MatchDoesBy .ready

/-- When a delta is reported: at once where it is buffered in a firing, and otherwise once the engine that field B names has written it
(R256). -/
def deltaKind (s : State) (o : Operands) (f : Option (Nat × Firing)) : Fill → ProducerState :=
  match f, scalarOf s o.b with
  | none, .data n => .delta n.toNat
  | _, _ => .ready

/-- An access of an engine to `n` bytes of one page, which nothing holds up: its address translates to ordinary memory of the package, and no logged
access lies in the way (R255, R276). -/
structure EngineReaches (s : State) (a : Accessor) (va : W64) (n : Nat) (wr : Bool) (pa : Nat) : Prop where
  page : va.toNat % 65536 + n ≤ 65536
  line : pa % 128 + n ≤ 128
  log : logHolds s a va n = false
  place : accessPa s a va wr = .ok pa
  near : physKind pa ≠ .far ∧ ∀ d i, physKind pa ≠ .bank d i

/-- The bytes that a read of an engine takes from its core's L1, which holds them: the read waits for nothing (R189, R341). -/
def EngineHolds (s : State) (a : Accessor) (va : W64) (n : Nat) (bs : List Byte) : Prop :=
  ∃ pa, EngineReaches s a va n false pa ∧ l1Has s a.core pa n = true ∧ bs = l1Bytes s a.core pa n

/-- The 64 bytes of an entry at `va`, at `pa` in memory of the package: an engine of a core reaches each of them, the core owns and awaits none, and
their home can serve them now (R199, R341). -/
structure EntryReaches (s : State) (a : Accessor) (va : W64) (pa : Nat) : Prop where
  reach : ∀ off n wr, off + n ≤ 64 → EngineReaches s a (va + BitVec.ofNat 64 off) n wr (pa + off)
  whole : pa % 64 = 0
  unowned : (l1Line (coreOf s a.core) (pa / 128)).owned &&& wordsOf (pa % 128) 64 = 0
  free : homeBusy s pa 64 = false ∧ ∀ i, i < 64 → wbUnanswered s a.core (pa + i) = false
  sound : badIn s pa 64 = false

/-- Bytes written by an engine into its core's L1, whose write-back brings them to memory: every byte of memory stays (R196, R341). -/
def EngineWrote (s t : State) (c pa : Nat) (bs : List Byte) : Prop :=
  l1Bytes t c pa bs.length = bs ∧ ∀ j, readByte t.mem j = readByte s.mem j

/-- A scorer packet can be published now (R375, R417): the engine's SIG word is its core's, all that it has stored is acknowledged, and the block of
queue `q` and its next slot can be written. -/
structure ScorerReady (s : State) (c slot : Nat) (q slotPa : Nat) : Prop where
  sig : ∃ pa, EngineReaches s (matchAccessor s c) (Match.entryAddr (matchOf s c) slot + 56) 8 true pa ∧ regPending s c pa 8 = false ∧
    (l1Line (coreOf s c) (pa / 128)).owned &&& wordsOf (pa % 128) 8 = wordsOf (pa % 128) 8
  acked : nodeAcked s (matchAccessor s c) = true
  queue : ∃ pa, accessPa s (matchAccessor s c) (matchOf s c).squeue false = .ok pa ∧ s.glob.qtBase.toNat ≤ pa ∧ q = (pa - s.glob.qtBase.toNat) / 64
  block : q < s.glob.qtSize.toNat ∧ placeReady s (qcbAddr s q) 64 true true = .ok () ∧ qcbAddr s q % 64 = 0
  task : bit (qcbOf s q).flags 0 = true ∧ bit (qcbOf s q).flags 1 = true ∧ (qcbOf s q).space = (launchOf s (matchOf s c).launch).space
  room : (launchOf s (matchOf s c).launch).childrenLive < 65535 ∧ ((qcbOf s q).resv - (qcbOf s q).head).toNat < 2 ^ min (qcbOf s q).log2n 16 ∧
    (qcbOf s q).tail = (qcbOf s q).resv
  next : slotPa = (qcbOf s q).rbase + 64 * ((qcbOf s q).resv.toNat % 2 ^ min (qcbOf s q).log2n 16) ∧ placeReady s slotPa 64 true true = .ok () ∧
    physKind slotPa ≠ .far ∧ (slotPa + 64 ≤ qcbAddr s q ∨ qcbAddr s q + 64 ≤ slotPa)

/-- The firing that field C names under FH, or none without FH (R381, R385). -/
def FiringIs (s : State) (o : Operands) (m : Match) (f : Option (Nat × Firing)) : Prop :=
  if Mod.arv o.mod = true then ∃ h p, scalarOf s o.c = .data h ∧ Match.openFiring m h = some p ∧ f = some p else f = none

/-- A delta has gone to the engine, or into the buffer of a firing (R371, R385). -/
def withDelta (m : Match) (f : Option (Nat × Firing)) (d : Delta) : Match :=
  match f with
  | none => { m with deltas := m.deltas ++ [d] }
  | some (i, _) => { m with firings := m.firings.modify i fun f => { f with deltas := f.deltas ++ [d] } }

/-- A firing declares an effect of its rule (R381): without FH there is nothing to declare. -/
def Declared (m : Match) (f : Option (Nat × Firing)) (p : NetRule → Firing → Prop) : Prop :=
  ∀ i g, f = some (i, g) → ∃ r, Match.rule m g.inst.rule = some r ∧ p r g

/-- A descriptor gives an element of a declared class, with its flags and attributes (R384). -/
def ElementIs (m : Match) (d : List W32) (cls flags : Nat) (attrs : List W32) : Prop :=
  cls = field (dlane d 0) 0 12 ∧ flags = field (dlane d 0) 24 8 ∧ field (dlane d 0) 12 12 = 0 ∧ attrs = (d.drop 2).take 14 ∧
    ∃ n, Tab.find? m.classes cls = some n ∧ ∀ i, 2 + n ≤ i → dlane d i = 0

/-- An element is live (R365). -/
def Live (m : Match) (id : Nat) : Prop := ∃ e, Tab.find? m.elems id = some e ∧ e.live = true

/-- A key descriptor names a scorer and its ids (R384, R388), on a node with a score table. -/
def KeyIs (m : Match) (d : List W32) (scorer : Nat) (ids : List Nat) : Prop :=
  scorer = (dlane d 0).toNat ∧ scorer < 256 ∧ 1 ≤ ids.length ∧ ids.length ≤ 4 ∧ m.scoreEntries ≠ 0 ∧
    (∀ i, i < ids.length → (ids)[i]? = some (dlane d (1 + i)).toNat ∧ (dlane d (1 + i)).toNat < m.wmCap ∧ dlane d (1 + i) ≠ 0xFFFFFFFF) ∧
    (∀ i, ids.length ≤ i → i < 4 → dlane d (1 + i) = 0xFFFFFFFF) ∧ ∀ i, 5 ≤ i → dlane d i = 0

/-! ### Homes and the L1s -/

/-- A sparse array in order: each key once, the keys rising. -/
def Rising {α : Type} (t : Table α) : Prop := (t.map (·.1)).Pairwise (· < ·)

/-- The order that the machine keeps its sparse arrays in: memory in its canonical form, and the lines of the homes, the words of each, and the lines
of every L1 by rising number. -/
structure Ordered (s : State) : Prop where
  mem : Memory.wf s.mem = true
  homes : Rising s.homes
  owners : ∀ line, Rising (homeLine s line).owners
  l1 : ∀ c, Rising (coreOf s c).l1

/-- Every local store and data memory is in the canonical form too, those of a saved launch among them. -/
structure StoresOrdered (s : State) : Prop where
  sites : ∀ p ∈ s.sites, Memory.wf p.2.localStore = true
  saved : ∀ p ∈ s.launches, ∀ v, p.2.saved = some v → ∀ x ∈ v.sites, Memory.wf x.2.2.2.localStore = true
  leaves : ∀ p ∈ s.cores, Memory.wf p.2.leaf.dataMem = true
  glob : Memory.wf s.glob.ctl.dataMem = true

/-- What every step keeps: everything that is held as bytes at addresses in its canonical form, and every table of the machine in order. -/
structure Inv (s : State) : Prop where
  ordered : Ordered s
  stores : StoresOrdered s
  sites : Rising s.sites
  launches : Rising s.launches
  cores : Rising s.cores
  dies : Rising s.dies
  badLines : Rising s.badLines

/-! ### Steps -/

/-- The majors that a controller executes (R107). -/
def controllerMajors : List Nat := [0x00, 0x01, 0x02, 0x40, 0x42, 0x44, 0x80]

/-- The word at the executing agent's program counter. -/
def wordHere (s : State) : W128 := wordAt s s.cur (thread s).pc

/-- An instruction of an agent is the move that comes next: the machine's clock has ticked, and the agent begins to issue. -/
def Issues (s : State) (a : Agent) (u : State) : Prop :=
  pick (tick s) (moves (tick s)) = some (.issue a) ∧ u = begin_ (tick s) a

/-- The owner that the home records of a word (R197). -/
def ownerOf (s : State) (line w : Nat) : Option Nat := Tab.find? (homeLine s line).owners w

/-- The bytes of a line that a message merges: those of its byte mask in the words of its word mask; no other byte of memory changes (R199, R200). -/
def Merged (s t : State) (line : Nat) (content : LineData) (bytes : W128) (mask : W32) : Prop :=
  ∀ j, readByte t.mem j = if j / 128 = line ∧ bit bytes (j % 128) = true ∧ bit mask (j % 128 / 4) = true then lineByte content (j % 128)
    else readByte s.mem j

/-- A read of a line is the only one there, with one answer outstanding (R200). -/
def LastAnswer (s : State) (line owner : Nat) (mask : W32) (req : Nat) (a b : List HomeRead) (requester : Nat) : Prop :=
  ∃ need, s.reads = a ++ { req := req, line := line, requester := requester, need := need, started := true, asked := [(owner, mask)] } :: b ∧
    ∀ r ∈ a ++ b, r.line ≠ line ∧ r.req ≠ req

/-- The device owns none of some words of a line, and no write-back of one is awaited (R211, R212). -/
def DeviceFree (s : State) (line : Nat) (mask : W32) : Prop :=
  (∀ w, bit mask w = true → ∀ c, ownerOf s line w = some c → 16 ≤ c) ∧ ∀ r ∈ (homeLine s line).revoking, r.words &&& mask = 0

/-- Each device owner of some words of a line is told to write them back, and owns them no longer (R199). -/
def Revokes (s t : State) (line : Nat) (mask : W32) : Prop :=
  (∀ d m, (d, m) ∈ ownersOf (homeLine s line) 16 → m &&& mask ≠ 0 → .revoke d line (m &&& mask) ∈ t.agenda) ∧
  ∀ w, bit mask w = true → ∀ c, ownerOf t line w = some c → 16 ≤ c

/-- Nothing of a core but one part of it has changed, and no other core. -/
def CoreBut (s t : State) (c : Nat) (x : Core) : Prop := coreOf t c = x ∧ (∀ d, d ≠ c → coreOf t d = coreOf s d) ∧ t.mem = s.mem ∧ t.homes = s.homes ∧
  t.agenda = s.agenda ∧ t.sites = s.sites ∧ t.launches = s.launches

/-! ### Tokens in flight -/

/-- Slot `slot` of a site. -/
def taskAt (k : SiteKey) (slot : Nat) : TaskKey := { core := k.core, site := k.site, slot := slot }

/-- Input channel `c` of a site, where it has one. -/
def chanAt (s : State) (k : SiteKey) (c : Nat) : Option InChan := ((siteOf s k).chans.toList)[c]?

/-- Output channel `o` of a site, where it has one. -/
def outAt (s : State) (k : SiteKey) (o : Nat) : Option OutChan := ((siteOf s k).outs.toList)[o]?

/-- A token has been added to one input channel, and no other input channel has changed. -/
def Received (s t : State) (k : SiteKey) (c : Nat) (tok : Token) : Prop :=
  (∀ ch, chanAt s k c = some ch → chanAt t k c = some { slots := ch.slots ++ [(tok, s.time)] }) ∧
  ∀ e j, ¬ (siteKeyNat e = siteKeyNat k ∧ j = c) → chanAt t e j = chanAt s e j

/-- A token node has taken the head token of some of its input channels, and no other input channel has changed (R129). -/
def NodeTook (s t : State) (k : SiteKey) (cs : List Nat) : Prop :=
  (∀ j, j ∈ cs → chanAt t k j = (chanAt s k j).map fun ch => { slots := ch.slots.drop 1 }) ∧
  ∀ e j, ¬ (siteKeyNat e = siteKeyNat k ∧ j ∈ cs) → chanAt t e j = chanAt s e j

/-- A token node has sent a token, with its own sequence tag and the channel's route, on an output (R78, R129). -/
def NodeSent (s t : State) (k : SiteKey) (o : Nat) (tok : Token) : Prop :=
  .tokenArrival (.chan k o) false ∈ t.agenda ∧
  ∀ out, outAt s k o = some out → ∃ out', outAt t k o = some out' ∧ out'.route = out.route ∧
    out'.send = out.send ++ [{ tok with route := bits (out.route.getD 0) 0 10 }]

/-- Memory of the package whose bytes their home can give now (R199, R200, R211). -/
structure HomeFree (s : State) (pa n : Nat) : Prop where
  near : physKind pa ≠ .far ∧ ∀ d i, physKind pa ≠ .bank d i
  free : homeBusy s pa n = false

/-- Memory of the package whose bytes a stream port, a unit or the leaf can read at their home now: they show no uncorrectable error (R451). -/
structure HomeReadable (s : State) (pa n : Nat) : Prop extends HomeFree s pa n where
  sound : badIn s pa n = false

/-- Memory of the package that a write at its home reaches now: no core owns a word of it (R199, R227). -/
structure HomeWritable (s : State) (pa n : Nat) : Prop extends HomeFree s pa n where
  unowned : coreOwned s pa n = false

/-- The 64 bytes of a queue's packet at `head`: as the ring is read, and in memory of the package that is there the bytes at their home (R405). -/
def HeadIs (s : State) (e : QueueEntry) (head : Nat) (p : List Byte) : Prop :=
  readHead s e head = .ok p ∨
    (let pa := e.rbase.toNat + 64 * (head % 2 ^ min e.log2n 16)
     physReady s pa = true ∧ HomeFree s pa 64 ∧ p = homeRead s pa 64)

/-- The bytes at `va` of a stream program's space are at `pa`: the address is one that a stream reaches, and its page is translated (R192, R193). -/
structure StreamReaches (s : State) (die slot : Nat) (va : W64) (pa : Nat) : Prop where
  reach : unitReach va = true
  place :
    let x := streamOf s die slot
    let launch := (x.owner.map (·.1.launch)).getD 0
    let node : NodeRef := { kind := .stream, home := die, idx := slot }
    engineTranslate s die (.engine node) (some node) (launchOf s launch).space va false
      (nodeFault s (streamCore s x) launch ((x.owner.map (·.2)).getD 0)) = .ok pa

/-! ### Installation -/

/-- A packet stands at a site of a region that is being installed (R34 to R38): and where that site is (0, 0), the next packet is read and fits. -/
def PacketHere (s : State) (p : PacketAt) (g : Region) : Prop :=
  regionOf s p.launch p.region = some g ∧ installing s p.launch p.region = true ∧
    (p.x = 0 → p.y = 0 → ∃ ls, readPacket s p.launch g = .ok ls ∧ packetFits g ls = true)

/-- The site of a packet has kept it: the site is `x`, and no other site, byte of memory or core has changed (R38). At (0, 0) the next packet has followed. -/
def KeptBy (s t : State) (p : PacketAt) (g : Region) (x : Site) : Prop :=
  siteOf t (siteAt g p.x p.y) = x ∧ (∀ k, siteKeyNat k ≠ siteKeyNat (siteAt g p.x p.y) → siteOf t k = siteOf s k) ∧ t.mem = s.mem ∧ t.cores = s.cores ∧
  (p.x = 0 → p.y = 0 → ∃ ls, readPacket s p.launch g = .ok ls ∧
    t.agenda = s.agenda ++ [packetStepAt { launch := p.launch, region := p.region, x := 0, y := 0, index := g.sent, lanes := ls }]) ∧
  (¬ (p.x = 0 ∧ p.y = 0) → t.agenda = s.agenda)

/-- A launch that can still be killed. -/
def Alive (s : State) (l : Nat) : Prop := (launchOf s l).killed = false ∧ (launchOf s l).state ≠ .complete

/-! ### Copy channels and units -/

/-- The bytes that a copy channel reads, for which it waits for nothing: those of the issuing task's local store, or of its core's L1 (R341). -/
def ChanHolds (s : State) (a : Accessor) (r : TaskRef) (va : W64) (n : Nat) (bs : List Byte) : Prop :=
  (∃ k, inStore va = true ∧ siteOfRef s r = some k ∧ bs = readBytes (siteOf s k).localStore (va.toNat % 65536) n) ∨
    (inStore va = false ∧ EngineHolds s a va n bs)

/-- A place to which a copy channel can write `n` bytes now: the issuing task's local store, or memory that it reaches (R341). -/
def ChanReaches (s : State) (a : Accessor) (r : TaskRef) (va : W64) (n : Nat) : Prop :=
  (∃ k, inStore va = true ∧ siteOfRef s r = some k) ∨ (inStore va = false ∧ ∃ pa, EngineReaches s a va n true pa)

/-- Bytes written by a copy channel: in the local store, or in its core's L1, whose write-back will bring them to memory (R341). -/
def ChanWrote (s t : State) (a : Accessor) (r : TaskRef) (va : W64) (bs : List Byte) : Prop :=
  (∀ j, readByte t.mem j = readByte s.mem j) ∧
  (∀ k, inStore va = true → siteOfRef s r = some k → Memory.wf (siteOf s k).localStore = true →
    readBytes (siteOf t k).localStore (va.toNat % 65536) bs.length = bs) ∧
  ∀ pa, inStore va = false → EngineReaches s a va bs.length true pa → l1Bytes t a.core pa bs.length = bs

/-- The follow-on command of a record passes the checks of a tile command (R320, R334). -/
def FollowOk (s : State) (m : TileCmd) : Prop :=
  TileCmd.reservedOk m = true ∧ TileCmd.rangesOk m = true ∧ TileCmd.nodesOk m s = true ∧ TileCmd.alignOk m = true ∧ TileCmd.basesOk m = true ∧
    TileCmd.formatsOk m = true

/-- The index of a unit's next element: a lane of its vector, or a word of its list in memory (R354). -/
def UnitIndexIs (s : State) (die id : Nat) (u : UnitCmd) (w : Lane) : Prop :=
  match u.index with
  | some ls => (ls.toList)[u.next]?.getD .null = w
  | none => ∃ pa, unitPa s die id u (daddr u.lanes 3 + BitVec.ofNat 64 (4 * u.next)) false = .ok pa ∧ HomeReadable s pa 4 ∧
      w = .data (BitVec.ofNat 32 (leNat (homeRead s pa 4)))

/-- The lane that a gather's next element gives, where nothing holds it up (R355): null for a null index or one out of range, code 6 for an error
index, and otherwise the element, extended. -/
def Gathers (s : State) (die id : Nat) (u : UnitCmd) (l : Lane) : Prop :=
  ∃ w, UnitIndexIs s die id u w ∧
    match w with
    | .null => l = .null
    | .err _ => l = .err 6
    | .data y =>
      if outOfRange u.lanes y = true then l = .null
      else ∃ pa, unitPa s die id u (unitAddr u.lanes y) false = .ok pa ∧ HomeReadable s pa (unitSize u.lanes) ∧
        l = .data (extend u.lanes (homeRead s pa (unitSize u.lanes)))

/-- A word of 8 bytes that a unit can read at its home now. -/
def UnitReads (s : State) (die id : Nat) (u : UnitCmd) (va x : W64) : Prop :=
  ∃ pa, unitPa s die id u va false = .ok pa ∧ HomeReadable s pa 8 ∧ x = BitVec.ofNat 64 (leNat (homeRead s pa 8))

/-- A channel's chain has ended: it takes the head register's chain, or is idle (R339, R340). -/
def ChainEnded (x y : CopyChan) : Prop :=
  y.record = none ∧ y.flight = [] ∧ y.stopReq = false ∧ y.began = false ∧ y.head = none ∧
  (x.head = none → y.state = .idle ∧ y.cur = none) ∧ ∀ h, x.head = some h → y.state = .fetch ∧ y.cur = some h

/-- A channel has stopped, and its launch has an error: this cause, where it is its first (R343). -/
def ChainFailed (s t : State) (c i cause : Nat) : Prop :=
  (copyOf t c i).state = .stopped ∧ ∃ e, (launchOf t (copyOf s c i).launch).error = some e ∧
    ((launchOf s (copyOf s c i).launch).error = none → e.cause = cause)
/-! ### Records of the debug block -/

/-- A RAS record told (R452): in the ring at RASBASE with the event's kind, severity, place and the time; or dropped and counted where the ring is full. -/
def RasTold (s t : State) (kind sev die core launch : Nat) (addr : W64) : Prop :=
  let head := field s.dbg.rasHead 0 13
  let tail := field s.dbg.rasTail 0 13
  let record : List Byte := [BitVec.ofNat 8 kind, BitVec.ofNat 8 sev, BitVec.ofNat 8 die, BitVec.ofNat 8 core, 0xFF, 0xFF, 0xFF, 0xFF] ++
    leBytes 8 launch ++ leBytes 8 addr.toNat ++ leBytes 8 s.time.toNat
  if (tail + 8192 - head) % 8192 = 4096 then
    t.dbg.rasTail = s.dbg.rasTail ∧ (s.dbg.rasDrop ≠ BitVec.allOnes 64 → t.dbg.rasDrop = s.dbg.rasDrop + 1)
  else
    t.dbg.rasTail = BitVec.ofNat 64 ((tail + 1) % 8192) ∧ t.dbg.rasDrop = s.dbg.rasDrop ∧
      ∀ j, j < 32 → readByte t.mem (s.dbg.rasBase.toNat + 32 * (tail % 4096) + j) = record[j]?.getD 0

/-- The debug ring is full (R434). -/
def ringFull (s : State) : Prop := (field s.dbg.ringTail 0 12 + 4096 - field s.dbg.ringHead 0 12) % 4096 = 2048

/-- A path record of a MARK told in the debug ring (R433, R434). -/
def PathTold (s t : State) (w : MarkWalk) (origin : Nat) (f : FiringInfo) : Prop :=
  let tail := field s.dbg.ringTail 0 12
  let record : List Byte := leBytes 2 w.sample ++ [BitVec.ofNat 8 w.hop, BitVec.ofNat 8 origin] ++ leBytes 4 (elementCnode s w.place).toNat ++
    [BitVec.ofNat 8 (f.input % 32), BitVec.ofNat 8 f.task] ++ leBytes 2 f.word ++ [0, 0, 0, 0] ++ leBytes 8 f.arrive.toNat ++ leBytes 8 f.fire.toNat
  t.dbg.ringTail = BitVec.ofNat 64 ((tail + 1) % 4096) ∧
    ∀ j, j < 32 → readByte t.mem (field s.dbg.ringBase 16 36 * 65536 + 32 * (tail % 2048) + j) = record[j]?.getD 0

/-- A training step with its code (R445). -/
def TrainingStep (u : Nat) (e : Instr) (code : Nat) : Prop :=
  (e, code) ∈ [(Instr.trnReset u, 1), (.lanetest u, 2), (.wck u, 9), (.catrain u, 3), (.rdtrain u, 4), (.wrtrain u, 5), (.eq u, 10),
    (.deskew u, 11), (.flitlock u, 12), (.ltssm u, 13), (.save u, 6), (.restore u, 7), (.online u, 8)]

/-- A step of a unit has been started: it is busy, and its completion is to come. -/
def Training (t : State) (u code : Nat) : Prop := (trainAt t u).stat = 1 ∧ ∃ b, Instr.trainingComplete u code b ∈ t.agenda

/-- A measurement register extended with 64 bytes (R448); the others stay. -/
def Extended (s t : State) (i : Nat) (bytes : List Byte) : Prop :=
  (∀ m : Fin 8, m.val = i → t.dbg.meas.get m = shake256 (digestBytes (s.dbg.meas.get m) ++ bytes)) ∧
    ∀ m : Fin 8, m.val ≠ i → t.dbg.meas.get m = s.dbg.meas.get m

/-- The machine has restarted (R419, R443, R444): everything but memory, ports, time and block 6 is as after power-on, INCARN has changed, M0 alone is
extended, READY is `ready`, and the image is loaded next. -/
structure Restarted (s t : State) (ready : W64) : Prop where
  cores : t.cores = State.reset.cores
  dies : t.dies = State.reset.dies
  gone : t.sites = [] ∧ t.launches = [] ∧ t.homes = [] ∧ t.reads = []
  glob : { t.glob with incarn := 0, floholtUp := 0, cxlUp := 0 } = { State.reset.glob with incarn := 0, floholtUp := 0, cxlUp := 0 }
  incarn : t.glob.incarn ≠ s.glob.incarn
  meas : t.dbg.meas = (Vector.replicate 8 (0 : BitVec 512)).set 0 (shake256 (List.replicate 64 (0 : Byte) ++ digestBytes Config.bootDigest))
  ready : t.dbg.ready = ready
  image : Instr.firmwareLoad ∈ t.agenda
  slot : t.dbg.fwSlot = s.dbg.fwSlot

/-- The ROM's conditions on an image (R446). -/
def ImageOk (img : List Byte) : Prop :=
  let n := leNat ((img.drop 8).take 8)
  leNat (img.take 4) = 1 ∧ Config.minSvn ≤ leNat ((img.drop 4).take 4) ∧ img.length = 128 + n + 29792 ∧
    shake256 ((img.drop 64).take 64) ∈ Config.rootKeyDigests ∧
    slhVerify ((img.drop 64).take 64) (img.take (128 + n)) (img.drop (128 + n)) = true

/-- An image has booted (R443, R446): M1 and M2 are extended, and each controller runs at its entry with its code. -/
structure Booted (s t : State) (img : List Byte) : Prop where
  ready : t.dbg.ready = s.dbg.ready ||| ((1 : W64) <<< 40)
  status : t.dbg.rcvStat = 0
  m1 : ∀ m : Fin 8, m.val = 1 → t.dbg.meas.get m = shake256 (digestBytes (s.dbg.meas.get m) ++ digestBytes (shake256 (img.take 128)))
  m2 : ∀ m : Fin 8, m.val = 2 → t.dbg.meas.get m =
    shake256 (digestBytes (s.dbg.meas.get m) ++ digestBytes (shake256 ((img.drop 128).take (leNat ((img.drop 8).take 8)))))
  glob : t.glob.ctl.running = true ∧ t.glob.ctl.thread = Thread.start (leNat ((img.drop 16).take 4))
  leaf : ∀ c, c < 16 → (coreOf t c).leaf.running = true ∧ (coreOf t c).leaf.thread = Thread.start (leNat ((img.drop 20).take 4))
  globCode : ∀ i, i < leNat ((img.drop 24).take 4) → wordAt t .global i = BitVec.ofNat 128 (leNat ((img.drop (128 + 16 * i)).take 16))
  leafCode : ∀ c i, c < 16 → i < leNat ((img.drop 28).take 4) →
    wordAt t (.leaf c) i = BitVec.ofNat 128 (leNat ((img.drop (128 + 16 * (leNat ((img.drop 24).take 4) + i))).take 16))

end Sys2Proof.Safety
end

