-- ==== Sys2Proof/Certificates/Slice0/Obligations.lean ====
section
/-! DEFINITION. The statements about the machine that the provers prove. -/

open Sys2Proof Sys2Proof.Machine

/-! ### Scalar arithmetic, compares and predicate logic -/

/-- INTEGER ARITHMETIC (R97, R143 to R146, R158, R160): ADD, SUB, MUL, MULH, MULHU, AND, OR, XOR, ANDN, SHL, SHR, SAR, ROL, CLZ, CTZ, POPC,
MIN, MAX, MINU, MAXU, ABS, SEL, MOV, BFX, BFI and LEA, on a site or a controller. With bit 0 of its predicate clear the instruction retires with
no effect. Otherwise, with its sources full and its destination ready, it completes: its value, marked as its sources are, stands in the
destination; the source tokens are taken; nothing else changes. -/
def Obligations.IntegerArithmetic : Prop :=
  ∀ (s : State) (o : Operands), Safety.Admitted Places.all s o → ∀ x ∈ Safety.integerClaims o,
    (Safety.predicate s o = false → Safety.Skips x.instr s) ∧
    (Safety.predicate s o = true → Safety.Supplied s o → Safety.Computes x o s)

/-- DIVISION (R144, R159): DIV, DIVU, REM and REMU complete unless both sources are data and the divisor is zero, where they trap DIVZERO with
no source named; a zero divisor beside a source that is not data gives the mark. -/
def Obligations.DivisionAndDivzero : Prop :=
  ∀ (s : State) (o : Operands), Safety.Admitted Places.all s o → ∀ x ∈ Safety.divisionClaims o,
    (Safety.predicate s o = false → Safety.Skips x.instr s) ∧
    (Safety.predicate s o = true → Safety.Supplied s o →
      ((¬ ∃ a, scalarOf s o.a = .data a) ∨ scalarOf s o.b ≠ .data 0 → Safety.Computes x o s) ∧
      (∀ a, scalarOf s o.a = .data a → scalarOf s o.b = .data 0 → exec x.instr s = .next (takeTrap .divzero 3 0 s)))

/-- COMPARES (R161): CMP gives 1 or 0, marked as its sources are; PCMP gives all ones where both sources are data and the condition holds,
and all zeros otherwise. -/
def Obligations.Compares : Prop :=
  ∀ (s : State) (o : Operands), Safety.Admitted Places.all s o →
    (Safety.predicate s o = false → Safety.Skips (.cmp o) s ∧ Safety.Skips (.pcmp o) s) ∧
    (Safety.predicate s o = true → Safety.Supplied s o →
      (∃ t v, exec (.cmp o) s = .next t ∧ Safety.Retires s t [o.a, o.b, o.c] o.dst ∧
        (v = 1 ∨ v = 0) ∧ (v = 1 ↔ Safety.condTrue (Mod.cond o.mod) (Safety.pattern s o.a) (Safety.pattern s o.b)) ∧
        Safety.ScalarAt o.dst .int32 (Scalar.combine [scalarOf s o.a, scalarOf s o.b] v) s t) ∧
      (∃ t v, exec (.pcmp o) s = .next t ∧ Safety.Retires s t [o.a, o.b, o.c] o.dst ∧
        (v = BitVec.allOnes 64 ∨ v = 0) ∧
        (v = BitVec.allOnes 64 ↔ ∃ a b, scalarOf s o.a = .data a ∧ scalarOf s o.b = .data b ∧ Safety.condTrue (Mod.cond o.mod) a b) ∧
        Safety.PredAt o.dst (BitVec.allOnes 64) v s t))

/-- PREDICATE LOGIC (R97, R145, R162): PAND, POR, PXOR, PNOT and PMOV write bit i of the destination only where bit i of the predicate is 1; a
predicate with no bit set selects no effect; p0 stays all ones. -/
def Obligations.PredicateLogic : Prop :=
  ∀ (s : State) (o : Operands), Safety.Admitted Places.all s o → ∀ x ∈ Safety.logicClaims o,
    (Safety.active s o = 0 → Safety.Skips x.1 s) ∧
    (Safety.active s o ≠ 0 → Safety.Supplied s o →
      ∃ t v, exec x.1 s = .next t ∧ Safety.Retires s t [] o.dst ∧ Safety.PredAt o.dst (Safety.active s o) v s t ∧
        ∀ i, i < 64 → bit v i = x.2 (bit (Safety.logicBits s o.a) i) (bit (Safety.logicBits s o.b) i))

/-- SOURCES THAT ARE EMPTY (R32, R91, R96, R121, R124, R140, R178): for each instruction of integer arithmetic and of division, a destination channel
without a route traps ILLOP; then an empty source with FET set traps EMPTY with the number of the first such field; otherwise the first empty
source makes the task wait on it; then an empty destination register makes it wait, and a full send buffer leaves the state as it is. -/
def Obligations.EmptySources : Prop :=
  ∀ (s : State) (o : Operands), Safety.Admitted Places.all s o → Safety.predicate s o = true →
    ∀ x ∈ Safety.integerClaims o ++ Safety.divisionClaims o,
      let fs := [o.a, o.b, o.c]
      (∀ i, o.dst = .o i → (outOf s i).route = none → exec x.instr s = .next (takeTrap .illop 3 0 s)) ∧
      ((∀ i, o.dst = .o i → (outOf s i).route ≠ none) →
        (∀ (n : Nat) f, fs[n]? = some f → emptyOn s f ≠ none → Field.fet f = true →
          (∀ (m : Nat) g, m < n → fs[m]? = some g → emptyOn s g = none ∨ Field.fet g = false) → exec x.instr s = .next (takeTrap .empty n 0 s)) ∧
        ((∀ f ∈ fs, emptyOn s f = none ∨ Field.fet f = false) → ∀ (n : Nat) f w, fs[n]? = some f → emptyOn s f = some w →
          (∀ (m : Nat) g, m < n → fs[m]? = some g → emptyOn s g = none) → exec x.instr s = .next (waitCur s w)) ∧
        (Safety.Full s fs →
          (∀ i, o.dst = .o i → 2 ≤ (outOf s i).send.length → exec x.instr s = .next s) ∧
          (∀ i, o.dst = .s i → ((thread s).regs.s.get i).full = false → exec x.instr s = .next (waitCur s (.register o.dst)))))

/-! ### Vector instructions -/

/-- VECTOR ARITHMETIC (R87, R163 to R166, R168, R169): VADD, VSUB, VMUL, VFMA, VMIN, VMAX, VABS, VNEG, VDIV, VSQRT, VSEL, VDOT4, VSHL, VSHR, VAND,
VOR and VXOR, of every type. With its sources full and passing the checks of tags and abandoned patterns, and its destination ready, the
instruction completes: each active lane is the computed one, marked as its source lanes are; other lanes are kept in a register and null in a
token; nothing else changes. -/
def Obligations.VectorArithmetic : Prop :=
  ∀ (s : State) (ty : VType) (o : Operands), Safety.Admitted Places.sites s o → ∀ x ∈ Safety.vectorClaims ty o,
    Safety.VectorSupplied s o x.fields x.tags x.fp32 (Safety.active s o) →
    ∃ t ls, exec x.instr s = .next t ∧ Safety.Retires s t [o.a, o.b, o.c] o.dst ∧
      Safety.VectorAt o.dst x.out (Safety.active s o) ls s t ∧
      ∀ i, ls.get i = Lane.combine (Safety.lanesAt s x.fields i) (.data (x.lane ((Safety.lanesAt s x.fields i).map Lane.pattern)))

/-- VCMP (R170): each active bit of the destination says whether both lanes are data and every element satisfies the condition; the other bits
are kept. -/
def Obligations.VectorCompare : Prop :=
  ∀ (s : State) (ty : VType) (o : Operands), Safety.Admitted Places.sites s o →
    Safety.VectorSupplied s o [(0, o.a), (1, o.b)] (fun _ => VType.tags ty) (ty == .f32) (Safety.active s o) →
    ∃ t v, exec (.vcmp ty o) s = .next t ∧ Safety.Retires s t [o.a, o.b, o.c] o.dst ∧ Safety.PredAt o.dst (Safety.active s o) v s t ∧
      ∀ i : Fin 64, bit v i = true ↔ ∃ a b, (vectorOf s o.a).get i = .data a ∧ (vectorOf s o.b).get i = .data b ∧
        ∀ j, j < (VType.fmt ty).perLane → elemHolds ty (Mod.cond o.mod) o.a o.b a b j = true

/-- VCVT (R70 to R72, R171, R172): the lanes that the part P reaches take the converted elements; other lanes are kept or null. -/
def Obligations.VectorConvert : Prop :=
  ∀ (s : State) (fd fs : Fmt) (o : Operands), Safety.Admitted Places.sites s o →
    Safety.VectorSupplied s o [(0, o.a)] (fun _ => [fs]) (fs == .fp32) (convActive fs fd (convPart o.b) (Safety.active s o)) →
    ∃ t ls, exec (.vcvt fd fs o) s = .next t ∧ Safety.Retires s t [o.a, o.b, o.c] o.dst ∧
      Safety.VectorAt o.dst fd (Safety.active s o &&& convMask fs fd (convPart o.b)) ls s t ∧
      ∀ i : Fin 64, ls.get i = convLane fd
        (fun x => convert fs fd (Mod.rounding o.mod) (Mod.sat o.mod) (negAbsElem fs (Field.neg o.a) (Field.abs o.a) x))
        (convElems fs fd (convPart o.b) i (vectorOf s o.a))

/-- The checks of vector sources (R139, R140, R164, R166): for each instruction of VectorArithmetic with its sources full, the first channel source
with a tag that it does not accept traps FMT with its number; else, where it reads FP32 numbers, the first source with an abandoned pattern in
an active data lane traps ABANDONED with its number. -/
def Obligations.VectorChecks : Prop :=
  ∀ (s : State) (ty : VType) (o : Operands), Safety.Admitted Places.sites s o → dstFaults s o.dst = .ok () →
    ∀ x ∈ Safety.vectorClaims ty o, (∀ f ∈ x.fields, emptyOn s f.2 = none) → ∀ (n : Nat) (f : Nat × Field), x.fields[n]? = some f →
      (¬ Safety.Tagged s f.2 (x.tags f.1) → (∀ g ∈ x.fields.take n, Safety.Tagged s g.2 (x.tags g.1)) →
        exec x.instr s = .next (takeTrap .fmt f.1 0 s)) ∧
      ((∀ g ∈ x.fields, Safety.Tagged s g.2 (x.tags g.1)) → x.fp32 = true → ¬ Safety.NoneAbandoned s f.2 (Safety.active s o) →
        (∀ g ∈ x.fields.take n, Safety.NoneAbandoned s g.2 (Safety.active s o)) → exec x.instr s = .next (takeTrap .abandoned f.1 0 s))

/-- MOVING LANES (R175, R177): VMOV, VBCAST, VINS, VSHUF, VCOMP, VEXP, VIOTA, VPOPC and VPFX complete with each written lane as the claim gives
it; other lanes are kept or null; nothing else changes. -/
def Obligations.LaneMoves : Prop :=
  ∀ (s : State) (o : Operands), Safety.Admitted Places.sites s o → Safety.Supplied s o → ∀ x ∈ Safety.moveClaims s o,
    ∃ t ls, exec x.instr s = .next t ∧ Safety.Retires s t [o.a, o.b, o.c] o.dst ∧ Safety.VectorAt o.dst .int32 x.written ls s t ∧
      ∀ i, bit x.written i.val = true → ls.get i = x.lane i

/-- REDUCTIONS, SCANS AND VEXT (R164, R166, R173, R175 to R177): VRED and VAMAX give the scalar of the active lanes, an error if one holds an
error and null if none holds data; VSCAN writes the running results; VEXT gives one lane as a scalar, and Error(6) for an index beyond 63. -/
def Obligations.Reductions : Prop :=
  ∀ (s : State) (o : Operands), Safety.Admitted Places.sites s o →
    let w := Field.control o.c
    let ls := vectorOf s o.a
    let mask := Safety.active s o
    let marked (v : W64) : Scalar := match Lane.firstErr ((Safety.lanesOf mask).map ls.get) with
      | some c => .err c
      | none => if ((Safety.lanesOf mask).map ls.get).any Lane.isData then .data v else .null
    (Safety.ReduceSupplied s o →
      (∃ t, exec (.vred o) s = .next t ∧ Safety.Retires s t [o.a, o.b, o.c] o.dst ∧
        Safety.ScalarAt o.dst (if Fmt.isFp (ctlType w) then .fp32 else .int32)
          (marked (redValue (ctlOp w) (ctlType w) (Mod.rounding o.mod) (Mod.sat o.mod) mask ls)) s t) ∧
      (∃ t, exec (.vamax o) s = .next t ∧ Safety.Retires s t [o.a, o.b, o.c] o.dst ∧
        Safety.ScalarAt o.dst .bf16 (marked (amax (ctlType w) mask ls)) s t) ∧
      (∃ t, exec (.vscan o) s = .next t ∧ Safety.Retires s t [o.a, o.b, o.c] o.dst ∧
        Safety.VectorAt o.dst (ctlType w) mask
          (vscan (ctlOp w) (ctlType w) (Mod.rounding o.mod) (Mod.sat o.mod) (ctlExcl w) mask ls) s t)) ∧
    (Safety.predicate s o = false → Safety.Skips (.vext o) s) ∧
    (Safety.predicate s o = true → Safety.Supplied s o →
      ∃ t, exec (.vext o) s = .next t ∧ Safety.Retires s t [o.a, o.b, o.c] o.dst ∧
        ((∃ (k : W64) (h : k.toNat < 64), scalarOf s o.b = .data k ∧
            Safety.ScalarAt o.dst .int32 (Lane.toScalar true (ls.get ⟨k.toNat, h⟩)) s t) ∨
          ((∀ k, scalarOf s o.b = .data k → 64 ≤ k.toNat) ∧ Safety.ScalarAt o.dst .int32 (.err 6) s t)))

/-! ### Tokens -/

/-- SENDING (R124, R178 to R181): SEND, SENDN and SENDE put one token into the send buffer of the channel that their control word names, with the
tag of field B where SQ is set and NEXTSEQ otherwise; NEXTSEQ then follows the tag. -/
def Obligations.Sending : Prop :=
  ∀ (s : State) (o : Operands), Safety.Admitted Places.sites s o →
    let w := Field.control o.c
    let out := sendOut w
    let tag : BitVec 12 := if bit w 8 then bits (Safety.pattern s o.b) 0 12 else (outOf s out).nextSeq
    let fmt := Fmt.ofCode (field w 0 3)
    let pay : Payload := if bit w 9 then .vector (Vector.replicate 64 .null) else .scalar .null
    let ended : W32 := match scalarOf s o.a with | .data x => bits x 0 32 | _ => 0
    ∀ x ∈ [(Instr.send o, fmt, sendPayload s o.a), (Instr.sendn o, fmt, pay), (Instr.sende o, Fmt.int32, Payload.control .endc ended)],
      (Safety.predicate s o = false → Safety.Skips x.1 s) ∧
      (Safety.predicate s o = true → Safety.Full s [o.a, o.b] → Safety.Room s (.o out) →
        ∃ t, exec x.1 s = .next t ∧ Safety.Retires s t [o.a, o.b, o.c] (.o out) ∧ Safety.Sent out x.2.1 x.2.2 tag s t)

/-- LOOKING AT CHANNELS (R121, R180): with a token at the head of field A's channel, DROP takes it; PEEK starts a producer that fills the
destination with what a read would supply, and TKIND one that fills it with the header, bit 32 set for a vector token; both leave the
token. -/
def Obligations.LookingAtChannels : Prop :=
  ∀ (s : State) (o : Operands) (c : Fin 32) (h : Token), Safety.Admitted Places.sites s o → Field.chan o.a = some c →
    headToken s c = some h →
    (Safety.predicate s o = false → Safety.Skips (.peek o) s ∧ Safety.Skips (.drop o) s ∧ Safety.Skips (.tkind o) s) ∧
    (Safety.predicate s o = true → Safety.Supplied s o →
      (∃ t, exec (.drop o) s = .next t ∧ Safety.Retires s t [o.a, o.b, o.c] .none ∧ t.agenda = s.agenda) ∧
      (∀ i, o.dst = .s i →
        (∃ t, exec (.peek o) s = .next t ∧ Safety.Starts s t [] o.dst (.ready (.scalar i (Token.scalar h))) none) ∧
        (∃ t, exec (.tkind o) s = .next t ∧ Safety.Starts s t [] o.dst
          (.ready (.scalar i (.data (BitVec.ofNat 64 ((Token.header h).toNat + if Token.isVector h then 2 ^ 32 else 0))))) none)) ∧
      (∀ i, o.dst = .v i → ∃ t, exec (.peek o) s = .next t ∧ Safety.Starts s t [] o.dst (.ready (.vector i (Token.vector h))) none))

/-- TILE PREDICATES (R183): QSET sets, and QCLR clears, the bits of the rectangle that field A names, none where it is not data; QTEST gives all ones
where bit b of a is 1, b below 64 and both data; QZERO clears every bit. -/
def Obligations.TilePredicates : Prop :=
  ∀ (s : State) (o : Operands), Safety.Admitted Places.sites s o →
    (Safety.predicate s o = false → ∀ i ∈ [Instr.qset o, .qclr o, .qtest o, .qzero o], Safety.Skips i s) ∧
    (Safety.predicate s o = true → Safety.Supplied s o →
      (∃ rect : W64, (∀ r c, r < 8 → c < 8 → (bit rect (8 * r + c) = true ↔ ∃ a, scalarOf s o.a = .data a ∧
          field a 0 3 ≤ r ∧ r ≤ field a 3 3 ∧ field a 8 3 ≤ c ∧ c ≤ field a 11 3)) ∧
        (∃ t, exec (.qset o) s = .next t ∧ Safety.Retires s t [o.a, o.b, o.c] o.dst ∧
          Safety.PredAt o.dst rect (BitVec.allOnes 64) s t) ∧
        (∃ t, exec (.qclr o) s = .next t ∧ Safety.Retires s t [o.a, o.b, o.c] o.dst ∧ Safety.PredAt o.dst rect 0 s t)) ∧
      (∃ t v, exec (.qtest o) s = .next t ∧ Safety.Retires s t [o.a, o.b, o.c] o.dst ∧
        Safety.PredAt o.dst (BitVec.allOnes 64) v s t ∧ (v = BitVec.allOnes 64 ∨ v = 0) ∧
        (v = BitVec.allOnes 64 ↔ ∃ a b, scalarOf s o.a = .data a ∧ scalarOf s o.b = .data b ∧ b.toNat < 64 ∧ bit a b.toNat = true)) ∧
      (∃ t, exec (.qzero o) s = .next t ∧ Safety.Retires s t [o.a, o.b, o.c] o.dst ∧
        Safety.PredAt o.dst (BitVec.allOnes 64) 0 s t))

/-! ### Exits and calls -/

/-- EXITS (R100 to R102, R150): XJ, XSEL and XIDX trap ILLOP on a malformed exit table before any source is read; otherwise, with their sources
full, they leave by exit 0, by the exit that the conditions choose, or by the exit that the index names, and the exit's number is shifted into
EXITHIST. -/
def Obligations.Exits : Prop :=
  ∀ (s : State) (o : Operands), Safety.Admitted Places.all s o →
    let n := Mod.exits o.mod
    let last := n - 1
    ∀ x ∈ [(Instr.xj o, 0), (Instr.xsel o, Safety.selExit (([o.a, o.b, o.c].take last).map (scalarOf s)) 0 last),
           (Instr.xidx o, match scalarOf s o.a with | .data w => min w.toNat last | _ => last)],
      (¬ Safety.TableOk s n → exec x.1 s = .next (takeTrap .illop 3 0 s)) ∧
      (Safety.TableOk s n → Safety.Supplied s o → x.2 ≤ last ∧
        ∃ t, exec x.1 s = .next t ∧ Safety.Leaves s t [o.a, o.b, o.c] (Safety.exitTo s x.2).toNat
          (((thread s).exitHist <<< 3) ||| BitVec.ofNat 30 x.2) (thread s).callStack)

/-- CALLS (R103, R151): XCALL pushes the target of exit 1 and takes exit 0, EXITHIST unchanged; a ninth nested call traps ILLOP. XRET pops the call
stack and goes on there; an empty stack traps ILLOP. -/
def Obligations.Calls : Prop :=
  ∀ (s : State) (o : Operands), Safety.Admitted Places.all s o →
    let n := Mod.exits o.mod
    (¬ Safety.TableOk s n ∨ 8 ≤ (thread s).callStack.length → exec (.xcall o) s = .next (takeTrap .illop 3 0 s)) ∧
    (Safety.TableOk s n → (thread s).callStack.length < 8 →
      ∃ t, exec (.xcall o) s = .next t ∧ Safety.Leaves s t [] (Safety.exitTo s 0).toNat (thread s).exitHist
        ((Safety.exitTo s 1).toNat :: (thread s).callStack)) ∧
    ((thread s).callStack = [] → exec (.xret o) s = .next (takeTrap .illop 3 0 s)) ∧
    (∀ pc r, (thread s).callStack = pc :: r →
      ∃ t, exec (.xret o) s = .next t ∧ Safety.Leaves s t [] pc (thread s).exitHist r)

/-! ### Loads and stores -/

/-- WHAT LOADS LEAVE ALONE (R215, R220, R221): LDB, LDBU, LDH, LDHU, LDW, LDWU, LDD, LDV, LDVS, LDVX and PREF, where they retire with a predicate
that holds, in every form. -/
def Obligations.LoadsChangeNoMemory : Prop :=
  ∀ (s t : State) (o : Operands),
    (∀ x ∈ Safety.scalarLoads o, predHolds (thread s).regs (Field.pred o.a) = true → exec x.1 s = .next t →
      Safety.Advanced (thread s) (thread t) → Safety.LoadFrame s t [o.a, o.b, o.c] o.dst) ∧
    (∀ i ∈ [Instr.ldv o, .ldvs o, .ldvx o, .pref o], predBits (thread s).regs (Field.pred o.a) ≠ 0 → exec i s = .next t →
      Safety.Advanced (thread s) (thread t) → Safety.LoadFrame s t [o.a, o.b, o.c] o.dst)

/-- SCALAR LOADS (R90, R97, R121, R131, R139, R190, R198, R213, R216, R218, R220 to R222, R268, R273, R276, R398, R420): LDB to LDD, on a site or a
controller. The address is a + b modulo 2^64; misaligned it traps ALIGN, and then an address that is not canonical, or that no extent serves, traps
EXTENT, and one in a window that nothing serves REMOTE_UNREACHABLE. From the local store, a bank, a home for a controller, or a host or fabric window
that answers at once, the bytes are read now and their value is on its way to the destination; from other memory, or behind an earlier access to the
bytes that is not performed, the destination is empty until the access is performed; on a page that is absent or not readable the access holds and
its fault is reported. An uncorrectable error in the line of such a miss is reported at once (R451; that the load waits meanwhile is the model's choice,
log 140). So LDB, LDBU, LDH, LDHU, LDW, LDWU and LDD each complete, with a next state whose result is given, in each of these places. -/
def Obligations.ScalarLoads : Prop :=
  ∀ (s : State) (o : Operands), Safety.MemIssues Places.all o s → Safety.MayIssue s → Safety.ScalarDst o.dst →
    ∀ a b, scalarOf s o.a = .data a → scalarOf s o.b = .data b → ∀ x ∈ Safety.scalarLoads o,
      let n := x.2.1
      let scope := Mod.scope o.mod
      let done (bs : List Byte) : Prop := ∃ t, exec x.1 s = .next t ∧ Safety.Fetches o.dst (.data (Safety.extended x.2.2 bs)) s t
      let outstanding : Prop := ∃ t, exec x.1 s = .next t ∧
        Safety.Issued (thread s) (thread t) o.dst
          (.load (intoOf o.dst x.2.2 (Vector.replicate 64 .null)) [{ lane := 0, va := a + b, bytes := n, got := none }] scope (Mod.evict o.mod))
          (if MemOrder.acquires (Mod.order o.mod) then some scope else none)
      ((a + b).toNat % n ≠ 0 → exec x.1 s = .next (takeTrap .align 3 0 s)) ∧
      ((a + b).toNat % n = 0 → canonical (a + b) = false → exec x.1 s = .next (takeTrap .extent 3 0 s)) ∧
      ((a + b).toNat % n = 0 → canonical (a + b) = true →
        (∀ off, translate s (a + b) n true false = .ok (.localStore off) → done (localRead s off n)) ∧
        (∀ pa, translate s (a + b) n true false = .ok (.mem pa) →
          (Safety.Unreachable s pa → exec x.1 s = .next (takeTrap .remoteUnreachable 3 0 s)) ∧
          (¬ Safety.Unreachable s pa →
            (bytesBusy s (a + b) n = true → (physKind pa = .far → exec x.1 s = .next s) ∧ (physKind pa ≠ .far → outstanding)) ∧
            (bytesBusy s (a + b) n = false →
              (performedAtIssue s pa scope = true →
                (∀ bs, readAtPlace s pa n (Scope.far scope) = .ok bs → done bs) ∧
                (∀ st, readAtPlace s pa n (Scope.far scope) = .error st → exec x.1 s = finish s (.error st))) ∧
              (performedAtIssue s pa scope = false → physKind pa = .far → ∀ k, s.cur = .task k →
                (∀ bs, hostLoad s k (a + b) pa n (Mod.evict o.mod) = .ok bs → done bs) ∧
                (∀ st, hostLoad s k (a + b) pa n (Mod.evict o.mod) = .error st → exec x.1 s = finish s (.error st))) ∧
              (performedAtIssue s pa scope = false → physKind pa ≠ .far → outstanding ∧
                ∀ k l, s.cur = .task k → curLaunch s = some l → l1Has s k.core pa n = false → lineBad s (pa / 128) = true →
                  ∃ t, exec x.1 s = .next t ∧ .uncorrectableError (.dramAgain pa l) ∈ t.agenda)))) ∧
        (∀ protect, translate s (a + b) n true false = .ok (.page protect) → ∀ k, s.cur = .task k →
          ∃ t, exec x.1 s = .next t ∧ Safety.Advanced (thread s) (thread t) ∧ (thread t).regs = Regs.markEmpty (thread s).regs o.dst ∧
            (∃ p ∈ (thread t).producers, p.id = (thread s).nextProducer ∧ p.held = true) ∧
            (faultKnown s (taskFault s k (a + b) protect .load 0xFFFFFFFF) = false →
              .faultRecord (taskFault s k (a + b) protect .load 0xFFFFFFFF) ∈ t.agenda)) ∧
        ∀ st, translate s (a + b) n true false = .error st → exec x.1 s = finish s (.error st))

/-- VECTOR LOADS (R97, R121, R215 to R218, R223): LDV, LDVS and LDVX. A predicate that selects no lane makes the instruction retire with no effect.
Otherwise, where every active lane with an address lies in the local store, the destination is on its way with the lanes read, the marks of indices
that are no data, and the old value of every other lane; where each lies in memory that the L1 serves, the destination is empty until every
access is performed. -/
def Obligations.VectorLoads : Prop :=
  ∀ (s : State) (o : Operands) (i : Fin 32), o.dst = .v i → ∀ x ∈ Safety.vectorLoads o,
    (Safety.Admitted Places.sites s o → predBits (thread s).regs (Field.pred o.a) = 0 → Safety.Skips x.1 s) ∧
    (Safety.LanesIssue o s → Safety.MayIssue s → ∀ a b idx, Safety.LaneSources s o x.2 a b idx →
      let mask := predBits (thread s).regs (Field.pred o.a)
      let old := ((thread s).regs.v.get i).lanes
      let lanes := Safety.laneAddresses x.2 mask a b idx
      Safety.LanesLegal s x.2 mask a b idx true false →
      ((∀ l ∈ lanes, ∃ off, translate s l.2 4 true false = .ok (.localStore off)) → ∃ t ls, exec x.1 s = .next t ∧
        Safety.Issued (thread s) (thread t) o.dst (.performed (.vector i ls)) none ∧
        ∀ j : Fin 64, (∀ l ∈ lanes, l.1 = j.val → ∀ off, translate s l.2 4 true false = .ok (.localStore off) →
            ls.get j = .data (BitVec.ofNat 32 (leNat (localRead s off 4)))) ∧
          ((∀ l ∈ lanes, l.1 ≠ j.val) → ls.get j = Safety.markedOld x.2 mask idx old j)) ∧
      (lanes ≠ [] → (∀ l ∈ lanes, ∃ pa, translate s l.2 4 true false = .ok (.mem pa) ∧ performedAtIssue s pa (Mod.scope o.mod) = false ∧
          physKind pa ≠ .far) → ∃ t ls, exec x.1 s = .next t ∧
        Safety.Issued (thread s) (thread t) o.dst
          (.load (.vector i ls) (lanes.map fun l => { lane := l.1, va := l.2, bytes := 4, got := none }) (Mod.scope o.mod) (Mod.evict o.mod))
          (if MemOrder.acquires (Mod.order o.mod) then some (Mod.scope o.mod) else none) ∧
        ∀ j : Fin 64, ls.get j = Safety.markedOld x.2 mask idx old j))

/-- SCALAR STORES (R1, R131, R139, R189, R196, R199, R204, R213, R216, R218, R220 to R222, R273, R275, R276, R398, R420): STB, STH, STW and STD, on a site
or a controller, of the low bytes of C. The address is a + b; misaligned it traps ALIGN, not canonical EXTENT, and in a window that nothing serves
REMOTE_UNREACHABLE. A store to the local store changes just its bytes. A store performed at its place (a bank's, a controller's) changes just its bytes
of memory. Another task's store changes just its bytes in the L1 of its core, registers the words that the core does not own, and changes no byte of
memory. On a page that is absent or not writable it goes to the side log, with its fault reported, and behind an entry there that overlaps it. The
registers stay as they are. So STB, STH, STW and STD each complete, with a next state that holds the bytes stored, in each of these places. -/
def Obligations.ScalarStores : Prop :=
  ∀ (s : State) (o : Operands), Safety.MemIssues Places.all o s → ∀ a b, scalarOf s o.a = .data a → scalarOf s o.b = .data b →
    Memory.wf s.mem = true → Memory.wf (Safety.localMem s) = true → ∀ x ∈ Safety.scalarStores o,
      let n := x.2
      let bs := Safety.storedBytes n (Safety.pattern s o.c)
      let logged (k : TaskKey) : Prop :=
        (512 ≤ (coreOf s k.core).sideLog.length → exec x.1 s = .next s) ∧
        ((coreOf s k.core).sideLog.length < 512 → ∃ t e, exec x.1 s = .next t ∧ Safety.JustAdvances s t ∧
          (∀ j, readByte t.mem j = readByte s.mem j) ∧ (coreOf t k.core).sideLog = (coreOf s k.core).sideLog ++ [e] ∧
          e.va = a + b ∧ e.content = bs.map some ∧ e.task = refOr s k ∧ e.maj = 0 ∧ .sideLogDrain k.core e.id ∈ t.agenda)
      ((a + b).toNat % n ≠ 0 → exec x.1 s = .next (takeTrap .align 3 0 s)) ∧
      ((a + b).toNat % n = 0 → canonical (a + b) = false → exec x.1 s = .next (takeTrap .extent 3 0 s)) ∧
      ((a + b).toNat % n = 0 → canonical (a + b) = true →
        (∀ st, translate s (a + b) n false true = .error st → exec x.1 s = finish s (.error st)) ∧
        (∀ pa, translate s (a + b) n false true = .ok (.mem pa) → Safety.Unreachable s pa → exec x.1 s = .next (takeTrap .remoteUnreachable 3 0 s)) ∧
        (loadOverlaps (thread s).producers (a + b) n = true → ∀ r, translate s (a + b) n false true = .ok r →
          (∀ pa, r = .mem pa → ¬ Safety.Unreachable s pa) → exec x.1 s = .next s) ∧
        (loadOverlaps (thread s).producers (a + b) n = false →
          (∀ off, translate s (a + b) n false true = .ok (.localStore off) → ∃ t, exec x.1 s = .next t ∧ Safety.JustAdvances s t ∧
            Safety.Took [o.a, o.b, o.c] s t ∧
            (∀ j, readByte (Safety.localMem t) j = if off ≤ j ∧ j < off + n then (bs)[j - off]?.getD 0 else readByte (Safety.localMem s) j) ∧
            (∀ j, readByte t.mem j = readByte s.mem j) ∧ t.homes = s.homes) ∧
          (∀ pa, translate s (a + b) n false true = .ok (.mem pa) → ¬ Safety.Unreachable s pa →
            (onSite s = false ∨ (∃ d i, physKind pa = .bank d i) → physKind pa ≠ .far →
              (∀ k, s.cur = .task k → logOverlaps s k (a + b) n = false) → (∃ d i, physKind pa = .bank d i) ∨ homeBusy s pa n = false →
              coreOwned s pa n = false → ∃ t, exec x.1 s = .next t ∧ Safety.JustAdvances s t ∧ Safety.MemoryWritten s t pa bs) ∧
            (∀ k, s.cur = .task k → logOverlaps s k (a + b) n = true → logged k) ∧
            (∀ k, s.cur = .task k → performedAtIssue s pa (Mod.scope o.mod) = false → logOverlaps s k (a + b) n = false →
              let c := k.core
              let line := pa / 128
              let given := victim (coreOf s c) line
              let mask := wordsOf (pa % 128) n
              ∃ t, exec x.1 s = .next t ∧ Safety.MemFrame Safety.coreBesidesStores s t [o.a, o.b, o.c] .none ∧
                Safety.Advanced (thread s) (thread t) ∧ (∀ c', c' ≠ c → coreOf t c' = coreOf s c') ∧
                (given = none → (∀ l, l ≠ line → l1Line (coreOf t c) l = l1Line (coreOf s c) l) ∧
                  Safety.LineStored (l1Line (coreOf s c) line) (l1Line (coreOf t c) line) (pa % 128) bs ∧
                  Safety.Registers s t c line (refOr s k) mask (mask &&& ~~~(l1Line (coreOf s c) line).owned)) ∧
                (∀ v, given = some v → (l1Line (coreOf s c) v).owned ≠ 0 →
                  .wb c v (l1Line (coreOf s c) v).content ((l1Line (coreOf s c) v).dirty &&& wordsToBytes (l1Line (coreOf s c) v).owned)
                    (l1Line (coreOf s c) v).owned ∈ t.agenda))) ∧
          ∀ protect, translate s (a + b) n false true = .ok (.page protect) → ∀ k, s.cur = .task k → logged k))

/-- VECTOR STORES (R97, R215 to R218, R223): STV, STVS and STVX. A predicate that selects no lane makes the instruction retire with no effect. Otherwise,
where every active lane with an address lies in the local store, each byte of it becomes that of the highest-numbered lane that covers it and
every other byte stays; where each lies in memory that the L1 serves, the instruction retires, and changes no byte of memory and no
register. -/
def Obligations.VectorStores : Prop :=
  ∀ (s : State) (o : Operands), Memory.wf (Safety.localMem s) = true → ∀ x ∈ Safety.vectorStores o,
    (Safety.Admitted Places.sites s o → predBits (thread s).regs (Field.pred o.a) = 0 → Safety.Skips x.1 s) ∧
    (Safety.LanesIssue o s → ∀ a b idx, Safety.LaneSources s o x.2 a b idx →
      let mask := predBits (thread s).regs (Field.pred o.a)
      let lanes := Safety.laneAddresses x.2 mask a b idx
      let bytesOf (l : Nat × W64) : List Byte :=
        Safety.storedBytes 4 ((Lane.pattern (((vectorOf s o.c).toList)[l.1]?.getD .null)).setWidth 64)
      Safety.LanesLegal s x.2 mask a b idx false true →
      (∀ l ∈ lanes, loadOverlaps (thread s).producers l.2 4 = false) →
      (∀ offs : List Nat, offs.length = lanes.length →
          (∀ (m : Nat) (l : Nat × W64) (f : Nat), lanes[m]? = some l → offs[m]? = some f → translate s l.2 4 false true = .ok (.localStore f)) →
        ∃ t, exec x.1 s = .next t ∧ Safety.JustAdvances s t ∧ Safety.Took [o.a, o.b, o.c] s t ∧ (∀ j, readByte t.mem j = readByte s.mem j) ∧
          ∀ j, readByte (Safety.localMem t) j = (Safety.lastWrite (offs.zip (lanes.map bytesOf)) j).getD (readByte (Safety.localMem s) j)) ∧
      ((∀ l ∈ lanes, ∃ pa, translate s l.2 4 false true = .ok (.mem pa) ∧ performedAtIssue s pa (Mod.scope o.mod) = false ∧
          ¬ Safety.Unreachable s pa ∧ (∀ k, s.cur = .task k → logOverlaps s k l.2 4 = false)) →
        ∃ t, exec x.1 s = .next t ∧ Safety.MemFrame Safety.coreBesidesStores s t [o.a, o.b, o.c] .none ∧
          Safety.Advanced (thread s) (thread t)))

/-- PREFETCH (R225): PREF completes in every case, with or without an active lane; it takes its tokens and asks for lines, and what it leaves alone
is as for a load. -/
def Obligations.Prefetch : Prop :=
  ∀ (s : State) (o : Operands), Safety.Admitted Places.sites s o →
    (predBits (thread s).regs (Field.pred o.a) = 0 → Safety.Skips (.pref o) s) ∧
    (predBits (thread s).regs (Field.pred o.a) ≠ 0 → Safety.Supplied s o →
      ∃ t, exec (.pref o) s = .next t ∧ Safety.JustAdvances s t ∧ Safety.LoadFrame s t [o.a, o.b, o.c] .none)

/-! ### Atomics, sync instructions and barriers -/

/-- ATOMICS AND BANK OPERATIONS (R139, R190, R199, R213, R216, R218, R220, R221, R226 to R228, R273, R275, R420): AMOADD to AMOCAS, on a site or a
controller, and BKADD to BKCNT, on a site. Misaligned they trap ALIGN, at an address that is not canonical EXTENT, a bank operation outside bank memory
EXTENT, in a window that nothing serves REMOTE_UNREACHABLE, and FP32 data that is abandoned ABANDONED with source 2. Otherwise the old value is on its
way to the destination, and the word holds the new one: in the local store; in a bank; at its home, for a controller or a scope beyond the core; or in
the task's L1, where the core owns the word's words and has their bytes, and where it does not, the task stays and asks for them. No other byte
changes. A miss in a line with an uncorrectable error reports that (R451, log 140). On an absent page the operation holds, or without a destination retires into the side log. So AMOADD, AMOADDF, AMOMIN, AMOMAX, AMOMINU,
AMOMAXU, AMOAND, AMOOR, AMOXOR, AMOSWAP, AMOCAS, BKADD, BKADDF, BKMAX, BKAXPY and BKCNT each complete, with a next state that holds the old value and
the new one. -/
def Obligations.Atomics : Prop :=
  ∀ (s : State) (o : Operands), Safety.MayIssue s → Safety.ScalarDst o.dst → Memory.wf s.mem = true →
    Memory.wf (Safety.localMem s) = true → ∀ x ∈ Safety.updateClaims o,
    Safety.MemIssues (if x.bank then Places.sites else Places.all) o s → ∀ ea cmp, Safety.UpdateSources s o x ea cmp →
      let n := x.bytes
      let c := Safety.pattern s o.c
      let word (bs : List Byte) : W64 := BitVec.ofNat 64 (leNat bs)
      let new (bs : List Byte) : List Byte := Safety.storedBytes n (x.new (word bs) cmp c)
      let abandons : Prop := Safety.DataAbandoned x o (scalarOf s o.c)
      (ea.toNat % n ≠ 0 → exec x.instr s = .next (takeTrap .align 3 0 s)) ∧
      (ea.toNat % n = 0 → canonical ea = false → exec x.instr s = .next (takeTrap .extent 3 0 s)) ∧
      (ea.toNat % n = 0 → canonical ea = true →
        (∀ st, translate s ea n true true = .error st → exec x.instr s = finish s (.error st)) ∧
        (∀ off, translate s ea n true true = .ok (.localStore off) →
          (x.bank = true → exec x.instr s = .next (takeTrap .extent 3 0 s)) ∧
          (x.bank = false → abandons → exec x.instr s = .next (takeTrap .abandoned 2 0 s)) ∧
          (x.bank = false → ¬ abandons → bytesBusy s ea n = true → exec x.instr s = .next s) ∧
          (x.bank = false → ¬ abandons → bytesBusy s ea n = false →
            ∃ t, exec x.instr s = .next t ∧ Safety.Fetches o.dst (.data (word (localRead s off n))) s t ∧ Safety.OthersKept s t ∧
              (∀ j, readByte t.mem j = readByte s.mem j) ∧
              ∀ j, readByte (Safety.localMem t) j =
                if off ≤ j ∧ j < off + n then (new (localRead s off n))[j - off]?.getD 0 else readByte (Safety.localMem s) j)) ∧
        (∀ pa, translate s ea n true true = .ok (.mem pa) →
          (x.bank = true → (∀ d i, physKind pa ≠ .bank d i) → exec x.instr s = .next (takeTrap .extent 3 0 s)) ∧
          (x.bank = false ∨ (∃ d i, physKind pa = .bank d i) →
            (Safety.Unreachable s pa → exec x.instr s = .next (takeTrap .remoteUnreachable 3 0 s)) ∧
            (¬ Safety.Unreachable s pa → abandons → exec x.instr s = .next (takeTrap .abandoned 2 0 s)) ∧
            (¬ Safety.Unreachable s pa → ¬ abandons → bytesBusy s ea n = true → exec x.instr s = .next s) ∧
            (¬ Safety.Unreachable s pa → ¬ abandons → bytesBusy s ea n = false →
              (∀ d i, physKind pa = .bank d i → ∃ t, exec x.instr s = .next t ∧
                Safety.Fetches o.dst (.data (word (readBytes s.mem pa n))) s t ∧ Safety.OthersKept s t ∧
                Safety.MemoryWritten s t pa (new (readBytes s.mem pa n))) ∧
              ((physKind pa ≠ .far ∨ ∃ d, farTarget s (curDie s) pa = .host d) → (∀ d i, physKind pa ≠ .bank d i) →
                (inL1 s (Mod.scope o.mod) = false → ownStoresFirst s pa n = .ok () → halfReady s pa true = true → homeBusy s pa n = false →
                  coreOwned s pa n = false → Safety.Sound s pa n →
                  ∃ t, exec x.instr s = .next t ∧ Safety.Fetches o.dst (.data (word (homeRead s pa n))) s t ∧ Safety.OthersKept s t ∧
                    Safety.MemoryWritten s t pa (new (homeRead s pa n))) ∧
                (∀ k, s.cur = .task k → inL1 s (Mod.scope o.mod) = true →
                  let l := l1Line (coreOf s k.core) (pa / 128)
                  let need := wordsOf (pa % 128) n
                  (l.owned &&& need = need → l1Has s k.core pa n = true → ∃ t, exec x.instr s = .next t ∧
                    Safety.Fetches o.dst (.data (word (l1Bytes s k.core pa n))) s t ∧ Safety.OthersKept s t ∧
                    l1Bytes t k.core pa n = new (l1Bytes s k.core pa n) ∧ ∀ j, readByte t.mem j = readByte s.mem j) ∧
                  (l.owned &&& need ≠ need ∨ l1Has s k.core pa n = false → lineBad s (pa / 128) = false → ∃ t, exec x.instr s = .next t ∧ thread t = thread s ∧
                    (∃ p ∈ (coreOf t k.core).readsOut, p.1 = pa / 128) ∧ ∀ j, readByte t.mem j = readByte s.mem j) ∧
                  (∀ d, (l.owned &&& need ≠ need ∨ l1Has s k.core pa n = false) → (∀ p ∈ (coreOf s k.core).readsOut, p.1 ≠ pa / 128) →
                    lineBad s (pa / 128) = true → curLaunch s = some d → ∃ t, exec x.instr s = .next t ∧ thread t = thread s ∧
                    .uncorrectableError (.dramAgain pa d) ∈ t.agenda))) ∧
              (∀ p, physKind pa = .far → farTarget s (curDie s) pa = .fabric p → ∃ t v, exec x.instr s = .next t ∧
                Safety.Fetches o.dst (.data v) s t ∧ Safety.OthersKept s t ∧ ∀ j, readByte t.mem j = readByte s.mem j)))) ∧
        ∀ protect, translate s ea n true true = .ok (.page protect) → ¬ abandons → ∀ k, s.cur = .task k →
          (∀ i, o.dst = .s i → ∃ t, exec x.instr s = .next t ∧ Safety.Advanced (thread s) (thread t) ∧
            (thread t).regs = Regs.markEmpty (thread s).regs o.dst ∧ (∀ j, readByte t.mem j = readByte s.mem j) ∧
            ∃ p ∈ (thread t).producers, p.id = (thread s).nextProducer ∧ p.held = true) ∧
          (o.dst = .none → (coreOf s k.core).sideLog.length < 512 → ∃ t e, exec x.instr s = .next t ∧ Safety.JustAdvances s t ∧
            (∀ j, readByte t.mem j = readByte s.mem j) ∧ (coreOf t k.core).sideLog = (coreOf s k.core).sideLog ++ [e] ∧
            e.va = ea ∧ e.operand = c ∧ .sideLogDrain k.core e.id ∈ t.agenda))

/-- BINDING REGIONS (R206, R230 to R232): BIND traps ILLOP on a length that is no data, 0 or 2^32 and above; it fills a free entry of the launch's region
table, whose number is on its way to the destination, and writes it into the sync word, VALUE unchanged; with no entry free, or on a controller, the
destination is to receive all ones. UNBIND traps ILLOP on an entry above 255, has no effect on a free one, and otherwise frees it and gives a sync
word that names it the index of no region. -/
def Obligations.RegionBinding : Prop :=
  ∀ (s : State) (o : Operands), Safety.SyncIssues o s → Memory.wf s.mem = true →
    ((∀ n, scalarOf s o.c = .data n → n.toNat = 0 ∨ 2 ^ 32 ≤ n.toNat) → exec (.bind o) s = .next (takeTrap .illop 3 0 s)) ∧
    (∀ a b n pa, scalarOf s o.a = .data a → scalarOf s o.b = .data b → scalarOf s o.c = .data n → 0 < n.toNat → n.toNat < 2 ^ 32 →
      Safety.ScalarDst o.dst → Safety.SyncWord s a pa → inWindow b = false → canonical b = true →
      (curLaunch s = none → ∃ t, exec (.bind o) s = .next t ∧ Safety.Delivers o.dst (.data (BitVec.allOnes 64)) s t) ∧
      (∀ l, curLaunch s = some l →
        (freeEntries (launchOf s l) = [] → ∃ t, exec (.bind o) s = .next t ∧ Safety.Delivers o.dst (.data (BitVec.allOnes 64)) s t ∧
          (launchOf t l).table = (launchOf s l).table ∧ ∀ j, readByte t.mem j = readByte s.mem j) ∧
        (freeEntries (launchOf s l) ≠ [] → coreOwned s pa 16 = false → ∃ t i, exec (.bind o) s = .next t ∧ i < 256 ∧ Tab.find? (launchOf s l).table i = none ∧
          Safety.Delivers o.dst (.data (BitVec.ofNat 64 i)) s t ∧
          Tab.find? (launchOf t l).table i = some { base := b, len := n.toNat, sync := a } ∧
          (∀ j, j ≠ i → Tab.find? (launchOf t l).table j = Tab.find? (launchOf s l).table j) ∧
          readBytes t.mem pa 8 = homeRead s pa 8 ∧ leNat (readBytes t.mem (pa + 8) 4) = i))) ∧
    (∀ i, scalarOf s o.a = .data i → 255 < i.toNat → exec (.unbind o) s = .next (takeTrap .illop 3 0 s)) ∧
    (∀ i k l, scalarOf s o.a = .data i → i.toNat ≤ 255 → s.cur = .task k → curLaunch s = some l →
      (Tab.find? (launchOf s l).table i.toNat = none → ∃ t, exec (.unbind o) s = .next t ∧ Safety.JustAdvances s t ∧
        t.launches = s.launches) ∧
      (∀ e pa, Tab.find? (launchOf s l).table i.toNat = some e → walkPa s (k.core / 4) (launchOf s l).space e.sync = some pa →
        homeOrdered s e.sync pa 16 = .ok () → pa % 16 = 0 → physKind (pa + 8) ≠ .far → (∀ d x, physKind (pa + 8) ≠ .bank d x) →
        homeBusy s (pa + 8) 4 = false → coreOwned s (pa + 8) 4 = false → Safety.Sound s (pa + 8) 4 → ∃ t, exec (.unbind o) s = .next t ∧ Safety.JustAdvances s t ∧
          (launchOf t l).table = Tab.del (launchOf s l).table i.toNat ∧
          (leNat (homeRead s (pa + 8) 4) = i.toNat → leNat (readBytes t.mem (pa + 8) 4) = 0xFFFFFFFF) ∧
          (leNat (homeRead s (pa + 8) 4) ≠ i.toNat → ∀ j, readByte t.mem j = readByte s.mem j)))

/-- ACQUIRE AND RELEASE OF A SYNC WORD (R199, R204 to R206, R230, R233, R420): ACQ traps OWNER_LOST where LOST is set; otherwise its destination receives
the old VALUE, and VALUE becomes old + b, b or old OR b, or stays, as OP says. REL, once the task's earlier accesses are performed and its stores in
the bound regions are registered, gives the old VALUE and makes VALUE b or old + b; until then it stays where it is, and a registration of them that
was lost makes it trap. An update of a word that a core owns makes its owner give it up first. -/
def Obligations.SyncAcquireRelease : Prop :=
  ∀ (s : State) (o : Operands), Safety.SyncIssues o s → Memory.wf s.mem = true → Safety.ScalarDst o.dst → ∀ a pa, scalarOf s o.a = .data a →
    Safety.SyncWord s a pa →
    let op := field (Field.control o.c) 0 2
    let b := Safety.pattern s o.b
    let old : W64 := BitVec.ofNat 64 (leNat (homeRead s pa 8))
    let lost := bit (homeByte s (pa + 12)) 0
    let acquired : W64 := if op = 1 then old + b else if op = 2 then b else old ||| b
    (lost = true → exec (.acq o) s = .next (takeTrap .ownerLost 3 0 s)) ∧
    (lost = false → op = 0 ∨ coreOwned s pa 8 = false → ∃ t, exec (.acq o) s = .next t ∧ Safety.Written o.dst (.data old) s t ∧
      (if op = 0 then ∀ j, readByte t.mem j = readByte s.mem j else Safety.MemoryWritten s t pa (Safety.storedBytes 8 acquired))) ∧
    (∀ k, s.cur = .task k →
      ((∃ g ∈ boundRegs s k a, g.lost = true) → exec (.rel o) s = .next (lostTrap s k)) ∧
      ((∀ g ∈ boundRegs s k a, g.lost = false) → relReady s k a = false → exec (.rel o) s = .next s)) ∧
    ((∀ k, s.cur = .task k → relReady s k a = true) →
      (coreOwned s pa 8 = false → ∃ t, exec (.rel o) s = .next t ∧ Safety.Written o.dst (.data old) s t ∧
        Safety.MemoryWritten s t pa (Safety.storedBytes 8 (if op = 1 then old + b else b))) ∧
      (coreOwned s pa 8 = true → ∃ t, exec (.rel o) s = .next t ∧ thread t = thread s ∧ t.mem = s.mem ∧
        ∀ d m, (d, m) ∈ ownersOf (homeLine s (pa / 128)) 16 → m &&& wordsIn (pa / 128) pa 8 ≠ 0 →
          .revoke d (pa / 128) (m &&& wordsIn (pa / 128) pa 8) ∈ t.agenda))

/-- INVALIDATION, WRITE-BACK AND FENCES (R198, R203, R230, R234, R235, R247, R398): INVR and INVA drop clean copies and nothing else; INVA, and a FENCE that
acquires beyond its core, leave none in the task's L1. WBR sends a WB for each line of its range with owned words and waits for their WBACKs in a
producer without destination; with no such line it just retires. A length that is no data, 0 or 2^32 and above traps ILLOP. On a controller they
just retire. -/
def Obligations.CacheControl : Prop :=
  ∀ (s : State) (o : Operands),
    (Safety.SyncIssues o s →
      ((∀ n, scalarOf s o.b = .data n → n.toNat = 0 ∨ 2 ^ 32 ≤ n.toNat) →
        exec (.invr o) s = .next (takeTrap .illop 3 0 s) ∧ exec (.wbr o) s = .next (takeTrap .illop 3 0 s)) ∧
      (∀ a n, scalarOf s o.a = .data a → scalarOf s o.b = .data n → 0 < n.toNat → n.toNat < 2 ^ 32 → canonical a = true →
        (∃ t, exec (.invr o) s = .next t ∧ Safety.CopiesFrame s t [o.a, o.b, o.c]) ∧
        (onSite s = false ∨ inWindow a = true → ∃ t, exec (.wbr o) s = .next t ∧ Safety.CopiesFrame s t [o.a, o.b, o.c]) ∧
        (∀ k, s.cur = .task k → inWindow a = false →
          let ps := pieces s (k.core / 4) (launchOf s (launchOfTask s k)).space a n.toNat
          let ls := ((coreOf s k.core).l1.map (·.1)).filter fun l => ownedIn s k.core l ps ≠ 0
          (ls = [] → ∃ t, exec (.wbr o) s = .next t ∧ Safety.CopiesFrame s t [o.a, o.b, o.c]) ∧
          (ls ≠ [] → ∃ t, exec (.wbr o) s = .next t ∧ Safety.Issued (thread s) (thread t) .none (.writeBack ls) none ∧
            Safety.OthersKept s t ∧ (∀ j, readByte t.mem j = readByte s.mem j) ∧ t.homes = s.homes ∧
            ∀ l ∈ ls, ∃ content dirty words, .wb k.core l content dirty words ∈ t.agenda)))) ∧
    (Safety.Admitted Places.all s o → Safety.GateOpen s .rlx .task →
      ∃ t, exec (.inva o) s = .next t ∧ Safety.CopiesFrame s t [] ∧ ∀ k, s.cur = .task k → Safety.NoCleanCopies (coreOf t k.core)) ∧
    (Safety.Admitted Places.all s o → Safety.GateOpen s (Mod.order o.mod) (Mod.scope o.mod) →
      (MemOrder.acquires (Mod.order o.mod) = true → ∀ p ∈ (thread s).producers, ProducerState.unperformed p.state = false) →
      ∃ t, exec (.fence o) s = .next t ∧ Safety.CopiesFrame s t [] ∧
        ∀ k, s.cur = .task k → MemOrder.acquires (Mod.order o.mod) = true → beyondCore s k (Mod.scope o.mod) = true →
          Safety.NoCleanCopies (coreOf t k.core))

/-- WAITING ON AN ADDRESS (R98, R216, R218, R236, R237; which width the comparand is read at is the model's reading, log 23): WAITA reads a doubleword, or a word
where its control word says so. Where the condition holds between the bytes read and the comparand it gives them and retires; otherwise a task waits
on the line, and a controller tries again. -/
def Obligations.WaitOnAddress : Prop :=
  ∀ (s : State) (o : Operands), Safety.MemIssues Places.all o s → Safety.ScalarDst o.dst → ∀ a off, scalarOf s o.a = .data a →
    let w := Field.control o.c
    let n := if bit w 4 then 4 else 8
    let bs := localRead s off n
    let m : W64 := BitVec.ofNat 64 (leNat bs)
    let holds : Bool := if bit w 4 then Cond.holds ((Cond.ofCode (field w 0 4)).getD .eq) (bits m 0 32) (bits (Safety.pattern s o.b) 0 32)
      else Cond.holds ((Cond.ofCode (field w 0 4)).getD .eq) m (Safety.pattern s o.b)
    (a.toNat % n ≠ 0 → exec (.waita o) s = .next (takeTrap .align 3 0 s)) ∧
    (a.toNat % n = 0 → canonical a = true → translate s a n true false = .ok (.localStore off) →
      (holds = true → ∃ t, exec (.waita o) s = .next t ∧ Safety.Written o.dst (.data m) s t ∧ Safety.OthersKept s t ∧
        ∀ j, readByte t.mem j = readByte s.mem j) ∧
      (holds = false → (onSite s = false → exec (.waita o) s = .next s) ∧
        ∀ k, s.cur = .task k → ∃ t e, exec (.waita o) s = .next t ∧ thread t = thread s ∧
          (taskOf t k).slot = .waiting (.waita (a.toNat / 128) e) ∧ .waitaTimeout k ∈ t.agenda)) ∧
    (a.toNat % n = 0 → canonical a = true → ∀ pa, translate s a n true false = .ok (.mem pa) → homeOrdered s a pa n = .ok () →
      ∀ bs', readAtPlace s pa n (Scope.far (Mod.scope o.mod)) = .ok bs' →
        let m' : W64 := BitVec.ofNat 64 (leNat bs')
        waitaHolds ((Cond.ofCode (field w 0 4)).getD .eq) (bit w 4) m' (Safety.pattern s o.b) = true →
        ∃ t, exec (.waita o) s = .next t ∧ Safety.Written o.dst (.data m') s t ∧ Safety.OthersKept s t ∧
          ∀ j, readByte t.mem j = readByte s.mem j)

/-- BARRIER GROUPS (R238 to R243): BARA and BARAW make a member arrive, and trap ILLOP for a task that is no member or has arrived; BARA gives the
generation it arrived in, and BARAW waits for it. BARW waits for a generation, and traps ILLOP for one to come or for a source that is no data. BARM
joins or leaves, at once before the generation has begun and otherwise at its completion. BARQ gives the arrivals, members and generation. No other
group, launch, register or byte of memory changes. -/
def Obligations.Barriers : Prop :=
  ∀ (s : State) (o : Operands) (r : TaskRef) (k : GroupKey), Safety.BarrierIssues o s r k → Safety.MayIssue s →
    Safety.ScalarDst o.dst →
    let g := groupOf s r.launch k
    let acq := if MemOrder.acquires (Mod.order o.mod) then some (Mod.scope o.mod) else none
    let kept (t : State) : Prop := Safety.OthersKept s t ∧ Safety.OnlyGroup r.launch k s t ∧ ∀ j, readByte t.mem j = readByte s.mem j
    let waits (t : State) (b : W32) : Prop := match o.dst with
      | .s i => Safety.Issued (thread s) (thread t) o.dst (.barrier k.idx k.gang b i) acq
      | _ => Safety.JustAdvances s t
    (g.members.contains r = false ∨ g.arrived.contains r = true →
      exec (.bara o) s = .next (takeTrap .illop 3 0 s) ∧ exec (.baraw o) s = .next (takeTrap .illop 3 0 s)) ∧
    (g.members.contains r = true → g.arrived.contains r = false →
      (∃ t, exec (.bara o) s = .next t ∧ Safety.Fetches o.dst (.data (g.gen.setWidth 64)) s t ∧ kept t ∧
        Safety.Arrived g (groupOf t r.launch k) r) ∧
      (∃ t, exec (.baraw o) s = .next t ∧ waits t g.gen ∧ kept t ∧ Safety.Arrived g (groupOf t r.launch k) r)) ∧
    ((∀ b, scalarOf s o.b = .data b → 0 < (bits b 0 32 - g.gen).toInt) → exec (.barw o) s = .next (takeTrap .illop 3 0 s)) ∧
    (∀ b, scalarOf s o.b = .data b →
      ((bits b 0 32 - g.gen).toInt ≤ 0 → ∃ t, exec (.barw o) s = .next t ∧ waits t (bits b 0 32) ∧ kept t ∧ t.launches = s.launches) ∧
      (∃ t, exec (.barm o) s = .next t ∧ Safety.JustAdvances s t ∧ kept t ∧
        (g.arrived = [] → (groupOf t r.launch k).pending = g.pending ∧
          ∀ m, m ∈ (groupOf t r.launch k).members ↔ (m ≠ r ∧ m ∈ g.members) ∨ (m = r ∧ bit b 0 = true)) ∧
        (g.arrived ≠ [] → (groupOf t r.launch k).members = g.members ∧ (groupOf t r.launch k).pending = g.pending ++ [(r, bit b 0)]))) ∧
    (∃ t, exec (.barq o) s = .next t ∧ t.launches = s.launches ∧ kept t ∧ ∃ v : W64, Safety.Fetches o.dst (.data v) s t ∧
      field v 0 32 = g.gen.toNat ∧ field v 32 15 = g.members.length % 2 ^ 15 ∧ field v 47 15 = g.arrived.length % 2 ^ 15 ∧
      bit v 62 = g.members.contains r ∧ bit v 63 = g.arrived.contains r)

/-! ### Control and bindings -/

/-- NOP, YIELD, WAIT AND DONE (R32, R49, R145, R148, R152 to R154): NOP has no effect, nor has YIELD on a controller; on a site YIELD puts the
site's turn at the task. WAIT retires with no effect where a token of a tag bound to the task is buffered, and otherwise the task waits. DONE, once the
task's producers and gather, scatter and intersect commands have completed, makes the task done, its retirement to come; until then it stays. -/
def Obligations.WaitingAndEnding : Prop :=
  ∀ (s : State) (o : Operands), Safety.Admitted Places.all s o →
    Safety.Skips (.nop o) s ∧ (Safety.predicate s o = false ∨ onSite s = false → Safety.Skips (.yield o) s) ∧
    ∀ k, s.cur = .task k →
      let x := siteOf s (TaskKey.siteKey k)
      (Safety.predicate s o = true → ∃ t, exec (.yield o) s = .next t ∧ Safety.JustAdvances s t ∧ Safety.OthersKept s t ∧
        (∀ j, readByte t.mem j = readByte s.mem j) ∧ (siteOf t (TaskKey.siteKey k)).lastIssued = k.slot ∧
        (∀ k', k' ≠ TaskKey.siteKey k → siteKeyNat k' ≠ siteKeyNat (TaskKey.siteKey k) → siteOf t k' = siteOf s k')) ∧
      (Safety.predicate s o = false → Safety.Skips (.wait o) s) ∧
      (Safety.predicate s o = true →
        ((∃ c, ∃ q ∈ (x.chans.get c).slots, (q.1.route, k.slot) ∈ x.bindings) → Safety.Skips (.wait o) s) ∧
        ((∀ c, ∀ q ∈ (x.chans.get c).slots, (q.1.route, k.slot) ∉ x.bindings) → exec (.wait o) s = .next (waitCur s .wait))) ∧
      ((thread s).producers = [] ∧ (∀ d ∈ s.dies, ∀ u ∈ d.2.units, u.2.issuer ≠ refOr s k) →
        ∃ t, exec (.done o) s = .next t ∧ (taskOf t k).slot = .done ∧ thread t = thread s ∧ Safety.OthersKept s t ∧
          t.agenda = s.agenda ++ [.taskRetire k] ∧ ∀ j, readByte t.mem j = readByte s.mem j) ∧
      ((thread s).producers ≠ [] ∨ (∃ d ∈ s.dies, ∃ u ∈ d.2.units, u.2.issuer = refOr s k) → exec (.done o) s = .next s)

/-- TAG BINDINGS (R30, R155): TBIND and TUNBIND trap ILLOP on a tag that is no data or above 1,022. TBIND of a tag that no task of the site holds adds
the binding, unless the task holds eight or the site 64, which traps ILLOP; of a tag that the task holds it changes nothing, and of another task's
traps ILLOP. TUNBIND takes away the task's binding of the tag, and no other. -/
def Obligations.TagBindings : Prop :=
  ∀ (s : State) (o : Operands) (k : TaskKey), Safety.Admitted Places.sites s o → s.cur = .task k →
    let x := siteOf s (TaskKey.siteKey k)
    let becomes (i : Instr) (bs : List (BitVec 10 × Nat)) : Prop := ∃ t, exec i s = .next t ∧ Safety.JustAdvances s t ∧ Safety.OthersKept s t ∧
      (∀ j, readByte t.mem j = readByte s.mem j) ∧ { siteOf t (TaskKey.siteKey k) with tasks := [] } = { x with bindings := bs, tasks := [] } ∧
      ∀ k', siteKeyNat k' ≠ siteKeyNat (TaskKey.siteKey k) → siteOf t k' = siteOf s k'
    (Safety.predicate s o = false → Safety.Skips (.tbind o) s ∧ Safety.Skips (.tunbind o) s) ∧
    (Safety.predicate s o = true → Safety.Supplied s o →
      ((∀ w, scalarOf s o.a = .data w → 1022 < w.toNat) →
        exec (.tbind o) s = .next (takeTrap .illop 3 0 s) ∧ exec (.tunbind o) s = .next (takeTrap .illop 3 0 s)) ∧
      ∀ w, scalarOf s o.a = .data w → w.toNat ≤ 1022 →
        let tag := BitVec.ofNat 10 w.toNat
        ((∀ b ∈ x.bindings, b.1 ≠ tag) →
          ((x.bindings.filter fun b => b.2 == k.slot).length < 8 ∧ x.bindings.length < 64 → becomes (.tbind o) (x.bindings ++ [(tag, k.slot)])) ∧
          (8 ≤ (x.bindings.filter fun b => b.2 == k.slot).length ∨ 64 ≤ x.bindings.length → exec (.tbind o) s = .next (takeTrap .illop 3 0 s))) ∧
        ((tag, k.slot) ∈ x.bindings → (∀ b ∈ x.bindings, b.1 = tag → b.2 = k.slot) → becomes (.tbind o) x.bindings) ∧
        ((∃ b ∈ x.bindings, b.1 = tag) → (∀ b ∈ x.bindings, b.1 = tag → b.2 ≠ k.slot) → exec (.tbind o) s = .next (takeTrap .illop 3 0 s)) ∧
        becomes (.tunbind o) (x.bindings.filter fun b => !(b.1 == tag && b.2 == k.slot)))

/-! ### The matrix engine's instructions -/

/-- TILE COMMANDS (R145, R255, R294, R313 to R321, R344, R345): MMA, MMAB, MMAS and MMAN. With a predicate that selects no effect they have none. A
descriptor that is none, or that fails the checks of reserved bits, ranges and nodes, traps ILLOP; then a misaligned one ALIGN, a base that is not
canonical or in the window EXTENT, and a wrong format FMT. Then, with its release met, a command waits in place for room in the slab's queue of four
and in the card window; at the slab a mode, predicate or accumulator format that does not fit traps FMT; and it is accepted: queued with a new card,
its mask read now, its destination empty until it completes. -/
def Obligations.TileCommands : Prop :=
  ∀ (s : State) (o : Operands) (k : TaskKey), Safety.Admitted Places.sites s o → s.cur = .task k →
    ∀ x ∈ [(Instr.mma o, TileForm.mma), (.mmab o, .mmab), (.mmas o, .mmas), (.mman o, .mman)],
      (tilePredicate s o = false → Safety.Skips x.1 s) ∧
      (tilePredicate s o = true → Safety.Supplied s o →
        ((∀ d, ¬ Safety.DescriptorIs (vectorOf s o.a) d) → exec x.1 s = .next (takeTrap .illop 3 0 s)) ∧
        ∀ d, Safety.DescriptorIs (vectorOf s o.a) d →
          let c := tileOf x.2 o.mod d (Regs.readQ (thread s).regs) (refOr s k) false
          let legal := TileCmd.reservedOk c && TileCmd.rangesOk c && TileCmd.nodesOk c s
          (legal = false → exec x.1 s = .next (takeTrap .illop 3 0 s)) ∧
          (legal = true → TileCmd.alignOk c = false → exec x.1 s = .next (takeTrap .align 3 0 s)) ∧
          (legal = true → TileCmd.alignOk c = true → TileCmd.basesOk c = false → exec x.1 s = .next (takeTrap .extent 3 0 s)) ∧
          (legal = true → TileCmd.alignOk c = true → TileCmd.basesOk c = true →
            (TileCmd.formatsOk c = false → exec x.1 s = .next (takeTrap .fmt 3 0 s)) ∧
            (TileCmd.formatsOk c = true → Safety.GateOpen s .rel .core →
              ∀ n, nodeAt s (refOr s k) (TileCmd.slabId c) = some n →
                let slab := slabOf s n.home n.idx
                let room : Prop := Slab.entries slab < 4 ∧ (coreOf s n.home).cards.length < 64
                (¬ room → exec x.1 s = .next s) ∧
                (room → acceptOk s slab c = false → exec x.1 s = .next (takeTrap .fmt 3 0 s)) ∧
                (room → acceptOk s slab c = true → ∃ t card, exec x.1 s = .next t ∧ Safety.Accepted o.dst s t ∧
                  Safety.EngineFrame n s t o.dst ∧ .cardBegin n.home (coreOf s n.home).nextCard ∈ t.agenda ∧
                  (coreOf t n.home).cards = (coreOf s n.home).cards ++ [card] ∧ card.id = (coreOf s n.home).nextCard ∧
                  card.launch = (refOr s k).launch ∧ card.writes = [] ∧ card.begun = false ∧ card.readsDone = false ∧
                  (n.idx < 4 → slabOf t n.home n.idx = { slab with queue := slab.queue ++ [.tile { c with
                    producer := if o.dst = .none then none else some (thread s).nextProducer, card := card.id, order := s.clock }] })))))

/-- CONFIGURING AND RELEASING (R294, R312, R314, R315, R325): MCFG, MVCFG and MTKCFG queue a configuration at the slab that field A names, waiting in place
while its queue holds four; MREL marks the accumulator node to be released. A node of the wrong kind, a word with a reserved bit or value, a field C that
the predicate does not read, and a NaN θ trap ILLOP. -/
def Obligations.SlabConfiguration : Prop :=
  ∀ (s : State) (o : Operands) (k : TaskKey), Safety.EngineIssues o s k →
    let traps (i : Instr) : Prop := exec i s = .next (takeTrap .illop 3 0 s)
    let queues (i : Instr) (n : NodeRef) (c : SlabCmd) (f : SlabCfg → SlabCfg) : Prop :=
      let x := slabOf s n.home n.idx
      (4 ≤ Slab.entries x → exec i s = .next s) ∧
      (Slab.entries x < 4 → ∃ t, exec i s = .next t ∧ Safety.JustAdvances s t ∧ Safety.EngineFrame n s t .none ∧
        (n.idx < 4 → slabOf t n.home n.idx = { x with queue := x.queue ++ [c], accepted := f x.accepted }))
    (Safety.NamesNone s k o.a [.slab] → traps (.mcfg o) ∧ traps (.mvcfg o) ∧ traps (.mtkcfg o)) ∧
    (Safety.NamesNone s k o.a [.acc] → traps (.mrel o)) ∧
    (∀ n, Safety.Names s k o.a [.acc] n → ∃ t, exec (.mrel o) s = .next t ∧ Safety.JustAdvances s t ∧ Safety.EngineFrame n s t .none ∧
      (n.idx < 16 → accOf t n.home n.idx = { accOf s n.home n.idx with forced := (accOf s n.home n.idx).forced ++ [s.clock] })) ∧
    ∀ n, Safety.Names s k o.a [.slab] n →
      (Safety.NamesNone s k o.b [.topk] → traps (.mtkcfg o)) ∧
      (∀ m, Safety.Names s k o.b [.topk] m → queues (.mtkcfg o) n (.mtkcfg m) fun c => { c with topk := some m }) ∧
      ((∀ w, scalarOf s o.b ≠ .data w) → traps (.mcfg o) ∧ traps (.mvcfg o)) ∧
      ∀ w, scalarOf s o.b = .data w →
        let mode := field w 0 2
        let d := field w 2 2
        (mode = 3 ∨ 16 ≤ w.toNat ∨ (d ≠ 0 ∧ mode ≠ 1) → traps (.mcfg o)) ∧
        (mode ≠ 3 → w.toNat < 16 → d = 0 ∨ mode = 1 → queues (.mcfg o) n (.mcfg mode d) fun c => { c with mode := mode, dcode := d }) ∧
        (3 ≤ w.toNat → traps (.mvcfg o)) ∧
        (w ≠ 1 → w.toNat < 3 → Field.zero o.c = false → traps (.mvcfg o)) ∧
        (Field.zero o.c = true →
          (w = 0 → queues (.mvcfg o) n (.mvcfg .sign negInf) fun c => { c with pred := some .sign, theta := negInf }) ∧
          (w = 2 → queues (.mvcfg o) n (.mvcfg .topk negInf) fun c => { c with pred := some .topk, theta := negInf })) ∧
        (w = 1 → (∀ θ, scalarOf s o.c = .data θ → (f32Val (bits θ 0 32)).isNan = true) → traps (.mvcfg o)) ∧
        (∀ θ, w = 1 → scalarOf s o.c = .data θ → (f32Val (bits θ 0 32)).isNan = false →
          queues (.mvcfg o) n (.mvcfg .ge (bits θ 0 32)) fun c => { c with pred := some .ge, theta := bits θ 0 32 })

/-- THRESHOLDS AND QUERIES (R307, R312, R316, R326, R327, R337): MTHR waits for the events that reached the node before it; then it traps ILLOP on a NaN or a value below the node's θ, has no effect on an equal one, and
makes a higher one θ and sends THRESH to every slab bound to the node. MRPR and MSTAT start a producer with the word of the node. -/
def Obligations.ThresholdsAndQueries : Prop :=
  ∀ (s : State) (o : Operands) (k : TaskKey), Safety.EngineIssues o s k →
    let traps (i : Instr) : Prop := exec i s = .next (takeTrap .illop 3 0 s)
    (Safety.NamesNone s k o.a [.topk] → traps (.mthr o)) ∧ (Safety.NamesNone s k o.a [.slab] → traps (.mrpr o)) ∧
    (Safety.NamesNone s k o.a [.slab, .acc, .topk] → traps (.mstat o)) ∧
    (∀ n v, Safety.Names s k o.a [.topk] n → scalarOf s o.b = .data v →
      let x := f32Val (bits v 0 32)
      let θ := f32Val (TopK.theta (topkOf s n.home n.idx))
      (topkBehind s n = true → exec (.mthr o) s = .next s) ∧ (topkBehind s n = false →
      (x.isNan = true ∨ Val.holds .lt x θ = true → traps (.mthr o)) ∧
      (Val.holds .eq x θ = true → Safety.Skips (.mthr o) s) ∧
      (Val.holds .gt x θ = true → ∃ t, exec (.mthr o) s = .next t ∧ Safety.JustAdvances s t ∧ Safety.OthersKept s t ∧ Safety.OnlyEngine n s t ∧
        (∀ j, readByte t.mem j = readByte s.mem j) ∧ (n.idx < 16 → TopK.theta (topkOf t n.home n.idx) = bits v 0 32) ∧
        ∀ p ∈ (topkOf s n.home n.idx).slabs, n.idx < 16 → .thresh p.1 p.2 (bits v 0 32) ∈ t.agenda))) ∧
      (∀ n, Safety.Names s k o.a [.slab] n → ∃ t w, exec (.mrpr o) s = .next t ∧ Safety.Delivers o.dst (.data w) s t ∧
        Safety.EngineFrame n s t o.dst ∧ slabOf t n.home n.idx = slabOf s n.home n.idx ∧
        let x := slabOf s n.home n.idx
        field w 0 32 = x.rowProg.toNat ∧ field w 34 30 = 0 ∧ bit w 32 = x.exec.isSome ∧ (bit w 33 = true ↔ ∃ e, x.exec = some e ∧ e.held = true)) ∧
      (∀ n, Safety.Names s k o.a [.slab, .acc, .topk] n → ∃ t w, exec (.mstat o) s = .next t ∧ Safety.Delivers o.dst (.data w) s t ∧
        Safety.EngineFrame n s t o.dst ∧
        (n.kind = .slab →
          let x := slabOf s n.home n.idx
          Slab.entries x < 8 → x.cfg.mode < 4 → x.cfg.dcode < 4 → (∀ m, x.cfg.topk = some m → nodeIdOf s (refOr s k) m < 16) →
          field w 0 3 = Slab.entries x ∧ field w 3 2 = x.cfg.mode ∧ field w 5 2 = x.cfg.dcode ∧ bit w 7 = x.cfg.pred.isSome ∧
          (∀ v, x.cfg.pred = some v → field w 8 2 = Verdict.code v) ∧ bit w 11 = x.cfg.topk.isSome ∧
          (∀ m, x.cfg.topk = some m → field w 12 4 = nodeIdOf s (refOr s k) m)) ∧
        (n.kind = .acc →
          let x := accOf s n.home n.idx
          field w 32 32 = x.items.toNat ∧ bit w 18 = x.releasing ∧ bit w 17 = x.bound.isSome ∧ field w 0 17 = x.endCount % 2 ^ 17) ∧
        (n.kind = .topk →
          let x := topkOf s n.home n.idx
          x.held.length ≤ 64 → field w 32 32 = (TopK.theta x).toNat ∧ field w 0 7 = x.held.length))

/-- READING VERDICTS (R63, R87, R305, R328, R329): VVRD classifies each active lane as a full sum, by the predicate, or as an abandoned pattern, by its
verdict bit where it is of the same predicate and as Error(2) otherwise; a marked lane stays as it is. A predicate register receives the verdicts, a
vector register the values, and a scalar register the number of active lanes whose verdict is 1. PRED above 2, a θ that is NaN or no data, a θ that is
not read, and a channel whose token is not FP32 trap. -/
def Obligations.ReadingVerdicts : Prop :=
  ∀ (s : State) (o : Operands) (w : W64), Safety.Admitted Places.sites s o → Safety.Full s [o.a, o.b] →
    (scalarOf s o.b = .data 1 → Safety.Full s [o.c]) → dstFaults s o.dst = .ok () → Safety.Room s o.dst →
    ((∀ x, scalarOf s o.b ≠ .data x) → exec (.vvrd o) s = .next (takeTrap .illop 3 0 s)) ∧
    (scalarOf s o.b = .data w →
      (3 ≤ w.toNat ∨ (w ≠ 1 ∧ Field.zero o.c = false) ∨
          (w = 1 ∧ ∀ θ, scalarOf s o.c = .data θ → (f32Val (bits θ 0 32)).isNan = true) → exec (.vvrd o) s = .next (takeTrap .illop 3 0 s)) ∧
      ∀ θ : W32, (w = 1 ∧ (∃ x, scalarOf s o.c = .data x ∧ bits x 0 32 = θ) ∧ (f32Val θ).isNan = false) ∨
          ((w = 0 ∨ w = 2) ∧ Field.zero o.c = true) →
        (¬ Safety.StrictlyTagged s o.a [.fp32] → exec (.vvrd o) s = .next (takeTrap .fmt 0 0 s)) ∧
        (Safety.StrictlyTagged s o.a [.fp32] → ∃ t bs ls, exec (.vvrd o) s = .next t ∧
          Safety.Retires s t (if w = 1 then [o.a, o.b, o.c] else [o.a, o.b]) o.dst ∧
          (∀ i, o.dst = .p i → Safety.PredAt o.dst (Safety.active s o) bs s t) ∧
          (∀ i, o.dst = .v i → Safety.VectorAt o.dst .fp32 (Safety.active s o) ls s t) ∧
          (∀ i, o.dst = .s i → Safety.ScalarAt o.dst .int32
            (.data (BitVec.ofNat 64 ((List.range 64).countP fun i => bit bs i && bit (Safety.active s o) i))) s t) ∧
          ∀ i : Fin 64, match (vectorOf s o.a).get i with
            | .data x =>
              if field x 20 12 = 0x7FD then
                if field x 16 3 = w.toNat then bit bs i = bit x 19 ∧ ls.get i = .data (roundF32 .rne (bf16Val (bits x 0 16)))
                else bit bs i = false ∧ ls.get i = .err 2
              else ls.get i = .data x ∧ bit bs i =
                if w = 0 then Val.holds .gt (f32Val x) (.fin false 0 0) else if w = 1 then Val.holds .ge (f32Val x) (f32Val θ)
                else !(f32Val x).isNan
            | l => bit bs i = false ∧ ls.get i = l))

/-- RANKING, AND THE MONITOR'S WIDTH (R63, R140, R303, R328, R330, R331): VTOPK gives the lane numbers of the candidate lanes in rank order, and null after
the last. VBND gives in each active data lane the width of the monitor, or the canonical NaN where P or Rem is NaN or Rem is negative. A token of a
wrong tag traps FMT with its field; a Gr that is no data or 2^24 and above ILLOP; an abandoned pattern in VBND ABANDONED. -/
def Obligations.RankingAndWidth : Prop :=
  ∀ (s : State) (o : Operands), Safety.Admitted Places.sites s o → Safety.Supplied s o →
    let mask := Safety.active s o
    let a := vectorOf s o.a
    let b := vectorOf s o.b
    (¬ Safety.StrictlyTagged s o.a [.fp32] → exec (.vtopk o) s = .next (takeTrap .fmt 0 0 s)) ∧
    (Safety.StrictlyTagged s o.a [.fp32] → ¬ Safety.StrictlyTagged s o.b [.fp32, .int32, .idx] →
      exec (.vtopk o) s = .next (takeTrap .fmt 1 0 s)) ∧
    (Safety.StrictlyTagged s o.a [.fp32] → Safety.StrictlyTagged s o.b [.fp32, .int32, .idx] →
      ∃ t ls, ∃ r : List (Fin 64), exec (.vtopk o) s = .next t ∧ Safety.Retires s t [o.a, o.b, o.c] o.dst ∧
        Safety.VectorAt o.dst .int32 (BitVec.allOnes 64) ls s t ∧
        (∀ i, i ∈ r ↔ ∃ x y, Safety.RankedLane mask a b i x y) ∧ r.Pairwise (Safety.RanksBefore a b) ∧
        ∀ j : Fin 64, ls.get j = match r[j.val]? with | some i => .data (BitVec.ofNat 32 i.val) | none => .null) ∧
    ((∀ g, scalarOf s o.c = .data g → 2 ^ 24 ≤ g.toNat) → exec (.vbnd o) s = .next (takeTrap .illop 3 0 s)) ∧
    ∀ g, scalarOf s o.c = .data g → g.toNat < 2 ^ 24 →
      (¬ Safety.StrictlyTagged s o.a [.fp32] → exec (.vbnd o) s = .next (takeTrap .fmt 0 0 s)) ∧
      (Safety.StrictlyTagged s o.a [.fp32] → ¬ Safety.StrictlyTagged s o.b [.fp32] → exec (.vbnd o) s = .next (takeTrap .fmt 1 0 s)) ∧
      (Safety.StrictlyTagged s o.a [.fp32] → Safety.StrictlyTagged s o.b [.fp32] →
        (¬ Safety.NoneAbandoned s o.a mask → exec (.vbnd o) s = .next (takeTrap .abandoned 0 0 s)) ∧
        (Safety.NoneAbandoned s o.a mask → ¬ Safety.NoneAbandoned s o.b mask → exec (.vbnd o) s = .next (takeTrap .abandoned 1 0 s)) ∧
        (Safety.NoneAbandoned s o.a mask → Safety.NoneAbandoned s o.b mask →
          ∃ t ls, exec (.vbnd o) s = .next t ∧ Safety.Retires s t [o.a, o.b, o.c] o.dst ∧ Safety.VectorAt o.dst .fp32 mask ls s t ∧
            ∀ i, ls.get i = Lane.combine [a.get i, b.get i] (.data (
              let p := Lane.pattern (a.get i)
              let rem := Lane.pattern (b.get i)
              if (f32Val p).isNan = true ∨ (f32Val rem).isNan = true ∨ Val.holds .lt (f32Val rem) (.fin false 0 0) = true then 0x7FC00000
              else Safety.monitorWidth g.toNat p rem))))

/-! ### Traps, system registers and controllers -/

/-- TRAPS, AND RETURNING FROM THEM (R139 to R141, R399, R414, R415, R452): a trap writes the trap state. A task with a handler goes on there in the Handler
state, and a controller at its trap vector; a task without one has its launch killed with error TRAP, and a task in its handler with DOUBLE_TRAP; a
leaf in its handler stops, and so does the global core, after whose first such stop the standby takes over. TRAP traps with its detail. ERET traps
ILLOP outside the Handler state, with a source that is neither 0 nor 1, and with 1 after a closing instruction; otherwise it restores the count and
goes on at the trapped word or after it. What the model itself settles in it is in logs 17 and 59. -/
def Obligations.TrapsAndReturns : Prop :=
  ∀ (s : State) (o : Operands),
    (∀ c fld detail, fld < 256 → detail < 65536 →
      let t := takeTrap c fld detail s
      let inHandler := (thread s).handler
      (inHandler = false → (∀ k, s.cur = .task k → (taskOf s k).hv = true) →
        Safety.TrapSaved s (thread t) c fld detail ∧ (thread t).handler = true ∧ (thread t).pc = Safety.handlerEntry s ∧
        (thread t).blockCount = 0 ∧ (thread t).producers = (thread s).producers ∧ Safety.OthersKept s t ∧
        ∀ j, readByte t.mem j = readByte s.mem j) ∧
      (∀ k, s.cur = .task k → inHandler = true ∨ (taskOf s k).hv = false →
        let l := (refOr s k).launch
        (∀ j, readByte t.mem j = readByte s.mem j) ∧
        ((launchOf s l).killed = false → (launchOf s l).state ≠ .complete → Safety.Killed s t l (if inHandler then 5 else 4)
          (if inHandler then 0 else Cause.code c))) ∧
      (∀ x, s.cur = .leaf x → inHandler = true → Safety.TrapSaved s (thread t) c fld detail ∧ (coreOf t x).leaf.running = false) ∧
      (s.cur = .global → inHandler = true →
        (s.glob.active = 0 → t.glob.active = 2 ∧ (thread t).regs = Regs.zero ∧ (thread t).handler = false ∧
          t.glob.ctl.running = s.glob.ctl.running) ∧
        (s.glob.active ≠ 0 → t.glob.ctl.running = false))) ∧
    (Safety.Admitted Places.all s o → Safety.predicate s o = false → Safety.Skips (.trap o) s ∧ Safety.Skips (.eret o) s) ∧
    (Safety.SystemIssues Places.all o s →
      (∀ w, scalarOf s o.a = .data w → exec (.trap o) s = .next (takeTrap .trap 3 (field w 0 16) s)) ∧
      ((∀ w, scalarOf s o.a ≠ .data w) → exec (.trap o) s = .next (takeTrap .trap 3 0xFFFF s)) ∧
      let x := thread s
      let closes : Prop := x.trap.addr < storeWords s.cur ∧ x.trap.count < 256 ∧ ∃ o', decode x.trap.word = .ok (.xj o') ∨ decode x.trap.word = .ok (.xsel o') ∨
        decode x.trap.word = .ok (.xidx o') ∨ decode x.trap.word = .ok (.xcall o') ∨ decode x.trap.word = .ok (.xret o') ∨
        decode x.trap.word = .ok (.done o') ∨ decode x.trap.word = .ok (.eret o') ∨ decode x.trap.word = .ok (.halt o')
      let returns (n : Nat) : Prop := ∃ t, exec (.eret o) s = .next t ∧ Safety.Elsewhere s t ∧ t.agenda = s.agenda ∧
        thread t = { x with handler := false, pc := x.trap.addr + n, blockCount := x.trap.count + n, stepOver := false }
      (x.handler = false ∨ (scalarOf s o.a ≠ .data 0 ∧ scalarOf s o.a ≠ .data 1) ∨ (scalarOf s o.a = .data 1 ∧ closes) →
        exec (.eret o) s = .next (takeTrap .illop 3 0 s)) ∧
      (x.handler = true → (scalarOf s o.a = .data 0 → returns 0) ∧ (scalarOf s o.a = .data 1 → ¬ closes → returns 1)))

/-- SYSTEM REGISTERS (R5, R6, R400, R401, R402, R414, R441): SYSRD and SYSWR trap ILLOP on an address that names no register. SYSRD starts a producer with
the register's value, or with zero, and a count, where its feature is not in force; but for the registers whose read takes, nothing else changes.
SYSWR sets the bits of an RW register and reads back so, the others 0; clears the bits written as 1 of a W1C register; has no effect on a read-only
register; and is only counted where its feature is not in force. A source of SYSWR that is no data traps ILLOP. That TRCSTAT's triggered bit is set by a 1
while the trace records, and cleared by a 0, is the model's reading (log 138). -/
def Obligations.SystemRegisters : Prop :=
  ∀ (s : State) (o : Operands),
    (Safety.Admitted Places.controllers s o → Safety.predicate s o = false → Safety.Skips (.sysrd o) s ∧ Safety.Skips (.syswr o) s) ∧
    (Safety.SystemIssues Places.controllers o s →
      ((∀ r, ¬ Safety.NamesReg s o.a r) →
        exec (.sysrd o) s = .next (takeTrap .illop 3 0 s) ∧ exec (.syswr o) s = .next (takeTrap .illop 3 0 s)) ∧
      ∀ r, Safety.NamesReg s o.a r →
        ((∀ w, scalarOf s o.b ≠ .data w) → exec (.syswr o) s = .next (takeTrap .illop 3 0 s)) ∧
        (∃ t, exec (.sysrd o) s = .next t ∧ Safety.OthersKept s t ∧ (∀ j, readByte t.mem j = readByte s.mem j) ∧ t.launches = s.launches ∧
          Safety.Delivers o.dst (.data (if denied s r false then 0 else readReg s r)) s t ∧
          (denied s r false = false → t.dbg = s.dbg ∧
            (Safety.readTakes r = false → Safety.globRest t.glob = Safety.globRest s.glob ∧ t.dies = s.dies ∧ t.sites = s.sites ∧
              ∀ c, Safety.coreRest (coreOf t c) = Safety.coreRest (coreOf s c)))) ∧
        ∀ w, scalarOf s o.b = .data w →
          (denied s r true = true → ∃ t, exec (.syswr o) s = .next t ∧ Safety.JustAdvances s t ∧ Safety.OthersKept s t ∧ t.mem = s.mem ∧
            (r ≠ .dbgData → readReg t r = readReg s r) ∧ (s.dbg.deny ≠ BitVec.allOnes 64 → t.dbg.deny = s.dbg.deny + 1)) ∧
          (denied s r true = false →
            (∀ lo hi, Safety.rwBits r = some (lo, hi) → ∃ t, exec (.syswr o) s = .next t ∧ Safety.JustAdvances s t ∧ Safety.OthersKept s t ∧
              t.mem = s.mem ∧ t.launches = s.launches ∧ readReg t r = BitVec.ofNat 64 (field w lo (hi + 1 - lo) * 2 ^ lo)) ∧
            (∀ c, r = .events ∨ r = .levents c ∨ r = .brkStat → ∃ t, exec (.syswr o) s = .next t ∧ Safety.JustAdvances s t ∧
              Safety.OthersKept s t ∧ t.mem = s.mem ∧ readReg t r = readReg s r &&& ~~~w) ∧
            (r = .trcStat → ∃ t, exec (.syswr o) s = .next t ∧ Safety.JustAdvances s t ∧ Safety.OthersKept s t ∧ t.mem = s.mem ∧
              bit t.dbg.trcStat 0 = bit w 0 ∧ bit t.dbg.trcStat 2 = bit w 2 ∧
              bit t.dbg.trcStat 1 = (bit w 1 && (bit w 0 || bit s.dbg.trcStat 1))) ∧
            (Safety.readOnly r = true → ∃ t, exec (.syswr o) s = .next t ∧ Safety.NoEffect s t) ∧
            (r = .resetCtl → (bit w 1 = true → exec (.syswr o) s = exec .coldStart s) ∧
              (bit w 1 = false → bit w 0 = true → exec (.syswr o) s = exec .warmStart s))))

/-- HALT AND IDLE (R414, R416, R452): HALT stops the controller, with a RAS record or, where the ring is full, its drop counted. IDLE waits, idle, while
no event bit is set, and otherwise gives the events. -/
def Obligations.HaltAndIdle : Prop :=
  ∀ (s : State) (o : Operands), Safety.SystemIssues Places.controllers o s →
    let events := match s.cur with | .leaf c => (coreOf s c).block.levents | _ => s.glob.events
    let running (t : State) : Bool := match s.cur with | .leaf c => (coreOf t c).leaf.running | _ => t.glob.ctl.running
    let idle (t : State) : Bool := match s.cur with | .leaf c => (coreOf t c).leaf.idle | _ => t.glob.ctl.idle
    (∃ t, exec (.halt o) s = .next t ∧ running t = false ∧ thread t = thread s ∧ Safety.OthersKept s t ∧
      (t.dbg.rasTail = BitVec.ofNat 64 ((field s.dbg.rasTail 0 13 + 1) % 8192) ∨
        (t.dbg.rasTail = s.dbg.rasTail ∧ (s.dbg.rasDrop ≠ BitVec.allOnes 64 → t.dbg.rasDrop = s.dbg.rasDrop + 1)))) ∧
    (events = 0 → ∃ t, exec (.idle o) s = .next t ∧ idle t = true ∧ thread t = thread s ∧ t.mem = s.mem ∧ Safety.OthersKept s t) ∧
    (events ≠ 0 → ∃ t, exec (.idle o) s = .next t ∧ Safety.Delivers o.dst (.data events) s t ∧ t.mem = s.mem ∧ Safety.OthersKept s t)

/-- CHILD LAUNCHES (R46, R47, R258, R407, R417; that the reservation waits for TAIL is the model's reading, log 31): LQSEND traps ILLOP on a packet that
breaks R407 and on a queue number that is no data. Its destination receives one code where the queue is none of the launch's task queues, where the
launch has 65,535 children, and, once its release is met, where the ring is full; otherwise the packet stands in its slot with the launch as its parent, RESV and TAIL have gone
up by one, the launch and the task have one child more, and the destination receives the count. LQWAIT's destination fills once the task's children so far are complete,
and the task waits on it. When QUEUE, LIMIT and FULL come is the model's reading too (log 111). -/
def Obligations.ChildLaunches : Prop :=
  ∀ (s : State) (o : Operands) (k : TaskKey), Safety.SystemIssues Places.sites o s → s.cur = .task k →
    (∀ i, o.dst = .s i → ∃ t u, exec (.lqwait o) s = .next t ∧ t = waitCur u (.register o.dst) ∧
      Safety.Starts s u [] o.dst (.children ((taskOf s k).children.map (·.id)) i) (some .system)) ∧
    ((∀ i, o.dst ≠ .s i) → Safety.Skips (.lqwait o) s) ∧
    (((∀ d, ¬ Safety.DescriptorIs (vectorOf s o.a) d) ∨ ∀ q, scalarOf s o.b ≠ .data q) → exec (.lqsend o) s = .next (takeTrap .illop 3 0 s)) ∧
    ∀ d q, Safety.DescriptorIs (vectorOf s o.a) d → scalarOf s o.b = .data q →
      let p := d.flatMap fun w => Safety.storedBytes 4 (w.setWidth 64)
      let l := (refOr s k).launch
      let pa := s.glob.qtBase.toNat + 64 * q.toNat
      let b := qcbOf s q.toNat
      let code (v : W64) : Prop := ∃ t, exec (.lqsend o) s = .next t ∧ Safety.Delivers o.dst (.data v) s t ∧ Safety.OthersKept s t ∧
        t.launches = s.launches ∧ t.mem = s.mem
      (packetOk p false = false → exec (.lqsend o) s = .next (takeTrap .illop 3 0 s)) ∧
      (packetOk p false = true → refOf s k ≠ none →
        (s.glob.qtSize.toNat ≤ q.toNat → code 0xC000000000000000) ∧
        (q.toNat < s.glob.qtSize.toNat → placeReady s pa 64 true true = .ok () →
          let mine : Prop := bit b.flags 0 = true ∧ bit b.flags 1 = true ∧ b.space = (launchOf s l).space
          (¬ mine → code 0xC000000000000000) ∧
          (mine → 65535 ≤ (launchOf s l).childrenLive → code 0x8000000000000000) ∧
          (mine → (launchOf s l).childrenLive < 65535 → Safety.GateOpen s .rel .system →
            (2 ^ min b.log2n 16 ≤ (b.resv - b.head).toNat → code 0x4000000000000000) ∧
            ((b.resv - b.head).toNat < 2 ^ min b.log2n 16 → b.tail ≠ b.resv → exec (.lqsend o) s = .next s) ∧
            ((b.resv - b.head).toNat < 2 ^ min b.log2n 16 → b.tail = b.resv →
              let slot := b.rbase + 64 * (b.resv.toNat % 2 ^ min b.log2n 16)
              Memory.wf s.mem = true → pa % 64 = 0 → slot + 64 ≤ pa ∨ pa + 64 ≤ slot → placeReady s slot 64 true true = .ok () →
              physKind slot ≠ .far →
              ∃ t, exec (.lqsend o) s = .next t ∧ Safety.Delivers o.dst (.data (BitVec.ofNat 64 (b.resv.toNat % 2 ^ 32))) s t ∧
                Safety.OthersKept s t ∧ readBytes t.mem slot 32 = p.take 32 ∧ leNat (readBytes t.mem (slot + 32) 4) = l % 2 ^ 32 ∧
                readBytes t.mem (slot + 36) 28 = p.drop 36 ∧ leNat (readBytes t.mem (pa + 24) 8) = (b.resv + 1).toNat ∧
                leNat (readBytes t.mem (pa + 32) 8) = (b.resv + 1).toNat ∧
                (launchOf t l).childrenLive = (launchOf s l).childrenLive + 1 ∧
                (taskOf t k).children = (taskOf s k).children ++
                  [{ id := q.toNat * 2 ^ 64 + b.resv.toNat, complete := false, error := false }]))))

/-- SPACES, PRE-EMPTION AND PLACEMENT (R20, R26, R33, R53, R58, R128, R270, R402, R413, R414, R416): GENBUMP increases GEN of a space by one and gives it; SPFLUSH takes every
entry of a space out of the TLBs and page lists; both trap ILLOP on a space that is no data or above 65,535. PREEMPT gives 1 for a launch that is not
resident, 2 for one whose regions have all retired, and otherwise asks for its pre-emption, its destination empty until then. CFGPUSH traps ILLOP on a
handle that is unknown or not a rectangle of R26 and on a misaligned image; gives 1 where the launch is killed; waits until the region's sites, its engine
nodes and its barrier groups are free, and while it would take what a gang that has begun to be placed needs; and otherwise places the region, whose sites are its own and asleep until they are woken. What the model itself settles in it is in logs 36, 82 and 101. -/
def Obligations.SpacesAndPlacement : Prop :=
  ∀ (s : State) (o : Operands),
    (Safety.SystemIssues Safety.onGlobalOnly o s → Memory.wf s.mem = true →
      ((∀ w, scalarOf s o.a = .data w → 65536 ≤ w.toNat) →
        exec (.genbump o) s = .next (takeTrap .illop 3 0 s) ∧ exec (.spflush o) s = .next (takeTrap .illop 3 0 s)) ∧
      ∀ w, scalarOf s o.a = .data w → w.toNat < 65536 →
        (∃ t, exec (.genbump o) s = .next t ∧
          ((∀ p ∈ s.launches, p.2.space = w.toNat → p.2.saved = none) → Safety.OthersKept s t) ∧
          Safety.Delivers o.dst (.data (BitVec.ofNat 64 (spaceGen t 0 w.toNat))) s t ∧
          ∀ base, (∀ d, d < 4 → (dieOf s d).sptBase = base) →
            let a := base.toNat / 4096 * 4096 + 16 * w.toNat + 8
            readByte t.mem a = homeByte s a + 1) ∧
        (∃ t, exec (.spflush o) s = .next t ∧ Safety.JustAdvances s t ∧ t.mem = s.mem ∧
          (∀ d, (dieOf t d).tlb = (dieOf s d).tlb.filter fun e => e.space != w.toNat) ∧
          ∀ k, (taskOf t k).thread = (taskOf s k).thread ∧ (taskOf t k).extents = (taskOf s k).extents.map fun e =>
            if e.space = w.toNat then { e with granules := [] } else e)) ∧
    (Safety.SystemIssues Places.controllers o s →
      ((∀ w, scalarOf s o.a ≠ .data w) → exec (.preempt o) s = .next (takeTrap .illop 3 0 s)) ∧
      ∀ w, scalarOf s o.a = .data w →
        let l := w.toNat
        (Tab.find? s.launches l = none → ∃ t, exec (.preempt o) s = .next t ∧ Safety.Delivers o.dst (.data 1) s t ∧ t.launches = s.launches) ∧
        ∀ a, Tab.find? s.launches l = some a →
          (a.regions ≠ [] → (∀ g ∈ a.regions, g.retired = true) → ∃ t, exec (.preempt o) s = .next t ∧ Safety.Delivers o.dst (.data 2) s t ∧
            t.launches = s.launches) ∧
          (a.regions = [] ∨ (∃ g ∈ a.regions, g.retired = false) →
            ((∀ g ∈ a.regions, g.placed = false) → ∃ t, exec (.preempt o) s = .next t ∧ Safety.Delivers o.dst (.data 1) s t ∧
              t.launches = s.launches) ∧
            ((∃ g ∈ a.regions, g.placed = true) → ∃ t, exec (.preempt o) s = .next t ∧ Safety.Accepted o.dst s t ∧ Safety.OthersKept s t ∧
              (∀ j, readByte t.mem j = readByte s.mem j) ∧ .preemptSave l ∈ t.agenda ∧
              launchOf t l = { a with preempt := true, preemptProducers :=
                a.preemptProducers ++ if o.dst = .none then [] else [(s.cur, (thread s).nextProducer)] }))) ∧
    (∀ c, s.cur = .leaf c → Safety.SystemIssues Safety.onLeavesOnly o s →
      (((∀ a, scalarOf s o.a ≠ .data a) ∨ ∀ h, scalarOf s o.b ≠ .data h) → exec (.cfgpush o) s = .next (takeTrap .illop 3 0 s)) ∧
      ∀ pa h, scalarOf s o.a = .data pa → scalarOf s o.b = .data h →
        (Tab.find? (coreOf s c).block.regions h.toNat = none → exec (.cfgpush o) s = .next (takeTrap .illop 3 0 s)) ∧
        ∀ r, Tab.find? (coreOf s c).block.regions h.toNat = some r →
          let x0 := field r.pos 0 4
          let y0 := field r.pos 4 4
          let w := field r.pos 8 4 + 1
          let n := field r.pos 12 4 + 1
          let l := field r.lid 0 32
          let legal := h.toNat ≤ 63 ∧ bit r.pos 16 = true ∧ pa.toNat % 64 = 0 ∧ rectangleOk x0 y0 w n = true
          let spot (x y : Nat) : SiteKey := siteAt { Region.unplaced w n 0 0 with die := c / 4, x0 := x0, y0 := y0 } x y
          (¬ legal → exec (.cfgpush o) s = .next (takeTrap .illop 3 0 s)) ∧
          (legal → (launchOf s l).killed = true → ∃ t, exec (.cfgpush o) s = .next t ∧ Safety.Delivers o.dst (.data 1) s t ∧ t.sites = s.sites) ∧
          (legal → (launchOf s l).killed = false →
            let u := placeRegion (engineProducer s o.dst).1 c h.toNat r pa (engineProducer s o.dst).2
            ((∃ x y, x < w ∧ y < n ∧ (siteOf s (spot x y)).owner ≠ none) → exec (.cfgpush o) s = .next s) ∧
            (handleFree s c h.toNat r = false ∨ gangsFit u = false → exec (.cfgpush o) s = .next s) ∧
            (handleFree s c h.toNat r = true → gangsFit u = true → ∃ t i g, exec (.cfgpush o) s = .next t ∧ Safety.Accepted o.dst s t ∧
              regionOf t l i = some g ∧ g.placed = true ∧ g.die = c / 4 ∧ g.x0 = x0 ∧ g.y0 = y0 ∧ g.w = w ∧ g.h = n ∧ g.leaf = c ∧
              g.handle = h.toNat ∧ g.imagePa = pa.toNat ∧ .siteWake l i ∈ t.agenda ∧
              (∀ m ∈ g.assigned, nodeUnused (placedRegions s []) m = true ∧ NodeRef.takes (launchOf t l).allowDeg m = true) ∧ (∀ k ∈ Region.cores g, coreGroups (placedRegions s []) k < 256) ∧
              (∀ x y, x < w → y < n → siteOf t (spot x y) = { Site.gated with owner := some { launch := l, region := i, x := x, y := y } }) ∧
              ∀ j, readByte t.mem j = readByte s.mem j)))

/-! ### Copy channels, transaction barriers and fabric-interface units -/

/-- COPY CHANNELS (R255, R334, R335, R339, R340, R351, R352): CPHEAD traps ILLOP on a descriptor with a reserved bit set or a node that is no copy channel,
then ALIGN and EXTENT on a bad record address. An idle channel starts to walk; a busy one takes the chain into its head register, and the task waits
while that is full; a stopped one does nothing. CPSTAT gives the channel word. CPSTOP gives it as it stood, empties the head register, and makes the
channel idle, but one whose sectors are not all landed goes on to its end first. What the model itself settles in it is in log 83. -/
def Obligations.CopyChannels : Prop :=
  ∀ (s : State) (o : Operands) (k : TaskKey), Safety.EngineIssues o s k →
    let traps (i : Instr) (c : Cause) : Prop := exec i s = .next (takeTrap c 3 0 s)
    let word (x : CopyChan) (w : W64) : Prop := field w 0 3 = ChanState.code x.state ∧ bit w 3 = x.head.isSome ∧ field w 4 3 = 0 ∧
      bits w 7 57 = match x.cur with | some h => if x.state = .idle then 0 else bits h.addr 7 57 | none => 0
    ((∀ d, ¬ Safety.DescriptorIs (vectorOf s o.a) d) → traps (.cphead o) .illop) ∧
    (∀ d, Safety.DescriptorIs (vectorOf s o.a) d →
      let id := (dlane d 0).toNat
      let va := daddr d 1
      (16 ≤ id ∨ (∃ i, 3 ≤ i ∧ dlane d i ≠ 0) → traps (.cphead o) .illop) ∧
      (id < 16 → (∀ i, 3 ≤ i → dlane d i = 0) →
        ((∀ n, nodeAt s (refOr s k) id = some n → n.kind ≠ .copych) → traps (.cphead o) .illop) ∧
        ∀ n, nodeAt s (refOr s k) id = some n → n.kind = .copych →
          (va.toNat % 128 ≠ 0 → traps (.cphead o) .align) ∧
          (va.toNat % 128 = 0 → (canonical va = false ∨ (inWindow va = true ∧ inStore va = false)) → traps (.cphead o) .extent) ∧
          (va.toNat % 128 = 0 → canonical va = true → (inWindow va = true → inStore va = true) → Safety.GateOpen s .rel .core →
            let x := copyOf s n.home n.idx
            let becomes (f : Head → CopyChan) : Prop := ∃ t h, exec (.cphead o) s = .next t ∧ Safety.JustAdvances s t ∧
              Safety.EngineFrame n s t .none ∧ h.addr = va ∧ h.issuer = refOr s k ∧ (∀ i, h.tiles.get i = Regs.readQ (thread s).regs i) ∧
              (n.idx < 2 → copyOf t n.home n.idx = f h)
            (x.state = .stopped → Safety.Skips (.cphead o) s) ∧
            (x.state = .idle → becomes fun h => { x with state := .fetch, cur := some h }) ∧
            (x.state ≠ .stopped → x.state ≠ .idle → x.head = none → becomes fun h => { x with head := some h }) ∧
            (x.state ≠ .stopped → x.state ≠ .idle → x.head ≠ none → exec (.cphead o) s = .next s)))) ∧
    (Safety.NamesNone s k o.a [.copych] → traps (.cpstat o) .illop ∧ traps (.cpstop o) .illop) ∧
    ∀ n, Safety.Names s k o.a [.copych] n →
      let x := copyOf s n.home n.idx
      (∃ t w, exec (.cpstat o) s = .next t ∧ Safety.Delivers o.dst (.data w) s t ∧ Safety.EngineFrame n s t o.dst ∧ word x w) ∧
      (∃ t w, exec (.cpstop o) s = .next t ∧ Safety.Delivers o.dst (.data w) s t ∧ Safety.OnlyEngine n s t ∧ Safety.OthersKept s t ∧
        (∀ j, readByte t.mem j = readByte s.mem j) ∧ word x w ∧ (n.idx < 2 →
          let y := copyOf t n.home n.idx
          y.head = none ∧ (x.state = .finish → y = { x with head := none, stopReq := true }) ∧
          (x.state = .idle ∨ x.state = .stopped ∨ (x.state ≠ .finish ∧ x.flight = []) → y.state = .idle) ∧
          (x.state ≠ .idle → x.state ≠ .stopped → x.state ≠ .finish → x.flight ≠ [] →
            y = { x with head := none, stopReq := true, state := .copy, failing := none, page := none })))

/-- TRANSACTION BARRIERS (R139, R216, R218, R257, R346 to R350, R353): XBINIT, XBEXP and XBARV trap ILLOP on an address that is no data and on a count out
of its range, ALIGN on a misaligned and EXTENT on a non-canonical address and outside the local store, HBM4E and LPDDR memory; otherwise they change
just the barrier's 16 bytes, by one step of R347, once no core owns a word of them. XBWAIT starts a producer that waits for the barrier to pass its phase. XBTEST gives half of the
barrier. -/
def Obligations.TransactionBarriers : Prop :=
  ∀ (s : State) (o : Operands) (k : TaskKey), Safety.EngineIssues o s k → Memory.wf s.mem = true → Memory.wf (Safety.localMem s) = true →
    (∀ x ∈ Safety.barrierClaims o,
      ((∀ a, scalarOf s o.a ≠ .data a) ∨ (∀ n, ¬ Safety.CountIs s o.b x.lo x.hi n) → exec x.instr s = .next (takeTrap .illop 3 0 s)) ∧
      ∀ a n, scalarOf s o.a = .data a → Safety.CountIs s o.b x.lo x.hi n →
        (a.toNat % 16 ≠ 0 → exec x.instr s = .next (takeTrap .align 3 0 s)) ∧
        (a.toNat % 16 = 0 → canonical a = false → exec x.instr s = .next (takeTrap .extent 3 0 s)) ∧
        (a.toNat % 16 = 0 → canonical a = true →
          (∀ off, translate s a 16 true true = .ok (.localStore off) → Safety.GateOpen s x.order .region → ∃ t bs, exec x.instr s = .next t ∧
            Safety.JustAdvances s t ∧ Safety.OthersKept s t ∧ (∀ j, readByte t.mem j = readByte s.mem j) ∧ bs.length = 16 ∧
            Safety.barrierOf bs = x.after n (Safety.barrierOf (localRead s off 16)) ∧
            ∀ j, readByte (Safety.localMem t) j = if off ≤ j ∧ j < off + 16 then (bs)[j - off]?.getD 0 else readByte (Safety.localMem s) j) ∧
          (∀ pa, translate s a 16 true true = .ok (.mem pa) →
            (isDram pa = false → exec x.instr s = .next (takeTrap .extent 3 0 s)) ∧
            (isDram pa = true → Safety.GateOpen s x.order .region → homeOrdered s a pa 16 = .ok () → homeBusy s pa 16 = false →
              Safety.Sound s pa 16 →
              (coreOwned s pa 16 = false → ∃ t bs, exec x.instr s = .next t ∧ Safety.JustAdvances s t ∧ Safety.OthersKept s t ∧ bs.length = 16 ∧
                Safety.barrierOf bs = x.after n (Safety.barrierOf (homeRead s pa 16)) ∧ Safety.MemoryWritten s t pa bs) ∧
              (coreOwned s pa 16 = true → ∃ t, exec x.instr s = .next t ∧ thread t = thread s ∧ t.mem = s.mem ∧
                ∀ d m, (d, m) ∈ ownersOf (homeLine s (pa / 128)) 16 → m &&& wordsIn (pa / 128) pa 16 ≠ 0 →
                  .revoke d (pa / 128) (m &&& wordsIn (pa / 128) pa 16) ∈ t.agenda))))) ∧
    ∀ a b, scalarOf s o.a = .data a → scalarOf s o.b = .data b →
      (a.toNat % 16 ≠ 0 → exec (.xbwait o) s = .next (takeTrap .align 3 0 s)) ∧
      (Safety.GateOpen s .rlx .task → a.toNat % 16 = 0 → canonical a = true →
        (∀ i, o.dst = .s i → (∃ off, translate s a 16 true false = .ok (.localStore off)) ∨
            (∃ pa, translate s a 16 true false = .ok (.mem pa) ∧ isDram pa = true) → ∃ t, exec (.xbwait o) s = .next t ∧
          Safety.Starts s t [] o.dst (.transaction a (bits b 0 4) i) (some .region)) ∧
        (b ≠ 0 → b ≠ 1 → exec (.xbtest o) s = .next (takeTrap .illop 3 0 s)) ∧
        ∀ n, b = BitVec.ofNat 64 n → n < 2 →
          let gives (bs : List Byte) : Prop := ∃ t, exec (.xbtest o) s = .next t ∧ Safety.OthersKept s t ∧
            (∀ j, readByte t.mem j = readByte s.mem j) ∧
            Safety.Delivers o.dst (.data (BitVec.ofNat 64 (leNat ((bs.drop (8 * n)).take 8)))) s t
          (∀ off, translate s a 16 true false = .ok (.localStore off) → gives (localRead s off 16)) ∧
          (∀ pa, translate s a 16 true false = .ok (.mem pa) → isDram pa = true → homeOrdered s a pa 16 = .ok () →
            homeBusy s pa 16 = false → Safety.Sound s pa 16 → gives (homeRead s pa 16)))

/-- GATHER, SCATTER AND INTERSECT (R135, R139, R145, R255, R349, R350, R354, R358): GTHR, SCTR and ISECT check their descriptor: its data, its ranges and
its route, or ILLOP; its alignment, or ALIGN; its addresses, or EXTENT; and an index channel's tag, or FMT with its field. Then the task's release and its
destination being ready, the unit of the die takes the command, with the indices and values as they are now. -/
def Obligations.GatherScatterIntersect : Prop :=
  ∀ (s : State) (o : Operands) (k : TaskKey), Safety.Admitted Places.sites s o → s.cur = .task k →
    (predHolds (thread s).regs (Field.pred o.a) = false → Safety.Skips (.gthr o) s ∧ Safety.Skips (.sctr o) s ∧ Safety.Skips (.isect o) s) ∧
    (predHolds (thread s).regs (Field.pred o.a) = true → Safety.Full s [o.a, o.b, o.c] →
      ((∀ d, ¬ Safety.DescriptorIs (vectorOf s o.a) d) → ∀ i ∈ [Instr.gthr o, .sctr o, .isect o], exec i s = .next (takeTrap .illop 3 0 s)) ∧
      ∀ d, Safety.DescriptorIs (vectorOf s o.a) d →
        let ready : Prop := Regs.dstFull (thread s).regs o.dst = true ∧ (∀ i, o.dst ≠ .o i) ∧ Safety.GateOpen s .rel .package
        let cmd (kind : UnitKind) (index value : Option (Vector Lane 64)) : UnitCmd :=
          { kind := kind, issuer := refOr s k, lanes := d, index := index, value := value, fin := Mod.arv o.mod,
            producer := if o.dst = .none then none else some (thread s).nextProducer, next := 0, gathered := [], done := 0, skipped := 0,
            unreach := false, out := [], result := .null, heldAt := none }
        let src := unitSrc d
        let size := unitSize d
        let route := routeOrIllop s (refOr s k) (dlane d 0)
        let alignedHere : Prop := (src = true ∨ (dlane d 3).toNat % 4 = 0) ∧ (dlane d 5).toNat % size = 0 ∧ (dlane d 7).toNat % size = 0
        let reached : Prop := (src = true ∨ unitReach (daddr d 3) = true) ∧ unitReach (daddr d 5) = true
        (∀ x ∈ [(Instr.gthr o, false, o.b, 1, UnitKind.gather), (.sctr o, true, o.c, 2, .scatter)],
          let legal : Prop := unitRanges d x.2.1 = true ∧ (if src then Field.isVC x.2.2.1 = true else Field.zero x.2.2.1 = true) ∧
            (x.2.1 = false → route = .ok ())
          let fs := (if x.2.1 then [o.b] else []) ++ (if src then [x.2.2.1] else [])
          (¬ legal → exec x.1 s = .next (takeTrap .illop 3 0 s)) ∧
          (legal → ¬ alignedHere → exec x.1 s = .next (takeTrap .align 3 0 s)) ∧
          (legal → alignedHere → ¬ reached → exec x.1 s = .next (takeTrap .extent 3 0 s)) ∧
          (legal → alignedHere → reached →
            (src = true → ¬ Safety.IndexField s x.2.2.1 → exec x.1 s = .next (takeTrap .fmt x.2.2.2.1 0 s)) ∧
            ((src = true → Safety.IndexField s x.2.2.1) → ready → ∃ t, exec x.1 s = .next t ∧
              Safety.UnitTook s t k fs o.dst (cmd x.2.2.2.2 (if src then some (vectorOf s x.2.2.1) else none)
                (if x.2.1 then some (vectorOf s o.b) else none))))) ∧
        (let legal : Prop := (∀ i, 8 ≤ i → dlane d i = 0) ∧ field (dlane d 7) 12 20 = 0 ∧ route = .ok ()
          let alignedHere : Prop := (dlane d 1).toNat % 8 = 0 ∧ (dlane d 3).toNat % 8 = 0
          let reached : Prop := unitReach (daddr d 1) = true ∧ unitReach (daddr d 3) = true
          (¬ legal → exec (.isect o) s = .next (takeTrap .illop 3 0 s)) ∧
          (legal → ¬ alignedHere → exec (.isect o) s = .next (takeTrap .align 3 0 s)) ∧
          (legal → alignedHere → ¬ reached → exec (.isect o) s = .next (takeTrap .extent 3 0 s)) ∧
          (legal → alignedHere → reached → ready → ∃ t, exec (.isect o) s = .next t ∧
            Safety.UnitTook s t k [] o.dst (cmd .isect none none))))

/-! ### The match engine's instructions -/

/-- WORKING MEMORY (R365, R371, R381, R383 to R386, R389, R393): WMCLASS declares a class, of the attributes it had where it is declared already. WMADD
reserves an id and gives it, or null where none is free; WMDEL and WMUPD give their element's id, or null where it is not live; the delta goes to the
engine, which must propagate nothing then, and is reported once it is written, or under FH into the buffer of the open firing that field C names. WMGET gives a word of a live element, or
its address. An id beyond the capacity, a descriptor that is none of a declared class, a handle of no open firing, and an effect that the firing's
rule does not declare trap ILLOP. -/
def Obligations.WorkingMemory : Prop :=
  ∀ (s : State) (o : Operands) (k : TaskKey) (n : NodeRef), Safety.MatchIssues o s k n .core →
    let m := Safety.engineAt s n
    let traps (i : Instr) : Prop := exec i s = .next (takeTrap .illop 3 0 s)
    let does (i : Instr) (m' : Match) (x : Scalar) : Prop := Safety.MatchDoes i n o.dst m' x s
    let takes (i : Instr) (f : Option (Nat × Firing)) (m' : Match) (x : Scalar) : Prop :=
      Safety.MatchDoesBy (Safety.deltaKind s o f) i n o.dst m' x s
    let free (f : Option (Nat × Firing)) : Prop := f = none → Match.idle m = true
    (∀ a w, scalarOf s o.a = .data a → scalarOf s o.c = .data w →
      (a = 0 ∨ 4095 < a.toNat ∨ 14 < w.toNat → traps (.wmclass o)) ∧
      (1 ≤ a.toNat → a.toNat ≤ 4095 → w.toNat ≤ 14 →
        (Tab.find? m.classes a.toNat = none → ∃ t, exec (.wmclass o) s = .next t ∧ Safety.JustAdvances s t ∧ Safety.EngineFrame n s t .none ∧
          matchOf t n.home = { m with classes := Tab.put m.classes a.toNat w.toNat }) ∧
        (Tab.find? m.classes a.toNat = some w.toNat → Safety.Skips (.wmclass o) s) ∧
        (∀ c, Tab.find? m.classes a.toNat = some c → c ≠ w.toNat → traps (.wmclass o)))) ∧
    ((∀ d, ¬ Safety.DescriptorIs (vectorOf s o.a) d) → traps (.wmadd o) ∧ traps (.wmupd o)) ∧
    (∀ d, Safety.DescriptorIs (vectorOf s o.a) d →
      (dlane d 1 ≠ 0 ∨ (∀ f, ¬ Safety.FiringIs s o m f) ∨ (∀ c g xs, ¬ Safety.ElementIs m d c g xs) → traps (.wmadd o)) ∧
      (m.wmCap ≤ (dlane d 1).toNat ∨ (∀ f, ¬ Safety.FiringIs s o m f) ∨ (∀ c g xs, ¬ Safety.ElementIs m d c g xs) → traps (.wmupd o)) ∧
      ∀ f c g xs, Safety.FiringIs s o m f → Safety.ElementIs m d c g xs →
        (dlane d 1 = 0 →
          (¬ Safety.Declared m f (fun r _ => c ∈ r.adds) → traps (.wmadd o)) ∧
          (Safety.Declared m f (fun r _ => c ∈ r.adds) →
            (¬ free f → m.loading = none → exec (.wmadd o) s = .next s) ∧
            (free f →
              (m.nextId < m.wmCap → takes (.wmadd o) f (Safety.withDelta { m with nextId := m.nextId + 1 } f (.assert m.nextId c g xs))
                (.data (BitVec.ofNat 64 m.nextId))) ∧
              (∀ id r, m.wmCap ≤ m.nextId → m.freed = id :: r → takes (.wmadd o) f
                (Safety.withDelta { m with freed := r } f (.assert id c g xs)) (.data (BitVec.ofNat 64 id))) ∧
              (m.wmCap ≤ m.nextId → m.freed = [] → does (.wmadd o) m .null)))) ∧
        (let id := (dlane d 1).toNat
         id < m.wmCap →
          (¬ Safety.Declared m f (fun r p => id ∈ Firing.at p r.mod) → traps (.wmupd o)) ∧
          (Safety.Declared m f (fun r p => id ∈ Firing.at p r.mod) → free f →
            ((∀ e, Tab.find? m.elems id = some e → e.cls ≠ c) → traps (.wmupd o)) ∧
            (∀ e, Tab.find? m.elems id = some e → e.cls = c →
              (f = none → ¬ Safety.Live m id → does (.wmupd o) m .null) ∧
              (f ≠ none ∨ Safety.Live m id → takes (.wmupd o) f (Safety.withDelta m f (.modify id c g xs)) (.data (BitVec.ofNat 64 id))))))) ∧
    (∀ a, scalarOf s o.a = .data a →
      (m.wmCap ≤ a.toNat → traps (.wmdel o) ∧ traps (.wmget o)) ∧
      (a.toNat < m.wmCap →
        ((∀ f, ¬ Safety.FiringIs s o m f) → traps (.wmdel o)) ∧
        (∀ f, Safety.FiringIs s o m f →
          (¬ Safety.Declared m f (fun r p => a.toNat ∈ Firing.at p r.del) → traps (.wmdel o)) ∧
          (Safety.Declared m f (fun r p => a.toNat ∈ Firing.at p r.del) → free f →
            (f = none → ¬ Safety.Live m a.toNat → does (.wmdel o) m .null) ∧
            (f ≠ none ∨ Safety.Live m a.toNat → takes (.wmdel o) f (Safety.withDelta m f (.retract a.toNat)) (.data a)))) ∧
        (∀ w, scalarOf s o.c = .data w →
          (16 < w.toNat → traps (.wmget o)) ∧
          (Match.idle m = true →
            (w.toNat = 16 → does (.wmget o) m (.data (m.wmBase + BitVec.ofNat 64 (64 * a.toNat)))) ∧
            (w.toNat < 16 →
              (¬ Safety.Live m a.toNat → does (.wmget o) m .null) ∧
              (∀ e, Tab.find? m.elems a.toNat = some e → e.live = true → does (.wmget o) m (.data (BitVec.ofNat 64 (
                if w.toNat = 0 then e.cls + 2 ^ 16 + e.uflags % 256 * 2 ^ 24 else if w.toNat = 1 then e.ts
                else ((e.attrs)[w.toNat - 2]?.getD 0).toNat) &&& 0xFFFFFFFF))))))))

/-- ROUNDS, NETWORKS AND SCORES (R370, R374, R378, R383, R384, R386 to R389, R393): AGRND queues a round at the engine that its descriptor names, its
destination empty until the report. AGNEXT takes the next firing that no task has taken: its registers d to d + 15 empty, to be filled with the handle and the
element ids, the first as an acquire at region scope; with none left, the handle says NONE. AGDONE closes the open firing that its handle names.
NETLD replaces the network by the one in memory, whose elements are then to be asserted into it, and is reported once they are. SCGET gives a VALID entry's VALUE, or null; SCPUT makes a PENDING entry VALID, replaces a VALID one's
value, leaves a DEAD one alone, and allocates where there is none. -/
def Obligations.RoundsAndScores : Prop :=
  ∀ (s : State) (o : Operands) (k : TaskKey),
    let traps (i : Instr) (c : Cause) : Prop := exec i s = .next (takeTrap c 3 0 s)
    (Safety.EngineIssues o s k →
      ((∀ d, ¬ Safety.DescriptorIs (vectorOf s o.a) d) → traps (.agrnd o) .illop) ∧
      ∀ d, Safety.DescriptorIs (vectorOf s o.a) d →
        let legal : Prop := (dlane d 0).toNat < 16 ∧ 1 ≤ (dlane d 1).toNat ∧ (dlane d 1).toNat ≤ 32 ∧ ∀ i, 2 ≤ i → dlane d i = 0
        (¬ legal ∨ (∀ n, nodeAt s (refOr s k) (dlane d 0).toNat = some n → n.kind ≠ .match_) → traps (.agrnd o) .illop) ∧
        ∀ n, legal → nodeAt s (refOr s k) (dlane d 0).toNat = some n → n.kind = .match_ → Safety.GateOpen s .rel .core →
          (matchOf s n.home).halted = false → (matchOf s n.home).taken (refOr s k) = false → ∃ t, exec (.agrnd o) s = .next t ∧
            Safety.Accepted o.dst s t ∧ Safety.EngineFrame n s t o.dst ∧
            let id := if o.dst = .none then none else some (thread s).nextProducer
            let round : PendingRound := { task := refOr s k, producer := id, maxAdmit := (dlane d 1).toNat }
            matchOf t n.home = { Safety.engineAt s n with rounds := (matchOf s n.home).rounds ++ [round] }) ∧
    (∀ n, Safety.MatchIssues o s k n .region → ∀ h, scalarOf s o.a = .data h →
      let m := Safety.engineAt s n
      (Match.openFiring m h = none → traps (.agdone o) .illop) ∧
      (∀ i f, Match.openFiring m h = some (i, f) → ∃ t, exec (.agdone o) s = .next t ∧ Safety.JustAdvances s t ∧ Safety.EngineFrame n s t .none ∧
        matchOf t n.home = { m with firings := m.firings.modify i fun f => { f with closed := true } })) ∧
    (∀ n, Safety.MatchIssues o s k n .core →
      let m := Safety.engineAt s n
      let c := n.home
      (∀ i, o.dst = .s i →
        (48 < i.val → traps (.agnext o) .illop) ∧
        (i.val ≤ 48 → (∀ j : Fin 64, i.val ≤ j.val → j.val < i.val + 16 → ((thread s).regs.s.get j).full = true) →
          let val (xs : List W64) (j : Fin 64) : Scalar := match (xs)[j.val - i.val]? with
            | some w => .data w
            | none => ((thread s).regs.s.get j).val
          let takes (m' : Match) (xs : List W64) : Prop := ∃ t ps, exec (.agnext o) s = .next t ∧ Safety.Advanced (thread s) (thread t) ∧
            Safety.OnlyEngine n s t ∧ Safety.OthersKept s t ∧ matchOf t c = m' ∧ (∀ j, readByte t.mem j = readByte s.mem j) ∧
            (∀ j : Fin 64, (thread t).regs.s.get j = if i.val ≤ j.val ∧ j.val < i.val + 16
              then { (thread s).regs.s.get j with full := false } else (thread s).regs.s.get j) ∧
            (thread t).regs.v = (thread s).regs.v ∧ (thread t).regs.p = (thread s).regs.p ∧ (thread t).regs.q = (thread s).regs.q ∧
            (thread t).producers = (thread s).producers ++ ps ∧ ps.length = 16 ∧
            ∀ j : Fin 64, i.val ≤ j.val → j.val < i.val + 16 → (ps)[j.val - i.val]? = some {
              id := (thread s).nextProducer + (j.val - i.val), state := .ready (.scalar j (val xs j)),
              acq := if j = i then some .region else none, held := false }
          ((∀ f ∈ m.firings, f.taken = true) → takes m [0x8000000000000000]) ∧
          (∀ x f, (m.firings)[x]? = some f → f.taken = false → (∀ y g, y < x → (m.firings)[y]? = some g → g.taken = true) →
            takes { m with firings := m.firings.modify x fun f => { f with taken := true } }
              (BitVec.ofNat 64 (m.firingRound % 65536 * 2 ^ 32 + f.inst.rule * 2 ^ 16 + x * 2 ^ 8 + f.inst.elems.length) ::
                f.inst.elems.map (BitVec.ofNat 64))))) ∧
      (∀ va, scalarOf s o.a = .data va →
        let open' : Prop := ∃ f ∈ m.firings, f.taken = true ∧ f.closed = false
        (canonical va = false ∨ open' → traps (.netld o) .illop) ∧
        (canonical va = true → ¬ open' → va.toNat % 8 ≠ 0 → traps (.netld o) .align) ∧
        (canonical va = true → ¬ open' → va.toNat % 8 = 0 →
          (m.rounds ≠ [] ∨ (Match.idle m = false ∧ m.loading = none) → exec (.netld o) s = .next s) ∧
          (m.rounds = [] → Match.idle m = true ∨ m.loading ≠ none →
            (∀ t, readNetwork s c (refOr s k) m va = .ok (t, none) → m.loading = none → traps (.netld o) .illop) ∧
            ∀ id, scalarOf s o.b = .data id →
              let loads (u v : State) (net : List NetRule) : Prop :=
                Safety.DeliversBy (.delta id.toNat) o.dst (.data (BitVec.ofNat 64 net.length)) u v ∧ (matchOf v c).net = net ∧
                (matchOf v c).round = 0 ∧ (matchOf v c).roundExists = false ∧ (matchOf v c).firings = [] ∧ (matchOf v c).waits = [] ∧
                (matchOf v c).loading = none ∧ (matchOf v c).deltas = (Match.liveIds (matchOf v c)).map Delta.load
              (∀ t net u, readNetwork s c (refOr s k) m va = .ok (t, some net) →
                loadNetwork (keepImage t c (refOr s k) [] (some net)) c net = .ok u → ∃ v, exec (.netld o) s = .next v ∧ loads u v net) ∧
              (∀ l net, m.loading = some l → l.net = some net → m.roundExists = false → m.scores = [] →
                ∃ v, exec (.netld o) s = .next v ∧ loads s v net ∧ Safety.OthersKept s v ∧ v.mem = s.mem)))) ∧
      ((∀ d, ¬ Safety.DescriptorIs (vectorOf s o.a) d) → traps (.scget o) .illop ∧ traps (.scput o) .illop) ∧
      ∀ d, Safety.DescriptorIs (vectorOf s o.a) d →
        ((∀ x ids, ¬ Safety.KeyIs m d x ids) → traps (.scget o) .illop ∧ traps (.scput o) .illop) ∧
        ∀ x ids, Safety.KeyIs m d x ids → Match.settled m = true →
          (Match.entryOf m x ids (· == .valid) = none → Safety.MatchDoes (.scget o) n o.dst m .null s) ∧
          (∀ slot e u v, Match.entryOf m x ids (· == .valid) = some (slot, e) → entryValue s c slot = .ok (u, v) →
            ∃ t, exec (.scget o) s = .next t ∧ Safety.Delivers o.dst (.data (v.setWidth 64)) s t ∧ Safety.OthersKept s t ∧
              ∀ j, readByte t.mem j = readByte s.mem j) ∧
          (∀ slot e pa, Match.entryOf m x ids (· == .valid) = some (slot, e) →
            Safety.EngineReaches s (matchAccessor s c) (Match.entryAddr m slot + 20) 4 false pa → l1Has s c pa 4 = true →
            ∃ t, exec (.scget o) s = .next t ∧ Safety.Delivers o.dst (.data (BitVec.ofNat 64 (leNat (l1Bytes s c pa 4)))) s t ∧
              Safety.OthersKept s t ∧ ∀ j, readByte t.mem j = readByte s.mem j) ∧
          ∀ w, scalarOf s o.c = .data w →
            let v := bits w 0 32
            let found := (Match.entryOf m x ids EntryState.found).or (Match.entryOf m x ids (· == .dead))
            (∀ slot e, found = some (slot, e) →
              (e.state = .dead → Safety.Skips (.scput o) s) ∧
              (e.state = .pending → ∀ u, validate s c slot v = .ok u → exec (.scput o) s = .next (retire u)) ∧
              (e.state = .valid → ∀ u, matchWrite s c (Match.entryAddr m slot + 20) (Safety.storedBytes 4 (v.setWidth 64)) = .ok u →
                exec (.scput o) s = .next (retire u)) ∧
              (e.state = .valid → ∀ pa, Safety.EngineReaches s (matchAccessor s c) (Match.entryAddr m slot + 20) 4 true pa →
                ∃ t, exec (.scput o) s = .next t ∧ l1Bytes t c pa 4 = Safety.storedBytes 4 (v.setWidth 64) ∧ Safety.OthersKept s t ∧
                  Safety.JustAdvances s t ∧ ∀ j, readByte t.mem j = readByte s.mem j)) ∧
            (found = none →
              (Match.freeSlot m x ids = none → exec (.scput o) s = .next s) ∧
              (∀ slot u, Match.freeSlot m x ids = some slot → writeEntry s c slot x ids .valid 0 (some v) = .ok u →
                exec (.scput o) s = .next (retire u))))

/-! ### Steps between the homes and the L1s -/

/-- COHERENCE MESSAGES (R189, R191, R198 to R201, R209 to R212, R214, R420): what REG, REGACK, RDREQ, DATA, FWD, FWDDATA, REFUSE, REVOKE, WB, WBACK,
HOST_ANSWER, HOST_SNOOP, BACK_INVALIDATE, HOST_HALF_TAKE and HOST_WRITE do. Each completes, as a message to a home or an L1, in every state whose arrays
are in order. What the model itself settles in it is in logs 21, 24, 119, 123 and 140. -/
def Obligations.CoherenceMessages : Prop :=
  ∀ s : State, Safety.Ordered s →
    -- REG: the home records the core as owner, revokes each other owner and acknowledges; it waits for the host or for room; or the registration is lost
    (∀ c line mask,
      (lineLost s line = false → regReady s line mask = true → mustClear s c line = none → ∃ t, exec (.reg c line mask) s = .next t ∧
        (∀ w, Safety.ownerOf t line w = if bit mask w then some c else Safety.ownerOf s line w) ∧ .regack c line mask ∈ t.agenda ∧
        (∀ d m, (d, m) ∈ ownersOf (homeLine s line) c → m &&& mask ≠ 0 → .revoke d line (m &&& mask) ∈ t.agenda) ∧
        ∀ j, j < 128 → readByte t.mem (128 * line + j) = readByte s.mem (128 * line + j)) ∧
      (lineLost s line = false → regReady s line mask = false → ∃ t, exec (.reg c line mask) s = .next t ∧
        t.agenda.head? = some (.reg c line mask) ∧ t.mem = s.mem ∧ ∀ l w, Safety.ownerOf t l w = Safety.ownerOf s l w) ∧
      (∀ l, lineLost s line = false → regReady s line mask = true → mustClear s c line = some l → ∃ t, exec (.reg c line mask) s = .next t ∧
        t.agenda.head? = some (.reg c line mask) ∧ t.mem = s.mem ∧
        ∀ d m, (d, m) ∈ ownersOf (homeLine s l) 16 → .revoke d l m ∈ t.agenda) ∧
      (lineLost s line = true → ∃ t, exec (.reg c line mask) s = .next t ∧
        ((coreOf t c).regsOut = (coreOf s c).regsOut.map fun o => if o.line = line ∧ o.mask = mask then { o with lost := true } else o) ∧
        ∀ a b (o : RegOut) (r : TaskRef), (coreOf s c).regsOut = a ++ o :: b → o.line = line → o.mask = mask →
          (∀ x ∈ a, ¬ (x.line = line ∧ x.mask = mask)) → o.who.head? = some (.task r) →
          ∃ e, (launchOf t r.launch).error = some e ∧ ((launchOf s r.launch).error = none → e.cause = 12))) ∧
    -- REGACK and WBACK: the oldest such message of the core is no longer under way
    (∀ c line mask a b (o : RegOut), (coreOf s c).regsOut = a ++ o :: b → o.line = line → o.mask = mask →
      (∀ x ∈ a, ¬ (x.line = line ∧ x.mask = mask)) → ∃ t, exec (.regack c line mask) s = .next t ∧
        Safety.CoreBut s t c { coreOf s c with regsOut := a ++ b }) ∧
    (∀ c line mask lids a b, (coreOf s c).wbOut = a ++ (line, mask, lids) :: b → (∀ x ∈ a, ¬ (x.1 = line ∧ x.2.1 = mask)) →
      ∃ t, exec (.wback c line mask) s = .next t ∧ Safety.CoreBut s t c { coreOf s c with wbOut := a ++ b }) ∧
    -- RDREQ: the halves of the line that the home can give are sent, or each other owner is asked for its words, or the read waits
    (∀ c line need, (∀ r ∈ s.reads, r.line ≠ line ∧ r.req ≠ s.nextReq) →
      let h := homeLine s line
      let os := ownersOf h c
      let served := servedWords s line
      let r : HomeRead := { req := s.nextReq, line := line, requester := c, need := need, started := false, asked := [] }
      ∃ t, exec (.rdreq c { line := line, need := need }) s = .next t ∧ t.mem = s.mem ∧ t.cores = s.cores ∧
        (h.revoking ≠ [] ∨ need &&& ~~~served ≠ 0 → t.reads = s.reads ++ [r]) ∧
        (h.revoking = [] → need &&& ~~~served = 0 →
          (os = [] → t.reads = s.reads ∧ t.agenda = s.agenda ++ [.data c line { content := readLine s.mem line, words := sentWords s line }]) ∧
          (os ≠ [] → t.reads = s.reads ++ [{ r with started := true, asked := os }] ∧
            t.agenda = s.agenda ++ os.map fun x => Instr.fwd x.1 line x.2 s.nextReq))) ∧
    -- DATA: dirty bytes of owned words stay, the other bytes of the words given are filled, and the line takes the priority of its read
    (∀ c line content words, ∃ t, exec (.data c line { content := content, words := words }) s = .next t ∧ t.mem = s.mem ∧ t.homes = s.homes ∧
      (∀ p ∈ (coreOf t c).readsOut, p.1 ≠ line) ∧
      let l := l1Line (coreOf s c) line
      let l' := l1Line (coreOf t c) line
      (line ∈ (coreOf s c).readsStale → (coreOf t c).l1 = (coreOf s c).l1) ∧
      (line ∉ (coreOf s c).readsStale → l.owned ≠ 0 ∨ words ≠ 0 →
        l'.owned = l.owned ∧ l'.dirty = l.dirty ∧ l'.clean = (l.clean ||| words) &&& ~~~l.owned ∧
        (∀ i, i < 128 → lineByte l'.content i =
          if bit words (i / 4) = true ∧ ¬ (bit l.owned (i / 4) = true ∧ bit l.dirty i = true) then lineByte content i else lineByte l.content i) ∧
        ∀ a b p, (coreOf s c).readsOut = a ++ (line, p) :: b → (∀ x ∈ a, x.1 ≠ line) → l'.prio = max l.prio p)) ∧
    -- FWD: the dirty bytes of the words it owns, and a refusal of the others
    (∀ c line mask req,
      let l := l1Line (coreOf s c) line
      let mine := l.owned &&& mask
      let other := mask &&& ~~~l.owned
      exec (.fwd c line mask req) s = .next { s with agenda := s.agenda ++
        (if mine = 0 then [] else [Instr.fwddata c line mine l.content (l.dirty &&& wordsToBytes mine) req]) ++
        (if other = 0 then [] else [Instr.refuse c line other req]) }) ∧
    -- FWDDATA and REFUSE: the dirty bytes are merged, and the last answer sends the line
    (∀ c line mask content bytes req, (homeLine s line).revoking = [] → (∀ w, bit mask w = true → Safety.ownerOf s line w = some c) →
      ∃ t, exec (.fwddata c line mask content bytes req) s = .next t ∧ Safety.Merged s t line content bytes mask ∧ t.cores = s.cores ∧
        ∀ a b r, Safety.LastAnswer s line c mask req a b r →
          t.reads = a ++ b ∧ .data r line { content := readLine t.mem line, words := if lineBad t line then 0 else servedWords s line } ∈ t.agenda) ∧
    (∀ c line mask req, ∃ t, exec (.refuse c line mask req) s = .next t ∧ t.mem = s.mem ∧ t.cores = s.cores ∧
      ∀ a b r, Safety.LastAnswer s line c mask req a b r →
        t.reads = a ++ b ∧ .data r line { content := readLine s.mem line, words := sentWords s line } ∈ t.agenda) ∧
    -- REVOKE: what the owner still owns is written back and given up
    (∀ c line mask,
      let l := l1Line (coreOf s c) line
      let mine := l.owned &&& mask
      (mine = 0 → exec (.revoke c line mask) s = .next s) ∧
      (mine ≠ 0 → ∃ t, exec (.revoke c line mask) s = .next t ∧ t.mem = s.mem ∧ t.homes = s.homes ∧
        t.agenda = s.agenda ++ [.wb c line l.content (l.dirty &&& wordsToBytes mine) mine] ∧
        (l1Line (coreOf t c) line).owned = l.owned &&& ~~~mine ∧
        ∀ w, bit (l1Line (coreOf t c) line).clean w =
          if bit mine w then decide (field (l.dirty ||| l.valid) (4 * w) 4 = 15) else bit l.clean w)) ∧
    -- WB: the dirty bytes are merged, the owner is cleared, and WBACK goes back
    (∀ c line mask content bytes, lineLost s line = false → (homeLine s line).revoking = [] →
      (∀ w, bit mask w = true → Safety.ownerOf s line w = some c) → ∃ t, exec (.wb c line content bytes mask) s = .next t ∧
        Safety.Merged s t line content bytes mask ∧ .wback c line mask ∈ t.agenda ∧
        ∀ w, Safety.ownerOf t line w = if bit mask w then none else Safety.ownerOf s line w) ∧
    -- HOST_ANSWER: the half is granted, and the host owns none of its words
    (∀ half, ∃ t, exec (.hostAnswer half) s = .next t ∧ t.mem = s.mem ∧ t.cores = s.cores ∧
      (∀ w, Safety.ownerOf t (half / 2) w = if Safety.ownerOf s (half / 2) w = some 16 ∧ bit (halfWords half) w = true then none
        else Safety.ownerOf s (half / 2) w) ∧
      (physKind (64 * half) = .far → lineLost s (half / 2) = false →
        let h := homeLine s (half / 2)
        let exclusive : Prop := (if half % 2 = 0 then h.waiting0 else h.waiting1) = true ∨ halfState h (64 * half) = .exclusive
        (exclusive → halfState (homeLine t (half / 2)) (64 * half) = .exclusive) ∧
        (¬ exclusive → halfState (homeLine t (half / 2)) (64 * half) = .shared))) ∧
    -- HOST_SNOOP and BACK_INVALIDATE: a read that waits for the half is served first; its owners are revoked; and then the half is dropped
    (∀ half, ∀ i ∈ [Instr.hostSnoop half, .backInvalidate half],
      let line := half / 2
      let first : Prop := (homeLine s line).dropping &&& halfWords half = 0 ∧ ∃ r ∈ s.reads, r.line = line ∧ r.need &&& halfWords half ≠ 0
      (first → exec i s = .next (push s i)) ∧
      (¬ first → Safety.DeviceFree s line (halfWords half) → ∃ t, exec i s = .next t ∧ t.mem = s.mem ∧
        halfState (homeLine t line) (64 * half) = .invalid) ∧
      (¬ first → ¬ Safety.DeviceFree s line (halfWords half) → ∃ t, exec i s = .next t ∧ t.mem = s.mem ∧ i ∈ t.agenda ∧
        Safety.Revokes s t line (halfWords half))) ∧
    -- HOST_HALF_TAKE: the device's owners are revoked, room is made, and the host owns the half's words
    (∀ half,
      let line := half / 2
      (Safety.DeviceFree s line (halfWords half) → mustClear s 16 line = none → ∃ t, exec (.hostHalfTake half) s = .next t ∧ t.mem = s.mem ∧
        ∀ w, Safety.ownerOf t line w = if bit (halfWords half) w then some 16 else Safety.ownerOf s line w) ∧
      (∀ l, Safety.DeviceFree s line (halfWords half) → mustClear s 16 line = some l → ∃ t, exec (.hostHalfTake half) s = .next t ∧
        t.mem = s.mem ∧ .hostHalfTake half ∈ t.agenda ∧ ∀ d m, (d, m) ∈ ownersOf (homeLine s l) 16 → .revoke d l m ∈ t.agenda) ∧
      (¬ Safety.DeviceFree s line (halfWords half) → ∃ t, exec (.hostHalfTake half) s = .next t ∧ t.mem = s.mem ∧
        .hostHalfTake half ∈ t.agenda ∧ Safety.Revokes s t line (halfWords half))) ∧
    -- HOST_WRITE: the device's owners of the words written are revoked, and then the bytes are written
    ∀ pa content,
      let free : Prop := ∀ l ∈ linesOf pa content.length, Safety.DeviceFree s l (wordsIn l pa content.length)
      (free → ∃ t, exec (.hostWrite pa content) s = .next t ∧ Safety.MemoryWritten s t pa content ∧
        (Safety.Rising s.badLines → content.length = 128 → pa % 128 = 0 → lineBad t (pa / 128) = false) ∧
        ∀ l w, Safety.ownerOf t l w = Safety.ownerOf s l w) ∧
      (¬ free → ∃ t, exec (.hostWrite pa content) s = .next t ∧ t.mem = s.mem ∧ .hostWrite pa content ∈ t.agenda ∧
        ∀ l ∈ linesOf pa content.length, Safety.Revokes s t l (wordsIn l pa content.length))

/-! ### Tokens in flight, token nodes and stream programs -/

/-- TOKENS IN FLIGHT (R31, R32, R78, R124 to R126, R129, R192, R193): TOKEN_ARRIVAL puts a sender's token into a free slot and frees the sender's, waits without
one, and is refused for parity, the eighth time in a row with LINK_FAILED, which kills the launch with LINK. STEER_NODE_FIRE, MERGE_NODE_FIRE and
CONVERSION_NODE_FIRE take tokens and send them on. STREAM_ELEMENT takes the start token, sends the next element, or is finished. What the model itself settles in it is in logs 26, 28, 89 and 118. -/
def Obligations.TokensInFlight : Prop :=
  ∀ s : State,
    (∀ src b, headOut s src = none → exec (.tokenArrival src b) s = .next s ∧ exec (.linkFailed src) s = .next s) ∧
    (∀ src q, headOut s src = some q →
      (∃ t, exec (.tokenArrival src true) s = .next t ∧ headOut t src = some q ∧ refusalsOf t src = refusalsOf s src + 1 ∧
        (if 7 ≤ refusalsOf s src then Instr.linkFailed src else .tokenArrival src false) ∈ t.agenda ∧ ∀ k c, Safety.chanAt t k c = Safety.chanAt s k c) ∧
      (∃ t, exec (.linkFailed src) s = .next t ∧ (Safety.Alive s q.owner.launch → Safety.Killed s t q.owner.launch 3 0)) ∧
      (acceptAt s q = none ∨ grants s src q = false → ∃ t, exec (.tokenArrival src false) s = .next t ∧ headOut t src = some q ∧
        t.agenda = .tokenArrival src false :: s.agenda ∧ t.mem = s.mem ∧ t.cores = s.cores ∧ ∀ k c, Safety.chanAt t k c = Safety.chanAt s k c)) ∧
    (∀ k o q g x y c ch, headOut s (.chan k o) = some q → regionOf s q.owner.launch q.owner.region = some g → routeInside g q.route = true →
      routeTo q.route = some (.site x y c) → Safety.chanAt s (siteAt g x y) c = some ch →
        (4 ≤ ch.slots.length → acceptAt s q = none) ∧
        ((siteOf s (siteAt g x y)).blocked = [] → grants s (.chan k o) q = true) ∧
        (ch.slots.length < 4 → (siteOf s (siteAt g x y)).node = none → grants s (.chan k o) q = true → ∃ t, exec (.tokenArrival (.chan k o) false) s = .next t ∧
          Safety.Received s t (siteAt g x y) c (if Token.reserved q.token = true then { q.token with pay := Payload.allErr 7 q.token.pay } else q.token) ∧
          (Token.reserved q.token = false → t.mem = s.mem) ∧ refusalsOf t (.chan k o) = 0 ∧
          Safety.outAt t k o = (Safety.outAt s k o).map (fun out => { out with send := out.send.drop 1 }) ∧
          ∀ slot, (taskOf s (Safety.taskAt (siteAt g x y) slot)).slot = .waiting (.channel c) →
            (taskOf t (Safety.taskAt (siteAt g x y) slot)).slot = .ready)) ∧
    (∀ k inp sel a b d da c ca, (siteOf s k).node = some (.steer inp sel a b) → siteHead (siteOf s k) inp = some (d, da) →
      siteHead (siteOf s k) sel = some (c, ca) → inp ≠ sel → a ≠ b →
        (∀ z, selectorOf c = some z → outReady (siteOf s k) (if z then a else b) = true → ∃ t, exec (.steerNodeFire k) s = .next t ∧
          t.mem = s.mem ∧ Safety.NodeTook s t k [inp, sel] ∧ Safety.NodeSent s t k (if z then a else b) d) ∧
        (selectorOf c = none → outReady (siteOf s k) a = true → outReady (siteOf s k) b = true → ∃ t, exec (.steerNodeFire k) s = .next t ∧
          t.mem = s.mem ∧ Safety.NodeTook s t k [inp, sel] ∧ Safety.NodeSent s t k a { d with pay := Payload.allErr 6 d.pay } ∧
          Safety.NodeSent s t k b { d with pay := Payload.allErr 6 d.pay })) ∧
    (∀ k ins inOrder out c d da, (siteOf s k).node = some (.merge ins inOrder out) → siteHead (siteOf s k) c = some (d, da) →
      ((inOrder = false ∨ (siteOf s k).mergeNext = none) ∧ (siteOf s k).mergeArrivals.head? = some c ∨
        (∃ n, inOrder = true ∧ (siteOf s k).mergeNext = some n ∧ d.seq + 1 = n ∧ ∃ i j, ins = i ++ c :: j ∧
          ∀ e ∈ i, ∀ d' da', siteHead (siteOf s k) e = some (d', da') → d'.seq + 1 ≠ n)) →
        (outReady (siteOf s k) out = true → ∃ t, exec (.mergeNodeFire k) s = .next t ∧ t.mem = s.mem ∧ Safety.NodeTook s t k [c] ∧
          Safety.NodeSent s t k out d ∧ (siteOf t k).mergeNext = some (d.seq + 1)) ∧
        (outReady (siteOf s k) out = false → exec (.mergeNodeFire k) s = .next s)) ∧
    (∀ k fs fd rnd sat nulls tok a d r, (siteOf s k).node = some (.conv fs fd rnd sat nulls) → siteHead (siteOf s k) 0 = some (tok, a) →
      (siteOf s k).diversions = some d :: r → d.topk < 16 →
      ∃ t, exec (.conversionNodeFire k) s = .next t ∧ (siteOf t k).diversions = r ∧ t.mem = s.mem ∧ Safety.NodeTook s t k [0] ∧
        (topkOf t d.core d.topk).away = (topkOf s d.core d.topk).away.erase d.input ∧
        ∀ w v, fs = .int32 → fd = .fp32 → tok.pay = .scalar (.data w) → convert .int32 .fp32 rnd sat w = .ok v →
          (topkOf t d.core d.topk).held = (TopK.offer (topkOf s d.core d.topk) (.data v)
            (BitVec.ofNat 32 (64 * (tok.seq.toNat % 4)) + ((topkOf s d.core d.topk).offsets)[d.input]?.getD 0)).held) ∧
    ∀ die slot,
      let x := streamOf s die slot
      let becomes (f : State → Stream → Prop) : Prop := ∃ t, exec (.streamElement die slot) s = .next t ∧ f t (streamOf t die slot)
      (x.finished = true ∨ x.out ≠ [] → exec (.streamElement die slot) s = .next s) ∧
      (x.finished = false → x.out = [] →
        (x.needToken = true → x.started = false →
          (x.inbox = [] → exec (.streamElement die slot) s = .next s) ∧
          (∀ d a r, x.inbox = (d, a) :: r → becomes fun t y => y = { x with inbox := r, started := true, seq := some d.seq, lastArrive := a } ∧
            t.mem = s.mem ∧ t.agenda = s.agenda)) ∧
        (x.needToken = false ∨ x.started = true →
          (x.total ≤ x.next → becomes fun t y => y = { x with finished := true } ∧ t.mem = s.mem ∧ t.agenda = s.agenda) ∧
          (x.next < x.total → x.vec = false → ∀ pa, Safety.StreamReaches s die slot (x.addr x.next) pa → Safety.HomeReadable s pa 4 → becomes fun t y =>
            y.next = x.next + 1 ∧ t.mem = s.mem ∧ .tokenArrival (.node { kind := .stream, home := die, idx := slot }) false ∈ t.agenda ∧
            ∃ q, (∀ v, x.seq = some v → q = v) ∧
              let token (f : Fmt) (pay : Payload) : Token := { route := bits x.route 0 10, seq := q, fmt := f, pay := pay }
              let element : Token := token x.fmt (.scalar (.data (BitVec.ofNat 32 (leNat (homeRead s pa 4)))))
              ((∀ l, x.endLevel = some l → (x.next + 1) % x.passSize l ≠ 0) → y.out = [element]) ∧
              ∀ l, x.endLevel = some l → (x.next + 1) % x.passSize l = 0 →
                y.out = [element, token .int32 (.control .endc (BitVec.ofNat 32 (x.passSize l)))])))

/-! ### Installing and dispatching a region -/

/-- INSTALLATION (R27, R28, R33 to R40, R120, R123, R130, R133 to R138, R429, R430): the packets of an image. SITECFG, CODE, ROUTE, NODEMAP and LSDATA leave what
they hold in their site, NODECFG assigns and configures an engine node, PACKET_FORWARD passes a packet on, south in column 0 and then east. CFG_END closes a
site, passes END on, and at the last site makes the region ready, or abandons an image that is not whole. SITE_WAKE wakes the region's sites and lets the
first packet in. DISPATCH, once all ranges of the launch resolve, makes each task ready, or waiting, with its extents. None of them does anything in a region that is not being installed. What the model itself settles in it is in logs 35, 99, 132 and 139. -/
def Obligations.Installation : Prop :=
  ∀ (s : State) (p : PacketAt),
    (installing s p.launch p.region = false →
      (∀ i ∈ [Instr.sitecfg p, .code p, .route p, .nodemap p, .nodecfg p, .lsdata p, .packetForward p, .cfgEnd p], exec i s = .next s) ∧
      exec (.siteWake p.launch p.region) s = .next s) ∧
    (∀ g, Safety.PacketHere s p g →
      let l0 := pktLane p 0
      let l1 := pktLane p 1
      let l4 := pktLane p 4
      let y := siteOf s (siteAt g p.x p.y)
      let keeps (i : Instr) (f : Site → Prop) : Prop := ∃ t x, exec i s = .next t ∧ Safety.KeptBy s t p g x ∧ f x
      let abandons (i : Instr) : Prop := Safety.Alive s p.launch → ∃ t, exec i s = .next t ∧ Safety.Killed s t p.launch 1 0
      keeps (.code p) (fun x => x = { y with istore := x.istore } ∧ ∀ i, Tab.get 0 x.istore i =
        if l1.toNat ≤ i ∧ i - l1.toNat < bodyOf l0 / 4 then codeWord p (i - l1.toNat) else Tab.get 0 y.istore i) ∧
      (Memory.wf y.localStore = true → keeps (.lsdata p) (fun x => x = { y with localStore := x.localStore } ∧ ∀ j, readByte x.localStore j =
        if l1.toNat ≤ j ∧ j < l1.toNat + 4 * bodyOf l0 then (lsBytes p)[j - l1.toNat]?.getD 0 else readByte y.localStore j)) ∧
      (routeTo l4 = none → abandons (.route p)) ∧
      (routeTo l4 ≠ none → keeps (.route p) (fun x => x = { y with outs := x.outs } ∧ ∀ o : Fin 16, x.outs.get o =
        if o.val = l1.toNat then { y.outs.get o with route := some l4 } else y.outs.get o)) ∧
      (let es := (List.range (bodyOf l0 / 4)).map (mapEntry p)
       let m := es.foldl addEntry y.nodeMap
       (¬ (∀ e ∈ es, entryFits e = true) ∨ 16 < m.length → abandons (.nodemap p)) ∧
       ((∀ e ∈ es, entryFits e = true) → m.length ≤ 16 → keeps (.nodemap p) (fun x => x = { y with nodeMap := m }))) ∧
      (field l1 8 2 = 3 →
        (y.node ≠ none ∨ y.tasks ≠ [] ∨ tokenNodeOf p = none → abandons (.sitecfg p)) ∧
        (∀ n, y.node = none → y.tasks = [] → tokenNodeOf p = some n → keeps (.sitecfg p) (fun x => x = { y with node := some n }))) ∧
      (field l1 8 2 = 0 →
        let old := Tab.get Task.absent y.tasks (field l1 0 4)
        (y.node ≠ none ∨ old.slot ≠ .absent ∨ entryOk p = false → abandons (.sitecfg p)) ∧
        (∀ rs, y.node = none → old.slot = .absent → entryOk p = true → rangesOf p 14 = .ok rs → keeps (.sitecfg p) (fun x =>
          x = { y with tasks := x.tasks } ∧ ∃ k, Tab.find? x.tasks (field l1 0 4) = some k ∧ k.slot = .installed ∧
            k.thread = Thread.start (field l4 0 10) ∧ k.start = field l4 0 10 ∧ k.startReady = bit l4 31 ∧ k.hv = bit l4 30 ∧
            k.handlerAt = field l4 16 10 ∧ k.nrange = field (pktLane p 13) 0 6 ∧ (old.ranges = [] → k.ranges = rs)))) ∧
      (field l1 8 2 = 1 ∨ field l1 8 2 = 2 →
        let old := Tab.get Task.absent y.tasks (field l1 0 4)
        (y.node ≠ none ∨ field l1 8 2 ∈ old.parts → abandons (.sitecfg p)) ∧
        (∀ rs, y.node = none → field l1 8 2 ∉ old.parts → rangesOf p 4 = .ok rs → keeps (.sitecfg p) (fun x => x = { y with tasks := x.tasks } ∧
          ∃ k, Tab.find? x.tasks (field l1 0 4) = some k ∧ k.slot = old.slot ∧ k.nrange = old.nrange ∧
            k.ranges.length = old.ranges.length + rs.length))) ∧
      (∀ kind id n, NodeKind.ofCode (field l1 0 8) = some kind → id = field l0 12 4 → Tab.find? g.nodes id = none →
        id < g.assigned.length → (g.assigned.find? fun n => n.kind == kind && !(g.nodes.any fun (_, m) => m == n)) = some n →
        n.idx < (if kind = .slab then 4 else 16) →
          let owner : Option (Owner × Nat) := some ({ launch := p.launch, region := p.region, x := p.x, y := p.y }, id)
          let configures (f : State → Prop) : Prop := ∃ t, exec (.nodecfg p) s = .next t ∧ f t ∧
            ∀ h, regionOf t p.launch p.region = some h → Tab.find? h.nodes id = some n ∧ h.nodesIn = g.nodesIn + 1
          (kind = .slab → configures fun t => slabOf t n.home n.idx = { Slab.init with owner := owner }) ∧
          (kind = .acc → only l4 0xFFFF0001 = true → field l4 16 16 ≠ 0 → routeTo (pktLane p 5) ≠ none → configures fun t =>
            accOf t n.home n.idx = { Acc.init with owner := owner, ends := field l4 16 16, int := bit l4 0, route := pktLane p 5 })) ∧
      (∀ kind, NodeKind.ofCode (field l1 0 8) = some kind → Tab.find? g.nodes (field l0 12 4) = none →
        (g.assigned.length ≤ field l0 12 4 ∨ ∀ n ∈ g.assigned, n.kind = kind → ∃ e ∈ g.nodes, e.2 = n) → abandons (.nodecfg p)) ∧
      (let dest := destOf l0
       let next := packetStepAt { p with x := if p.x = 0 ∧ p.y < dest.2 then 0 else p.x + 1, y := if p.x = 0 ∧ p.y < dest.2 then p.y + 1 else p.y }
       ∃ t rest, exec (.packetForward p) s = .next t ∧ t.sites = s.sites ∧ t.cores = s.cores ∧ t.mem = s.mem ∧ t.agenda = s.agenda ++ next :: rest ∧
         (p.x ≠ 0 ∨ p.y ≠ 0 → rest = []) ∧
         (p.x = 0 → p.y = 0 → ∃ ls, readPacket s p.launch g = .ok ls ∧
           rest = [packetStepAt { launch := p.launch, region := p.region, x := 0, y := 0, index := g.sent, lanes := ls }]))) ∧
    (∀ g, regionOf s p.launch p.region = some g → installing s p.launch p.region = true →
      (∃ t, exec (.cfgEnd p) s = .next t ∧ (siteOf t (siteAt g p.x p.y)).installed = true ∧
        (p.x + 1 < g.w → .cfgEnd { p with x := p.x + 1 } ∈ t.agenda) ∧
        (p.x = 0 → p.y + 1 < g.h → .cfgEnd { p with x := 0, y := p.y + 1 } ∈ t.agenda) ∧
        (g.sitesIn + 1 ≠ g.w * g.h → regionOf t p.launch p.region = some { g with sitesIn := g.sitesIn + 1 } ∧ t.mem = s.mem) ∧
        (g.sitesIn + 1 = g.w * g.h →
          (regionWhole s g = true → (∃ h, regionOf t p.launch p.region = some h ∧ h.installed = true) ∧
            ((∀ j h, j ≠ p.region → regionOf s p.launch j = some h → h.installed = true) →
              ((launchOf s p.launch).saved = none → ∀ j h, regionOf s p.launch j = some h → .dispatch p.launch j ∈ t.agenda) ∧
              ((launchOf s p.launch).saved ≠ none → .launchResume p.launch ∈ t.agenda)) ∧
            ((∃ j h, j ≠ p.region ∧ regionOf s p.launch j = some h ∧ h.installed = false) →
              ∀ j, .dispatch p.launch j ∈ t.agenda → .dispatch p.launch j ∈ s.agenda)) ∧
          (regionWhole s g = false → Safety.Alive s p.launch → Safety.Killed s t p.launch 1 0))) ∧
      (∀ ls, readPacket s p.launch g = .ok ls → packetFits g ls = true → ∃ t, exec (.siteWake p.launch p.region) s = .next t ∧ t.mem = s.mem ∧
        (∀ z ∈ Region.places g, (siteOf t (siteAt g z.1 z.2)).awake = true) ∧
        t.agenda = s.agenda ++ [packetStepAt { launch := p.launch, region := p.region, x := 0, y := 0, index := g.sent, lanes := ls }]) ∧
      (∀ ls, readPacket s p.launch g = .ok ls → packetFits g ls = false → Safety.Alive s p.launch → ∃ t, exec (.siteWake p.launch p.region) s = .next t ∧
        Safety.Killed s t p.launch 1 0)) ∧
    ∀ g, regionOf s p.launch p.region = some g →
      ((launchOf s p.launch).killed = true ∨ g.installed = false ∨ g.dispatched = true → exec (.dispatch p.launch p.region) s = .next s) ∧
      ((launchOf s p.launch).killed = false → g.installed = true → g.dispatched = false →
        let all := regionTasks s g ++ ((launchOf s p.launch).regions.filter (·.placed)).flatMap (regionTasks s)
        (∀ k ∈ all, ∀ d ∈ (taskOf s k).ranges, d.ba = false ∧ d.la = false) →
          let legal (d : RangeDecl) : Prop := d.len ≠ 0 ∧ canonical (d.baseHi ++ d.baseLo) = true
          ((∀ k ∈ all, ∀ d ∈ (taskOf s k).ranges, legal d) → ∃ t, exec (.dispatch p.launch p.region) s = .next t ∧ t.mem = s.mem ∧
            (launchOf t p.launch).state = .running ∧ (regionOf t p.launch p.region) = some { g with dispatched := true } ∧
            ∀ k ∈ regionTasks s g,
              let y := siteOf s (TaskKey.siteKey k)
              ((taskOf s k).startReady = true ∨ boundTokenPresent y k.slot = true → (taskOf t k).slot = .ready) ∧
              ((taskOf s k).startReady = false → (∀ c ∈ y.chans.toList, c.slots = []) → (taskOf t k).slot = .waiting .wait) ∧
              (taskOf t k).extents = (taskOf s k).ranges.map (fun d => ({ vbase := d.baseHi ++ d.baseLo, len := d.len.toNat, mode := d.mode,
                                                                          space := (launchOf s p.launch).space, granules := [] } : Extent)) ∧
              ((taskOf s k).ranges ≠ [] → .granuleRefill k 0 0 ∈ t.agenda)) ∧
          ((∃ k ∈ all, ∃ d ∈ (taskOf s k).ranges, ¬ legal d) → Safety.Alive s p.launch →
            ∃ t, exec (.dispatch p.launch p.region) s = .next t ∧ Safety.Killed s t p.launch 6 0))

/-! ### Steps of the matrix engine -/

/-- MATRIX ENGINE (R286 to R288, R291 to R293, R303, R306 to R308, R310, R315, R321, R325, R337): what SLAB_GROUP, SLAB_COMMAND_START, CONFIG_AT_HEAD, END_TOKEN,
ACCUMULATOR_RELEASE, TOPK_CANDIDATE, TOPK_END, THRESH, START_REQUEST and RAMP_WINDOW do, each at its own slab, node or core. The sum that SLAB_GROUP adds is
stated of a command with one element. What the model itself settles in it is in logs 57, 77, 78, 125 and 126. -/
def Obligations.MatrixEngine : Prop :=
  ∀ (s : State) (c : Nat) (i : Fin 4) (a : Fin 16),
    (let x := slabOf s c i
     let becomes (i' : Instr) (y : Slab) : Prop := ∃ t, exec i' s = .next t ∧ slabOf t c i = y ∧ t.mem = s.mem ∧ t.agenda = s.agenda
     -- THRESH and START_REQUEST
     (∀ th, (x.exec = none → exec (.thresh c i th) s = .next s) ∧ ∀ e, x.exec = some e →
        (e.cmd.vd = false → exec (.thresh c i th) s = .next s) ∧
        (e.cmd.vd = true →
          let best := if x.cfg.pred = some .topk ∧ Val.holds .gt (f32Val th) (f32Val e.theta) = true then th else e.theta
          becomes (.thresh c i th) { x with exec := some { e with theta := best } })) ∧
     (∀ d k, (x.exec = none → exec (.startRequest d k c i) s = .next s) ∧ ∀ e, x.exec = some e →
        let th := (topkOf s d k).theta
        let best := if x.cfg.pred = some .topk ∧ Val.holds .gt (f32Val th) (f32Val e.theta) = true then th else e.theta
        becomes (.startRequest d k c i) { x with exec := some { e with theta := best, thetaKnown := true } }) ∧
     -- CONFIG_AT_HEAD
     (x.exec ≠ none ∨ x.queue = [] ∨ (∃ t q, x.queue = .tile t :: q) → exec (.configAtHead c i) s = .next s) ∧
     (x.exec = none →
        (∀ m d q, x.queue = .mcfg m d :: q → becomes (.configAtHead c i) { x with cfg := { x.cfg with mode := m, dcode := d }, queue := q }) ∧
        (∀ v th q, x.queue = .mvcfg v th :: q → becomes (.configAtHead c i) { x with cfg := { x.cfg with pred := some v, theta := th }, queue := q }) ∧
        (∀ n q, x.queue = .mtkcfg n :: q → n.idx < 16 → ∃ t, exec (.configAtHead c i) s = .next t ∧ t.mem = s.mem ∧
          slabOf t c i = { x with cfg := { x.cfg with topk := some n }, queue := q } ∧ (c, i.val) ∈ (topkOf t n.home n.idx).slabs ∧
          ∀ o, x.cfg.topk = some o → o.idx < 16 → o.home ≠ n.home ∨ o.idx ≠ n.idx → (c, i.val) ∉ (topkOf t o.home o.idx).slabs)) ∧
     -- SLAB_COMMAND_START
     (∀ m q, x.exec = none → x.queue = .tile m :: q →
        (x.stopped = true → ∃ t, exec (.slabCommandStart c i) s = .next t ∧ t.mem = s.mem ∧ (slabOf t c i).exec = none ∧ (slabOf t c i).queue = q) ∧
        (x.stopped = false → canBind s m = false ∨ cardBegun s c m.card = false → exec (.slabCommandStart c i) s = .next s) ∧
        (x.stopped = false → canBind s m = true → cardBegun s c m.card = true →
          let asks := m.vd && x.cfg.topk.isSome
          ∃ t e, exec (.slabCommandStart c i) s = .next t ∧ t.mem = s.mem ∧ (slabOf t c i).exec = some e ∧ (slabOf t c i).queue = q ∧ e.cmd = m ∧
            e.groups = m.k / m.group ∧ e.next = 0 ∧ e.gdone = 0 ∧ e.theta = (if x.cfg.pred = some .ge then x.cfg.theta else negInf) ∧
            e.thetaKnown = (!asks) ∧ (∀ n, asks = true → x.cfg.topk = some n → t.agenda = s.agenda ++ [.startRequest n.home n.idx c i]) ∧
            (asks = false → t.agenda = s.agenda) ∧ ∀ r k, (r, k) ∈ boundNodes s m → r.idx < 16 → (accOf t r.home r.idx).bound = some (c, i.val))) ∧
     -- SLAB_GROUP
     (x.exec = none → exec (.slabGroup c i) s = .next s) ∧
     (∀ e, x.exec = some e → liveBlocks e = [] → ∃ t, exec (.slabGroup c i) s = .next t ∧
        (∀ d k, (accOf t d k).sums = (accOf s d k).sums) ∧
        (e.next + 1 < e.groups → ∃ e', (slabOf t c i).exec = some e' ∧ e'.next = e.next + 1 ∧ e'.gdone = e.gdone) ∧
        (e.groups ≤ e.next + 1 → (slabOf t c i).exec = none)) ∧
     (∀ e r rowA rowB, x.exec = some e → e.cmd.form = .mma → e.cmd.vd = false → e.cmd.degraded c i = false → e.cmd.m = 1 → e.cmd.n = 1 →
        e.cmd.afmt ≠ .hxf4 → e.cmd.bfmt ≠ .hxf4 → e.cmd.live 0 0 = true → e.dead = [] → e.band = 0 → e.next + 1 < e.groups →
        let at' (operand : Nat) (f : Fmt) : W64 :=
          rowAddr (daddr e.cmd.lanes operand) (dlane e.cmd.lanes (operand + 2)) 0 + BitVec.ofNat 64 (e.next * groupBytes f e.cmd.group)
        Safety.EngineHolds s (slabAccessor s c i) (at' 3 e.cmd.afmt) (groupBytes e.cmd.afmt e.cmd.group) rowA →
        Safety.EngineHolds s (slabAccessor s c i) (at' 6 e.cmd.bfmt) (groupBytes e.cmd.bfmt e.cmd.group) rowB →
        boundNodes s e.cmd = [(r, 0)] → r.idx < 16 → Safety.Rising (accOf s r.home r.idx).sums →
        ∃ t e', exec (.slabGroup c i) s = .next t ∧ t.mem = s.mem ∧ (slabOf t c i).exec = some e' ∧ e'.next = e.next + 1 ∧ e'.gdone = e.gdone + 1 ∧
          let pairs := (denseElems e.cmd.afmt rowA).zip (denseElems e.cmd.bfmt rowB)
          let old := Tab.get 0 (accOf s r.home r.idx).sums 0
          let new := Tab.get 0 (accOf t r.home r.idx).sums 0
          (e.cmd.afmt = .int8 → new = old + BitVec.ofInt 32 (groupInt pairs)) ∧
          (e.cmd.afmt ≠ .int8 → new = roundF32 .rne (Val.add .rne (f32Val old) (f32Val (roundF32 .rne (groupSum e.cmd.afmt e.cmd.bfmt pairs))))))) ∧
    (let x := accOf s c a
     -- END_TOKEN
     (∀ k w, k.pay = .control .endc w →
        (x.ends ≤ x.endCount ∨ x.releasing = true → exec (.endToken c a k) s = .next { s with agenda := .endToken c a k :: s.agenda }) ∧
        (x.endCount < x.ends → x.releasing = false → ∃ t, exec (.endToken c a k) s = .next t ∧ t.mem = s.mem ∧ t.agenda = s.agenda ∧
          accOf t c a = { x with endCount := x.endCount + 1, items := x.items + w, endSeq := some k.seq })) ∧
     (∀ k, (∀ w, k.pay ≠ .control .endc w) → ∃ t, exec (.endToken c a k) s = .next t ∧ accOf t c a = x ∧
        ∀ o id, x.owner = some (o, id) → ∃ e, (launchOf t o.launch).error = some e ∧
          ((launchOf s o.launch).error = none → e.cause = 2)) ∧
     -- ACCUMULATOR_RELEASE
     (releaseDue s c a = false → exec (.accumulatorRelease c a) s = .next s) ∧
     (releaseDue s c a = true → ∃ t, exec (.accumulatorRelease c a) s = .next t ∧ t.mem = s.mem ∧
        .tokenArrival (.node { kind := .acc, home := c, idx := a }) false ∈ t.agenda ∧
        let y := accOf t c a
        y.sums = [] ∧ y.status = [] ∧ y.written = 0 ∧ y.rows = 0 ∧ y.chunks = 0 ∧ y.releasing = true ∧ y.out.length = x.out.length + x.rows * x.chunks + 1 ∧
        (∀ n, n < x.out.length → (y.out)[n]? = (x.out)[n]?) ∧
        (∃ k, y.out.getLast? = some k ∧ k.pay = .control .endc x.items ∧ ∀ q, x.endSeq = some q → k.seq = q) ∧
        ∀ r j, r < x.rows → j < x.chunks → ∃ k v, (y.out)[x.out.length + r * x.chunks + j]? = some k ∧ k.pay = .vector v ∧ k.route = bits x.route 0 10 ∧
          k.seq = BitVec.ofNat 12 (4 * (x.rowBase + r) + j) ∧ k.fmt = (if x.int then .int32 else .fp32) ∧
          ∀ l : Fin 64, let key := 256 * r + (64 * j + l.val)
            (bit x.written (8 * (r / 16) + (64 * j + l.val) / 32) = false → v.get l = .null) ∧
            (bit x.written (8 * (r / 16) + (64 * j + l.val) / 32) = true → x.cols ≤ 64 * j + l.val → v.get l = .data 0) ∧
            (bit x.written (8 * (r / 16) + (64 * j + l.val) / 32) = true → 64 * j + l.val < x.cols →
              (Tab.get Status.none x.status key = .none → Tab.find? x.abandoned key = none → x.bands = none → v.get l = .data (Tab.get 0 x.sums key)) ∧
              (∀ p, Tab.get Status.none x.status key = .none → Tab.find? x.abandoned key = some p → v.get l = .data p) ∧
              (Tab.get Status.none x.status key = .invalid → v.get l = .err 0) ∧ (Tab.get Status.none x.status key = .nanin → v.get l = .err 1) ∧
              (Tab.get Status.none x.status key = .scale → v.get l = .err 3) ∧ (Tab.get Status.none x.status key = .rowBad → v.get l = .err 6)))) ∧
    (let x := topkOf s c a
     -- TOPK_CANDIDATE
     (∀ p k,
        (x.ends ≤ x.endCount ∨ p ∈ x.away → exec (.topkCandidate c a p k) s = .next { s with agenda := .topkCandidate c a p k :: s.agenda }) ∧
        (x.endCount < x.ends → p ∉ x.away →
          (∀ w, k.pay = .control .endc w → ∃ t, exec (.topkCandidate c a p k) s = .next t ∧ t.mem = s.mem ∧ t.agenda = s.agenda ∧
            topkOf t c a = { x with endCount := x.endCount + 1, endSeq := some k.seq }) ∧
          (∀ l, k.pay = .scalar l → k.fmt = .fp32 → ∃ t, exec (.topkCandidate c a p k) s = .next t ∧ t.mem = s.mem ∧
            let y := TopK.offer x l (BitVec.ofNat 32 (64 * (k.seq.toNat % 4)) + (x.offsets)[p]?.getD 0)
            topkOf t c a = y ∧
            (Val.holds .gt (f32Val y.theta) (f32Val x.theta) = true → ∀ d j, (d, j) ∈ x.slabs → .thresh d j y.theta ∈ t.agenda)))) ∧
     -- TOPK_END
     (x.endCount < x.ends ∨ x.out ≠ [] → exec (.topkEnd c a) s = .next s) ∧
     (x.ends ≤ x.endCount → x.out = [] → ∃ t q, exec (.topkEnd c a) s = .next t ∧ t.mem = s.mem ∧
        t.agenda = s.agenda ++ [.tokenArrival (.node { kind := .topk, home := c, idx := a }) false] ∧ (∀ z, x.endSeq = some z → q = z) ∧
        let y := topkOf t c a
        let lane (f : Candidate → W32) (l : Fin 64) : Lane := ((x.held)[l.val]?.map fun h => Lane.data (f h)).getD .null
        y.held = [] ∧ y.floor = negInf ∧ y.endCount = 0 ∧ ∃ u v, (∀ l, u.get l = lane (·.value) l) ∧ (∀ l, v.get l = lane (·.column) l) ∧
          y.out = [{ route := bits x.route 0 10, seq := q, fmt := .fp32, pay := .vector u },
                   { route := bits x.route 0 10, seq := q, fmt := .idx, pay := .vector v }])) ∧
    -- RAMP_WINDOW
    (let x := coreOf s c
     let step := field x.rampCfg 0 8 * 14400 / 256
     let last := field x.rampStat 0 14
     ∃ t n, exec (.rampWindow c) s = .next t ∧ t.mem = s.mem ∧ t.agenda = s.agenda ∧ last - step ≤ n ∧ n ≤ last + step ∧
       (last - step ≤ x.rampCount → x.rampCount ≤ last + step → x.rampCount ≤ 14400 → n = x.rampCount) ∧
       (coreOf t c).rampStat = BitVec.ofNat 64 n ∧ (coreOf t c).rampCount = x.rampCount - n ∧
       (coreOf t c).rampDummy = BitVec.ofNat 64 (min (2 ^ 32 - 1) (x.rampDummy.toNat + (n - x.rampCount))) ∧
       (coreOf t c).rampCfg = x.rampCfg ∧ ∀ d, d ≠ c → coreOf t d = coreOf s d)

/-! ### Steps of the copy channels and of the fabric-interface units -/

/-- COPY CHANNELS AND UNITS (R333, R334, R339 to R345, R347, R354 to R358): what RECORD_FETCH, SECTOR_ISSUE, SECTOR_LAND, FOLLOW_ON_OFFER, RECORD_FINISH,
CARD_BEGIN, GATHER_DELIVERY, SCATTER_WRITE and ISECT_RESULT do where their accesses are performed. What the model itself settles in it is in logs 63, 72, 83, 85, 88 and 124. -/
def Obligations.CopyAndGather : Prop :=
  ∀ s : State,
    (∀ (c : Nat) (i : Fin 2),
      let x := copyOf s c i
      let a := copyAccessor s c i
      let does (e : Instr) (f : State → CopyChan → Prop) : Prop := ∃ t, exec e s = .next t ∧ f t (copyOf t c i)
      let fetch : Instr := .recordFetch c i
      let issue' : Instr := .sectorIssue c i
      let land' : Instr := .sectorLand c i
      let offer' : Instr := .followOnOffer c i
      let finish' : Instr := .recordFinish c i
      (x.cur = none → ∀ e ∈ [fetch, issue', land', offer', finish'], exec e s = .next s) ∧
      ∀ h, x.cur = some h →
        (x.record ≠ none → exec fetch s = .next s) ∧
        (x.record = none → ∀ e ∈ [issue', land', offer', finish'], exec e s = .next s) ∧
        -- RECORD_FETCH
        (x.record = none →
          (x.state ≠ .fetch → x.state ≠ .held → exec fetch s = .next s) ∧
          (x.state = .fetch ∨ x.state = .held →
            (x.stopReq = true → does fetch fun t y => Safety.ChainEnded x y ∧ t.mem = s.mem) ∧
            ∀ bs, x.stopReq = false → Safety.ChanHolds s a h.issuer h.addr 128 bs →
              let r := Record.ofBytes bs
              (bit r.ctl 0 = false → does fetch fun t y => Safety.ChainEnded x y ∧ t.mem = s.mem) ∧
              (bit r.ctl 0 = true → r.barOk = false ∨ (r.bar = 0 ∧ r.ok = false) → ∃ t, exec fetch s = .next t ∧ Safety.ChainFailed s t c i 10) ∧
              (bit r.ctl 0 = true → r.bar = 0 → r.ok = true → (coreOf s c).cards.length < 64 → does fetch fun t y => t.mem = s.mem ∧ y.state = .copy ∧
                y.cur = some h ∧ y.record = some r ∧ y.run = 0 ∧ y.sector = 0 ∧ y.issued = 0 ∧ y.flight = [] ∧ y.began = true ∧
                y.offered = false ∧ y.head = x.head))) ∧
        ∀ r, x.record = some r →
          -- SECTOR_ISSUE
          (x.state ≠ .copy → x.state ≠ .held → exec issue' s = .next s) ∧
          (x.state = .copy ∨ x.state = .held →
            (∀ cause, x.failing = some cause → r.bar = 0 → ∃ t, exec issue' s = .next t ∧ Safety.ChainFailed s t c i cause) ∧
            (x.failing = none → x.stopReq = true → x.flight = [] → does issue' fun t y => Safety.ChainEnded x y ∧ t.mem = s.mem) ∧
            (x.failing = none → x.stopReq = true → x.flight ≠ [] → exec issue' s = .next s) ∧
            (x.failing = none → x.stopReq = false → cardBegun s c x.card = false → exec issue' s = .next s) ∧
            (x.failing = none → x.stopReq = false → cardBegun s c x.card = true → r.selfOverlap = false →
              let sa := r.srcAt x.run + BitVec.ofNat 64 x.sector
              let da := r.dstAt x.run + BitVec.ofNat 64 x.sector
              let n := min (r.len - x.sector) (32 - da.toNat % 32)
              ∀ bs, Safety.ChanHolds s a h.issuer sa n bs → Safety.ChanReaches s a h.issuer da n → does issue' fun t y =>
                Safety.ChanWrote s t a h.issuer da bs ∧ y.issued = x.issued + 1 ∧ (∃ ws, y.flight = x.flight ++ [ws]) ∧ y.record = some r ∧
                (x.sector + n < r.len → y.state = .copy ∧ y.run = x.run ∧ y.sector = x.sector + n) ∧
                (r.len ≤ x.sector + n → y.run = x.run + 1 ∧ y.sector = 0 ∧
                  (x.run + 1 < r.runs → y.state = .copy) ∧ (r.runs ≤ x.run + 1 → y.state = .finish ∧ ∀ k ∈ (coreOf t c).cards, k.id = x.card → k.readsDone = true)))) ∧
          -- SECTOR_LAND
          (landedAt s c x = none → exec land' s = .next s) ∧
          (∀ j, landedAt s c x = some j →
            (r.bar = 0 → does land' fun t y => y = { x with flight := x.flight.eraseIdx j } ∧ t.mem = s.mem) ∧
            (r.bar ≠ 0 → ∀ k, inStore r.bar = true → siteOfRef s h.issuer = some k → Memory.wf (siteOf s k).localStore = true →
              does land' fun t y => y = { x with flight := x.flight.eraseIdx j } ∧ t.mem = s.mem ∧
                readBytes (siteOf t k).localStore (r.bar.toNat % 65536) 16 =
                  barrierBytes [.sector] (readBytes (siteOf s k).localStore (r.bar.toNat % 65536) 16))) ∧
          -- FOLLOW_ON_OFFER
          (¬ (x.state = .finish ∧ x.flight = [] ∧ r.cmdv = true ∧ x.offered = false) → exec offer' s = .next s) ∧
          (x.state = .finish → x.flight = [] → r.cmdv = true → x.offered = false →
            let m := r.followOn h
            (∀ n, Safety.FollowOk s m → nodeAt s h.issuer m.slabId = some n → field r.ctl 11 5 = 0 →
              let slab := slabOf s n.home n.idx
              let room : Prop := Slab.entries slab < 4 ∧ (coreOf s n.home).cards.length < 64
              (¬ room → exec offer' s = .next s) ∧
              (room → acceptOk s slab m = true → does offer' fun t y => y.offered = true ∧ y.state = .finish ∧ t.mem = s.mem ∧
                (n.idx < 4 → slabOf t n.home n.idx =
                  { slab with queue := slab.queue ++ [.tile { m with card := (coreOf s n.home).nextCard, order := s.clock }] }))) ∧
            (r.bar = 0 → ¬ Safety.FollowOk s m ∨ nodeAt s h.issuer m.slabId = none ∨ field r.ctl 11 5 ≠ 0 →
              ∃ t, exec offer' s = .next t ∧ Safety.ChainFailed s t c i 11)) ∧
          -- RECORD_FINISH
          (¬ (x.state = .finish ∧ x.flight = [] ∧ (r.cmdv = true → x.offered = true) ∧ nodeAcked s a = true) → exec finish' s = .next s) ∧
          (x.state = .finish → x.flight = [] → (r.cmdv = true → x.offered = true) → nodeAcked s a = true →
            Safety.ChanReaches s a h.issuer (h.addr + 8) 1 → does finish' fun t y =>
              Safety.ChanWrote s t a h.issuer (h.addr + 8) [bits r.ctl 0 8 &&& 0xFE] ∧
              (∀ k ∈ (coreOf t c).cards, k.id ≠ x.card) ∧ (r.next = 0 ∨ x.stopReq = true → Safety.ChainEnded x y) ∧
              (r.next ≠ 0 → x.stopReq = false → y.state = .fetch ∧ y.cur = some { h with addr := r.next } ∧ y.record = none ∧ y.head = x.head))) ∧
    -- CARD_BEGIN
    (∀ c id,
      let cards := (coreOf s c).cards
      (∀ k ∈ cards, k.id ≠ id) → exec (.cardBegin c id) s = .next s) ∧
    (∀ c k, k ∈ (coreOf s c).cards → (∀ k' ∈ (coreOf s c).cards, k'.id = k.id → k' = k) →
      let done (e : Nat × Bool) (k' : Card) : Prop := if e.2 then k'.writesDone = true else k'.readsDone = true
      ((∃ e ∈ k.after, (∃ k' ∈ (coreOf s c).cards, k'.id = e.1) ∧ ∀ k' ∈ (coreOf s c).cards, k'.id = e.1 → ¬ done e k') →
        exec (.cardBegin c k.id) s = .next (push s (.cardBegin c k.id))) ∧
      ((∀ e ∈ k.after, ∀ k' ∈ (coreOf s c).cards, k'.id = e.1 → done e k') → ∃ t, exec (.cardBegin c k.id) s = .next t ∧ t.mem = s.mem ∧ t.agenda = s.agenda ∧
        cardBegun t c k.id = true ∧ (coreOf t c).cards.map (·.id) = (coreOf s c).cards.map (·.id))) ∧
    -- the units
    ∀ die id, Safety.Rising (dieOf s die).units →
      let gather : Instr := .gatherDelivery die id
      let scatter : Instr := .scatterWrite die id
      let isect : Instr := .isectResult die id
      (unitOf s die id = none → ∀ e ∈ [gather, scatter, isect], exec e s = .next s) ∧
      ∀ u, unitOf s die id = some u →
        let n := unitN u.lanes
        let done (e : Instr) (x : Scalar) : Prop := ∃ t, exec e s = .next t ∧ t.mem = s.mem ∧ unitOf t die id = none ∧
          (u.producer ≠ none → t = giveScalar (dropUnit s die id) u.issuer u.producer x)
        let sends (e : Instr) (u' : UnitCmd) : Prop := ∃ t, exec e s = .next t ∧ t.mem = s.mem ∧ unitOf t die id = some u' ∧
          .tokenArrival (.unit die id) false ∈ t.agenda
        (u.kind ≠ .gather → exec gather s = .next s) ∧ (u.kind ≠ .scatter → exec scatter s = .next s) ∧ (u.kind ≠ .isect → exec isect s = .next s) ∧
        -- GATHER_DELIVERY
        (u.kind = .gather → (u.out ≠ [] → exec gather s = .next s) ∧ (u.out = [] →
          let per := if unitVec u.lanes then 64 else 1
          (∀ l, u.next < n → Safety.Gathers s die id u l →
            let u' := u.took l false
            ((u.next + 1) % per ≠ 0 → u.next + 1 ≠ n → ∃ t, exec gather s = .next t ∧ t.mem = s.mem ∧ unitOf t die id = some u') ∧
            ((u.next + 1) % per = 0 ∨ u.next + 1 = n →
              sends gather { u' with gathered := [], out := [gatherToken u (u.gathered ++ [l]) (u.next / per)] })) ∧
          (n ≤ u.next → u.fin = true → ∃ e, e.pay = .control .endc (BitVec.ofNat 32 n) ∧ sends gather { u with fin := false, out := [e] }) ∧
          (n ≤ u.next → u.fin = false → done gather (.data (BitVec.ofNat 64 (u.done % 2 ^ 32 + u.skipped % 2 ^ 24 * 2 ^ 32 +
            (if u.unreach then 2 ^ 63 else 0))))))) ∧
        -- SCATTER_WRITE
        (u.kind = .scatter →
          (n ≤ u.next → done scatter (.data (BitVec.ofNat 64 (u.done % 2 ^ 32 + u.skipped % 2 ^ 24 * 2 ^ 32 + (if u.unreach then 2 ^ 63 else 0))))) ∧
          (∀ ls vs w, u.next < n → u.index = some ls → u.value = some vs → (ls.toList)[u.next]? = some w →
            let skips : Prop := ∃ t, exec scatter s = .next t ∧ t.mem = s.mem ∧
              unitOf t die id = some { u with next := u.next + 1, skipped := u.skipped + 1 }
            (∀ l, (vs.toList)[u.next]? = some l → Lane.isData l = false → skips) ∧
            (Lane.isData w = false → skips) ∧ (∀ y, w = .data y → outOfRange u.lanes y = true → skips) ∧
            (∀ x y k pa, (vs.toList)[u.next]? = some (.data x) → w = .data y → outOfRange u.lanes y = false → placeOf s u.issuer = some k →
              unitPa s die id u (unitAddr u.lanes y) true = .ok pa → Safety.HomeWritable s pa (unitSize u.lanes) →
              regPending s k.core pa (unitSize u.lanes) = false → Safety.memoryOk s → ∃ t, exec scatter s = .next t ∧
                Safety.MemoryWritten s t pa (leBytes (unitSize u.lanes) x.toNat) ∧
                unitOf t die id = some { u with next := u.next + 1, done := u.done + 1 }))) ∧
        -- ISECT_RESULT
        (u.kind = .isect → (u.out ≠ [] → exec isect s = .next s) ∧ (u.out = [] →
          (u.next ≠ 0 → done isect u.result) ∧
          (u.next = 0 → ∀ x y, Safety.UnitReads s die id u (daddr u.lanes 1) x → Safety.UnitReads s die id u (daddr u.lanes 3) y →
            u.fin = false → ∃ out, sends isect
            { u with next := 1, result := .data (x &&& y), out := out } ∧
            (x &&& y = 0 → ∃ k, out = [k] ∧ k.pay = .scalar .null) ∧
            (x &&& y ≠ 0 → ∃ k l p q, out = [k, l] ∧ k.pay = .vector p ∧ l.pay = .vector q ∧ l.seq = k.seq + 1 ∧
              ∀ (j : Fin 64) m, (positions (x &&& y))[j.val]? = some m →
                p.get j = .data (dlane u.lanes 5 + BitVec.ofNat 32 ((List.range m).countP fun i => bit x i)) ∧
                q.get j = .data (dlane u.lanes 6 + BitVec.ofNat 32 ((List.range m).countP fun i => bit y i))))))

/-! ### Steps of the match engines and of translation -/

/-- MATCH ENGINES AND TRANSLATION (R264 to R278, R365, R371 to R380): what DELTA_PROPAGATE, SCORER_PACKET_WRITE, SIG_CHANGE and SELECTION_ROUND do at the
match engine of a core, and what GRANULE_REFILL, WALK_RESPONSE, FAULT_RECORD, FLTRES_RETRY, FLTRES_KILL, SIDE_LOG_DRAIN, HOTNESS_CROSSING and HOTCLR do. What the model itself settles in it is in logs 63, 64, 92, 94, 97 and 121. -/
def Obligations.MatchAndTranslation : Prop :=
  ∀ s : State, Safety.Ordered s →
    (∀ c,
      let m := matchOf s c
      let does (i : Instr) (f : State → Match → Prop) : Prop := ∃ t, exec i s = .next t ∧ f t (matchOf t c)
      -- DELTA_PROPAGATE
      let delta : Instr := .deltaPropagate c
      let a := matchAccessor s c
      let next : Prop := m.betaDue = [] ∧ m.open.find? m.canLookup = none
      (next → m.deltas = [] → exec delta s = .next s) ∧
      (∀ i r pa, m.betaDue = i :: r → Safety.EngineReaches s a (m.betaBase + BitVec.ofNat 64 (64 * i)) 64 true pa → does delta fun t y =>
        y = { m with betaDue := r } ∧ ∃ bs, bs.length = 64 ∧ Safety.EngineWrote s t c pa bs) ∧
      (∀ id cls g xs r pa, next → m.deltas = .assert id cls g xs :: r → m.tsNext < 2 ^ 32 →
        Safety.EngineReaches s a (m.wmBase + BitVec.ofNat 64 (64 * id)) 64 true pa →
        let e : WmElem := { cls := cls, uflags := g, ts := m.tsNext, attrs := xs, live := true }
        does delta fun t y => Safety.EngineWrote s t c pa (WmElem.bytes e) ∧ y.deltas = r ∧ y.tsNext = m.tsNext + 1 ∧ y.elems = Tab.put m.elems id e) ∧
      (∀ id r, next → m.deltas = .retract id :: r →
        (¬ Safety.Live m id → does delta fun t y => t.mem = s.mem ∧ y.deltas = r ∧ y.elems = m.elems ∧ y.freed = m.freed) ∧
        (∀ u, Safety.Live m id → Safety.Rising m.elems → retract s c id = .ok u → does delta fun t y => t.mem = u.mem ∧ y.deltas = r ∧
          ¬ Safety.Live y id ∧ y.freed = m.freed ++ [id] ∧ ∀ i ∈ y.conflict, id ∉ i.elems)) ∧
      (∀ p k ids, m.betaDue = [] → m.open.find? m.canLookup = some p → m.scoreAt p = some (k, ids) →
        let waits (slot : Nat) : ScoreWait := { inst := p.1, cond := p.2, entry := slot }
        (∀ slot e, m.entryOf k.scorer ids EntryState.found = some (slot, e) → e.state = .pending → does delta fun t y => t.mem = s.mem ∧
          y = { m with waits := m.waits ++ [waits slot] }) ∧
        (∀ slot u, m.entryOf k.scorer ids EntryState.found = none → m.freeSlot k.scorer ids = some slot →
          writeEntry s c slot k.scorer ids .pending k.theta none = .ok u → does delta fun t y => t.mem = u.mem ∧
            y.waits = m.waits ++ [waits slot] ∧
            Tab.find? y.scores slot = some { scorer := k.scorer, ids := ids, state := .pending, sent := false, theta := k.theta })) ∧
      -- SCORER_PACKET_WRITE and SIG_CHANGE
      (∀ slot,
        let write' : Instr := .scorerPacketWrite c slot
        let sig : Instr := .sigChange c slot
        (Tab.find? m.scores slot = none → exec write' s = .next s ∧ exec sig s = .next s) ∧
        ∀ e, Tab.find? m.scores slot = some e →
          (e.state ≠ .pending ∨ e.sent = true → exec write' s = .next s) ∧
          (∀ k q pa, e.state = .pending → e.sent = false → m.scorers.find? (fun x => x.id == e.scorer) = some k → Memory.wf s.mem = true →
            Safety.ScorerReady s c slot q pa → does write' fun t y => Tab.find? y.scores slot = some { e with sent := true } ∧
              readBytes t.mem pa 64 = withParent (scorerPacket m (launchOf s m.launch).prio k slot) m.launch ∧
              leNat (readBytes t.mem (qcbAddr s q + 24) 8) = ((qcbOf s q).resv + 1).toNat ∧
              (launchOf t m.launch).childrenLive = (launchOf s m.launch).childrenLive + 1) ∧
          (∀ k q u v z, e.state = .pending → e.sent = false → m.scorers.find? (fun x => x.id == e.scorer) = some k → scorerQueue s c = .ok q →
            matchWrite s c (m.entryAddr slot + 56) (List.replicate 8 0) = .ok u → nodeAcked u (matchAccessor u c) = true →
            publish u (c / 4) m.launch q (scorerPacket m (launchOf u m.launch).prio k slot) = .ok (v, z) →
              (∀ n, z = .sent n → does write' fun t y => t.mem = v.mem ∧ Tab.find? y.scores slot = some { e with sent := true }) ∧
              (z = .full ∨ z = .limit → exec write' s = .next v) ∧
              (∀ w, z = .queue → validate v c slot 0x7FC00000 = .ok w → exec write' s = .next w)) ∧
          (e.sent = false ∨ e.state = .valid → exec sig s = .next s) ∧
          (∀ pa, e.sent = true → e.state ≠ .valid → Safety.Rising m.scores → Safety.EntryReaches s a (m.entryAddr slot) pa →
            physKind pa ≠ .far →
            let set : Prop := leNat (homeRead s (pa + 56) 8) ≠ 0
            (¬ set → does sig fun t y => t.mem = s.mem ∧ y = m) ∧
            (set → e.state = .dead → does sig fun t y => (∀ j, readByte t.mem j = readByte s.mem j) ∧ Tab.find? y.scores slot = none) ∧
            (set → e.state = .pending → does sig fun t y => (∀ j, readByte t.mem j = readByte s.mem j) ∧
              Tab.find? y.scores slot = some { e with state := .valid })) ∧
          (∀ u bs, e.sent = true → e.state ≠ .valid →
            accessRead (setCore s c (Core.dropAllClean (coreOf s c))) (matchAccessor (setCore s c (Core.dropAllClean (coreOf s c))) c)
              (m.entryAddr slot + 56) 8 = .ok (u, bs) →
              (leNat bs = 0 → exec sig s = .next u) ∧
              (∀ w, leNat bs ≠ 0 → e.state = .dead → Safety.Rising m.scores → setEntryState u c slot none = .ok w →
                does sig fun t y => t = w ∧ Tab.find? y.scores slot = none) ∧
              (∀ w, leNat bs ≠ 0 → e.state = .pending → leNat (bs.drop 4) ≠ 0 → validate u c slot 0x7FC00000 = .ok w →
                does sig fun t y => t = w ∧ Tab.find? y.scores slot = some { e with state := .valid }) ∧
              (∀ v x w, leNat bs ≠ 0 → e.state = .pending → leNat (bs.drop 4) = 0 → entryValue u c slot = .ok (v, x) →
                setEntryState v c slot (some .valid) = .ok w →
                does sig fun _ y => Tab.find? y.scores slot = some { e with state := .valid }))) ∧
      -- SELECTION_ROUND
      (m.rounds = [] ∨ m.canSelect = false → exec (.selectionRound c) s = .next s) ∧
      (∀ r rest, m.rounds = r :: rest → m.canSelect = true →
        let buffered := m.roundExists && m.firings.any fun f => !f.deltas.isEmpty
        (buffered = true → does (.selectionRound c) fun t y => t.mem = s.mem ∧ t.agenda = s.agenda ∧
          y = { m with deltas := m.firings.flatMap (·.deltas), firings := m.firings.map fun f => { f with deltas := [] } }) ∧
        (buffered = false → nodeAcked s a = false → exec (.selectionRound c) s = .next s) ∧
        (buffered = false → nodeAcked s a = true → does (.selectionRound c) fun t y => t.mem = s.mem ∧ y.round = m.round + 1 ∧ y.firingRound = m.round ∧
          y.roundExists = true ∧ y.rounds = rest ∧ y.firings.length ≤ r.maxAdmit ∧
          (∀ f ∈ y.firings, f.inst ∈ m.conflict ∧ f.taken = false ∧ f.closed = false ∧ f.deltas = []) ∧
          (y.firings.map (·.inst)).Pairwise (fun j i => m.bars j i = false) ∧
          y.conflict = m.conflict.filter fun i => !(y.firings.map (·.inst)).contains i))) ∧
    -- GRANULE_REFILL and WALK_RESPONSE
    (∀ k i g,
      ((taskOf s k).extents[i]? = none → exec (.granuleRefill k i g) s = .next s) ∧
      ∀ e, (taskOf s k).extents[i]? = some e →
        let w : Walk := { die := k.core / 4, space := e.space, gen := spaceGen s (k.core / 4) e.space, va := granuleVa e g, forWhom := .granule k i g }
        (∀ l, spaceValid s (k.core / 4) e.space = false → walkLaunch s (.granule k i g) = some l → ∃ t, exec (.granuleRefill k i g) s = .next t ∧
          t.mem = s.mem ∧ (dieOf t (k.core / 4)).spaceGone = (dieOf s (k.core / 4)).spaceGone + 1 ∧
          ∃ x, (launchOf t l).error = some x ∧ ((launchOf s l).error = none → x.cause = 9)) ∧
        (spaceValid s (k.core / 4) e.space = true → ∃ t, exec (.granuleRefill k i g) s = .next t ∧ t = { s with agenda := t.agenda } ∧
          .walkResponse w ∈ t.agenda) ∧
        ∀ w : Walk, w.forWhom = .granule k i g → spaceValid s w.die w.space = true →
          (w.gen ≠ spaceGen s w.die w.space → ∃ t, exec (.walkResponse w) s = .next t ∧ t = { s with agenda := t.agenda } ∧
            .granuleRefill k i g ∈ t.agenda) ∧
          (w.gen = spaceGen s w.die w.space → ∃ t e' x, exec (.walkResponse w) s = .next t ∧ t.mem = s.mem ∧ (taskOf t k).extents[i]? = some e' ∧
            Tab.find? e'.granules g = some x ∧
            (walkPage s w.die w.space w.va = none → x = BitVec.ofNat 64 (w.gen % 256 * 256 + 4)) ∧
            (∀ l, walkPage s w.die w.space w.va = some l → x = BitVec.ofNat 64 ((l.pbase + w.va.toNat % 2 ^ l.log2) / 65536 * 65536 +
              w.gen % 256 * 256 + 4 + (if l.writable then 2 else 0) + 1)) ∧
            (g + 1 < Extent.granuleCount e → Tab.find? e.granules (g + 1) = none → .granuleRefill k i (g + 1) ∈ t.agenda) ∧
            (Extent.granuleCount e ≤ g + 1 → ∀ r, (taskOf s k).extents[i + 1]? = some r → Tab.find? r.granules 0 = none →
              .granuleRefill k (i + 1) 0 ∈ t.agenda))) ∧
    (∀ w : Walk,
      (∀ l, spaceValid s w.die w.space = false → walkLaunch s w.forWhom = some l → unitsGo s l = false ∨ (∃ k i g, w.forWhom = .granule k i g) →
        ∃ t, exec (.walkResponse w) s = .next t ∧ t.mem = s.mem ∧ (dieOf t w.die).spaceGone = (dieOf s w.die).spaceGone + 1 ∧
          ∃ e, (launchOf t l).error = some e ∧ ((launchOf s l).error = none → e.cause = 9)) ∧
      (∀ n l p, w.forWhom = .engine n → spaceValid s w.die w.space = true → w.gen = spaceGen s w.die w.space → nodeLaunch s n = some l →
        launchOpen s l = true → walkPage s w.die w.space w.va = some p → ∃ t x, exec (.walkResponse w) s = .next t ∧ t.mem = s.mem ∧
          let before := (dieOf s w.die).tlb
          let mine := (before.filter fun y => y.who == x.who).length
          (mine < tlbSize x.who → (dieOf t w.die).tlb = before ++ [x]) ∧
          (tlbSize x.who ≤ mine → 0 < mine → x ∈ (dieOf t w.die).tlb ∧ (dieOf t w.die).tlb.length = before.length) ∧
          x.who = some (if n.kind = .stream then { n with idx := n.idx / 8 * 8 } else n) ∧ x.space = w.space ∧ x.gen = w.gen ∧ x.pbase = p.pbase ∧
          x.log2 = p.log2 ∧ x.writable = p.writable)) ∧
    -- FAULT_RECORD
    (∀ f : FaultInfo,
      let x := coreOf s f.core
      let head := field x.fltHead 0 7
      let tail := field x.fltTail 0 7
      ((tail + 128 - head) % 128 = 64 → ∃ t, exec (.faultRecord f) s = .next t ∧ t.mem = s.mem ∧
        coreOf t f.core = { x with faultQueue := x.faultQueue ++ [f] }) ∧
      ((tail + 128 - head) % 128 ≠ 64 → ∃ t, exec (.faultRecord f) s = .next t ∧
        (∀ i, i < 32 → readByte t.mem (x.fltBase.toNat + 32 * (tail % 64) + i) = (FaultInfo.record f)[i]?.getD 0) ∧
        (coreOf t f.core).fltTail = BitVec.ofNat 64 ((tail + 1) % 128) ∧ (coreOf t f.core).block.levents = x.block.levents ||| 4 ∧
        (coreOf t f.core).faults = x.faults ++ [{ index := tail % 64, info := f }])) ∧
    -- FLTRES_RETRY and FLTRES_KILL
    (∀ c i,
      (faultAt s c i = none → exec (.fltresRetry c i) s = .next s ∧ exec (.fltresKill c i) s = .next s) ∧
      ∀ f, faultAt s c i = some f →
        (∃ t, exec (.fltresRetry c i) s = .next t ∧ t.mem = s.mem ∧ t.agenda = s.agenda ∧ faultAt t c i = none ∧
          (∀ d x, x ∈ (dieOf t d).tlb → x.space = f.space → f.va.toNat / 2 ^ x.log2 * 2 ^ x.log2 ≠ x.vbase) ∧
          ∀ k, k.core = c → k.site < 64 → ((siteOf s (TaskKey.siteKey k)).owner.map fun o => (launchOf s o.launch).space) = some f.space →
            ∀ p ∈ (taskOf t k).thread.producers, p.held = false) ∧
        (Safety.Alive s f.launch → ∃ t, exec (.fltresKill c i) s = .next t ∧ Safety.Killed s t f.launch 8 0 ∧ faultAt t c i = none)) ∧
    -- SIDE_LOG_DRAIN
    (∀ c id,
      let again := push s (.sideLogDrain c id)
      ((coreOf s c).sideLog.find? (fun e => e.id == id) = none → exec (.sideLogDrain c id) s = .next s) ∧
      ∀ e, (coreOf s c).sideLog.find? (fun e => e.id == id) = some e →
        (placeOf s e.task = none → exec (.sideLogDrain c id) s = .next again) ∧
        ∀ k, placeOf s e.task = some k →
          let f := taskFault s k e.va false (if e.maj = 0 then .store else .atomic) (BitVec.ofNat 32 id)
          (drainBlocked (coreOf s c) e = true ∨ faultKnown s f = true → exec (.sideLogDrain c id) s = .next again) ∧
          (∀ pa bs, drainBlocked (coreOf s c) e = false → faultKnown s f = false → e.maj = 0 → e.content = bs.map some → bs ≠ [] →
            translate { s with cur := .task k } e.va 1 false true = .ok (.mem pa) → pa % 128 + bs.length ≤ 128 →
            performedAtIssue { s with cur := .task k } pa e.scope = false → ∃ t, exec (.sideLogDrain c id) s = .next t ∧
              Safety.EngineWrote s t k.core pa bs ∧ ∀ e' ∈ (coreOf t c).sideLog, e'.id ≠ id) ∧
          (∀ pa u, drainBlocked (coreOf s c) e = false → faultKnown s f = false →
            translate { s with cur := .task k } e.va (if e.maj = 0 then 1 else LogEntry.span e) (e.maj ≠ 0) true = .ok (.mem pa) →
            drainAt { s with cur := .task k } k e pa = .ok u → ∃ t, exec (.sideLogDrain c id) s = .next t ∧ t.mem = u.mem ∧
              ∀ e' ∈ (coreOf t c).sideLog, e'.id ≠ id)) ∧
    -- HOTNESS_CROSSING and HOTCLR
    ∀ die,
      let d := dieOf s die
      let becomes (t : State) (e e' : HotEntry) : Prop :=
        (dieOf t die).hot = d.hot.map fun x => if x.space = e.space ∧ x.window = e.window then e' else x
      (∀ sp win,
        let head := field d.hotQHead 0 11
        let tail := field d.hotQTail 0 11
        (d.hot.find? (fun e => e.space == sp && e.window == win) = none → exec (.hotnessCrossing die sp win) s = .next s) ∧
        ∀ e, d.hot.find? (fun e => e.space == sp && e.window == win) = some e →
          (e.queued = true → ∃ t, exec (.hotnessCrossing die sp win) s = .next t ∧ t.mem = s.mem ∧ becomes t e { e with requeued := true }) ∧
          (e.queued = false → (tail + 2048 - head) % 2048 = 1024 → ∃ t, exec (.hotnessCrossing die sp win) s = .next t ∧ t.mem = s.mem ∧
            becomes t e { e with deliv := 0, starve := 0 } ∧ (dieOf t die).hotDrop = if d.hotDrop.toNat ≥ 2 ^ 32 - 1 then 0xFFFFFFFF else d.hotDrop + 1) ∧
          (e.queued = false → (tail + 2048 - head) % 2048 ≠ 1024 → ∃ t, exec (.hotnessCrossing die sp win) s = .next t ∧
            becomes t e { e with queued := true } ∧ (dieOf t die).hotQTail = BitVec.ofNat 64 ((tail + 1) % 2048) ∧
            ∀ i, i < (HotEntry.note e die).length →
              readByte t.mem (d.hotQBase.toNat + 16 * (tail % 1024) + i) = (HotEntry.note e die)[i]?.getD 0)) ∧
      ∀ w,
        (d.hot.find? (fun e => e.space == field w 0 16 && e.window == field w 21 36) = none → exec (.hotclr die w) s = .next s) ∧
        ∀ e, d.hot.find? (fun e => e.space == field w 0 16 && e.window == field w 21 36) = some e → ∃ t, exec (.hotclr die w) s = .next t ∧
          t.mem = s.mem ∧ becomes t e { e with queued := false, requeued := false, deliv := 0, starve := 0 }

/-! ### Steps of launches, of the schedulers and of their registers -/

/-- LAUNCHES AND SCHEDULERS (R5, R32, R46 to R51, R53 to R57, R121, R237, R240, R280, R282, R353, R401 to R413): what PRODUCER_COMPLETE, WAITA_TIMEOUT,
TASK_RETIRE, REGION_RETIRE, LAUNCH_COMPLETE, ENGINE_HALT, PREEMPT_SAVE, LAUNCH_RESUME, AGING_PREEMPT, LAUNCH_PACKET_TAKE, CLTX, LEAF_CLTX,
COMMAND_LINK_MESSAGE, CLRX, LEAF_CLRX, RETIRED, MONHIT, MONSET_WATCH, MONSET_UNWATCH, CEFLUSH, GLOBAL_TIMER_EXPIRY, LEAF_TIMER_EXPIRY and REGISTER_WRITE do. What the model itself settles in it is in logs 41, 104, 105 and 128. -/
def Obligations.LaunchesAndSchedulers : Prop :=
  ∀ s : State, Safety.Ordered s → Safety.Rising s.sites → Safety.Rising s.launches →
    -- PRODUCER_COMPLETE
    (∀ a id,
      let u : State := { s with cur := a }
      let again := push u (.producerComplete a id)
      let e : Instr := .producerComplete a id
      ((threadOf s a).producers.find? (fun p => p.id == id) = none → exec e s = .next u) ∧
      ∀ p, (threadOf s a).producers.find? (fun p => p.id == id) = some p →
        let fills (i : Fin 64) (x : Scalar) : Prop := ∃ t, exec e s = .next t ∧ t.mem = s.mem ∧ t.agenda = s.agenda ∧
          (threadOf t a).regs = { (threadOf s a).regs with s := (threadOf s a).regs.s.set i { val := x, full := true } } ∧
          (threadOf t a).producers = (threadOf s a).producers.filter (fun q => q.id != id) ∧ (threadOf t a).pc = (threadOf s a).pc ∧
          ∀ k, a = .task k → (taskOf s k).slot = .waiting (.register (.s i)) → (taskOf t k).slot = .ready
        (∀ i x, p.state = .ready (.scalar i x) ∨ p.state = .performed (.scalar i x) → fills i x) ∧
        (∀ d, p.state = .engine d → exec e s = .next again) ∧
        ∀ k, a = .task k →
          (∀ idx gang gen i, p.state = .barrier idx gang gen i →
            (Group.status (groupOf s (refOr s k).launch { gang := gang, idx := idx }) gen = none → exec e s = .next again) ∧
            ∀ w, Group.status (groupOf s (refOr s k).launch { gang := gang, idx := idx }) gen = some w → fills i (.data w)) ∧
          (∀ va ph i, p.state = .transaction va ph i →
            (pollBarrier u va ph = .ok none → exec e s = .next again) ∧
            ∀ w, pollBarrier u va ph = .ok (some w) → fills i (.data w)) ∧
          (∀ ids i, p.state = .children ids i →
            let mine := (taskOf s k).children.filter fun c => ids.contains c.id
            ((∃ c ∈ mine, c.complete = false) → exec e s = .next again) ∧
            ((∀ c ∈ mine, c.complete = true) → fills i (.data (BitVec.ofNat 64 (min (mine.countP (·.error)) (2 ^ 32 - 1)))))) ∧
          (∀ node i x, p.state = .delta node (.scalar i x) → ∀ n, nodeAt s (refOr s k) node = some n →
            let settled : Prop := (matchOf s n.home).settled = true ∧ nodeAcked s (matchAccessor s n.home) = true
            (settled → fills i x) ∧ (¬settled → exec e s = .next again)) ∧
          (∀ i q sc ev off, p.state = .load (.scalar i false) [q] sc ev → p.held = false → q.got = none →
            translate u q.va q.bytes true false = .ok (.localStore off) → fills i (.data (loadValue false (localRead u off q.bytes))))) ∧
    -- WAITA_TIMEOUT and TASK_RETIRE
    (∀ k,
      ((∀ l b, (taskOf s k).slot ≠ .waiting (.waita l b)) → exec (.waitaTimeout k) s = .next s) ∧
      (∀ l b, (taskOf s k).slot = .waiting (.waita l b) → ∃ t, exec (.waitaTimeout k) s = .next t ∧ taskOf t k = { taskOf s k with slot := .ready } ∧
        t.mem = s.mem ∧ t.agenda = s.agenda) ∧
      ((taskOf s k).slot ≠ .done → exec (.taskRetire k) s = .next s) ∧
      ((taskOf s k).slot = .done →
        ((∃ e ∈ (coreOf s k.core).sideLog, e.task = refOr s k) → exec (.taskRetire k) s = .next (push s (.taskRetire k))) ∧
        ((∀ e ∈ (coreOf s k.core).sideLog, e.task ≠ refOr s k) → ∃ t, exec (.taskRetire k) s = .next t ∧ t.mem = s.mem ∧
          taskOf t k = { taskOf s k with slot := .retired } ∧ (∀ b ∈ (siteOf t (TaskKey.siteKey k)).bindings, b.2 ≠ k.slot) ∧
          ∀ g, regionOf s (refOr s k).launch (refOr s k).region = some g → (∀ k' ∈ regionTasks s g, (taskOf t k').slot = .retired ∨
            (taskOf t k').slot = .absent) → .regionRetire (refOr s k).launch (refOr s k).region ∈ t.agenda))) ∧
    -- REGION_RETIRE
    (∀ l r,
      (regionOf s l r = none → exec (.regionRetire l r) s = .next s) ∧
      ∀ g, regionOf s l r = some g →
        (g.retired = true → exec (.regionRetire l r) s = .next s) ∧
        let early : Prop := g.placed = false ∨ g.dispatched = false ∨ tasksRetired s g = false
        (g.retired = false → (launchOf s l).killed = false → early → exec (.regionRetire l r) s = .next s) ∧
        (g.retired = false → ((launchOf s l).killed = true ∧ early) ∨
            (¬early ∧ (∀ k ∈ regionSites g, Site.stray (siteOf s k) = false) ∧ regionEmpty s l r g = true) → ∃ t h, exec (.regionRetire l r) s = .next t ∧
          t.mem = s.mem ∧ regionOf t l r = some h ∧ h.retired = true ∧ h.placed = false ∧ h.awaited = g.placed ∧
          (g.placed = true → (∀ z ∈ Region.places g, siteOf t (siteAt g z.1 z.2) = Site.gated) ∧
            (g.stray = false ∨ (launchOf s l).killed = true → (coreOf t g.leaf).block.retired = (coreOf s g.leaf).block.retired ++
              [BitVec.ofNat 64 (g.handle % 64 + (((launchOf s l).error.map (·.cause)).getD 0) * 256)]) ∧
            bit (coreOf t g.leaf).block.levents 1 = true ∧
            (coreOf t g.leaf).block.awaiting = (coreOf s g.leaf).block.awaiting ++ [(l, r)]) ∧
          (g.placed = false → (∀ r', r' ≠ r → ∀ g', regionOf s l r' = some g' → g'.retired = true ∧ g'.awaited = false) →
            (launchOf s l).childrenLive = 0 → .launchComplete l ∈ t.agenda)) ∧
        (g.retired = false → ¬early → (∃ k ∈ regionSites g, Site.stray (siteOf s k) = true) → ∃ t h, exec (.regionRetire l r) s = .next t ∧
          t.mem = s.mem ∧ regionOf t l r = some h ∧ h.stray = true ∧ .regionRetire l r ∈ t.agenda ∧
          ∀ k ∈ regionSites g, Site.stray (siteOf t k) = false)) ∧
    -- LAUNCH_COMPLETE
    (∀ l,
      (Tab.find? s.launches l = none → exec (.launchComplete l) s = .next s) ∧
      ∀ a, Tab.find? s.launches l = some a →
        (launchOver a = false → exec (.launchComplete l) s = .next s) ∧
        (launchOver a = true → launchUnregistered s l = true → exec (.launchComplete l) s = .next (push s (.launchComplete l))) ∧
        (∀ v pa, launchOver a = true → launchUnregistered s l = false →
          ((a.error = none ∨ a.errRec = 0) ∧ v = s ∨ ∃ e pe, a.error = some e ∧ a.errRec ≠ 0 ∧ writablePa s a.space a.errRec = some pe ∧
            Safety.HomeWritable s pe 16 ∧ v = homeWrite s pe (LaunchError.record e l)) →
          writablePa v a.space a.signal = some pa → Safety.HomeWritable v pa 8 →
          let w : W64 := BitVec.ofNat 64 (leNat (homeRead v pa 8))
          let new : W64 := (bits w 32 32 + (if a.error.isSome then 1 else 0) : W32) ++ (bits w 0 32 + 1 : W32)
          ∃ t, exec (.launchComplete l) s = .next t ∧ Safety.MemoryWritten v t pa (leBytes 8 new.toNat) ∧ Tab.find? t.launches l = none ∧
            ∀ p, a.parent ≠ 0 → a.parent ≠ l → Tab.find? s.launches a.parent = some p →
              (launchOf t a.parent).childrenLive = p.childrenLive - 1)) ∧
    -- ENGINE_HALT
    (∀ n,
      (nodeLaunch s n = none → exec (.engineHalt n) s = .next s) ∧
      ∀ l, nodeLaunch s n = some l →
        ((launchOf s l).preempt = false ∨ nodeEnding s n = true → exec (.engineHalt n) s = .next s) ∧
        ((launchOf s l).preempt = true → nodeEnding s n = false → ∃ t, exec (.engineHalt n) s = .next t ∧ nodeHalted t n = true ∧ t.mem = s.mem ∧ t.agenda = s.agenda)) ∧
    -- PREEMPT_SAVE, LAUNCH_RESUME and AGING_PREEMPT
    (∀ l,
      let again : Instr := .preemptSave l
      (Tab.find? s.launches l = none → exec again s = .next s) ∧
      (∀ a, Tab.find? s.launches l = some a →
        (a.preempt = false ∨ (∀ g ∈ a.regions, g.retired = true) → ∃ t, exec again s = .next t ∧ (launchOf t l).preempt = false ∧
          (launchOf t l).preemptProducers = [] ∧ (launchOf t l).saved = a.saved ∧ t.mem = s.mem) ∧
        (a.preempt = true → (∃ g ∈ a.regions, g.retired = false) →
          ((∃ g ∈ a.regions, g.retired = false ∧ g.dispatched = false) → exec again s = .next (push s again)) ∧
          ((∀ g ∈ a.regions, g.retired = true ∨ g.dispatched = true) →
            (∀ n ∈ launchNodes a, nodeHalted s n = false → ∃ t, exec again s = .next t ∧ .engineHalt n ∈ t.agenda ∧ again ∈ t.agenda ∧
              t.mem = s.mem ∧ t.launches = s.launches) ∧
            ((∀ n ∈ launchNodes a, nodeHalted s n = true) →
              (saveReady s l a = false → exec again s = .next (push s again)) ∧
              (saveReady s l a = true → ∃ t, exec again s = .next t ∧ (launchOf t l).state = .saved ∧ (launchOf t l).saved = some (snapshot s l a) ∧
                (launchOf t l).preempt = false ∧ (∀ g ∈ (launchOf t l).regions, g.placed = false) ∧
                ∀ g ∈ a.regions, g.placed = true → ∀ z ∈ Region.places g, siteOf t (siteAt g z.1 z.2) = Site.gated))))) ∧
      ((launchOf s l).saved = none ∨ (launchOf s l).killed = true ∨ allInstalled s l = false → exec (.launchResume l) s = .next s) ∧
      (∀ v, (launchOf s l).saved = some v → (launchOf s l).killed = false → allInstalled s l = true → logsFit s v = false →
        exec (.launchResume l) s = .next (push s (.launchResume l))) ∧
      (∀ v, (launchOf s l).saved = some v → (launchOf s l).killed = false → allInstalled s l = true → logsFit s v = true → ∃ t, exec (.launchResume l) s = .next t ∧
        (launchOf t l).state = .running ∧ (launchOf t l).saved = none ∧ (launchOf t l).resumed = some s.time ∧
        (∀ g ∈ (launchOf t l).regions, g.dispatched = true) ∧ t.mem = s.mem) ∧
      (agingVictims s l = [] → exec (.agingPreempt l) s = .next s) ∧
      ∃ t, exec (.agingPreempt l) s = .next t ∧ t.mem = s.mem ∧ (∀ v ∈ agingVictims s l, (launchOf t v).preempt = true ∧ .preemptSave v ∈ t.agenda) ∧
        ∀ v, (launchOf t v).preempt ≠ (launchOf s v).preempt →
          (launchOf s v).prio < min 7 ((launchOf s l).prio + periods s (launchOf s l).since) ∧ 1 ≤ periods s (launchOf s l).waits ∧
            (launchOf s v).state = .running) ∧
    -- LAUNCH_PACKET_TAKE
    (∀ q,
      (eligible s q = false → exec (.launchPacketTake q) s = .next s) ∧
      ∀ p, eligible s q = true → (placeReady s (qcbAddr s q) 64 true true = .ok () ∨ Safety.HomeWritable s (qcbAddr s q) 64) →
        let u := fillEntry s q
        let e := entryOf u q
        let head := (headTail u q).1
        let l := freshLid u
        Safety.HeadIs u e head p → ∃ t, exec (.launchPacketTake q) s = .next t ∧
          (at' p 0 1 ≠ 2 ∨ packetOk p (bit e.flags 1) = false ∨ spaceValid u 0 e.space = false →
            ∀ j, j < 8 → readByte t.mem (qcbAddr s q + 16 + j) = (leBytes 8 (head + 1))[j]?.getD 0) ∧
          (packetOk p (bit e.flags 1) = true → spaceValid u 0 e.space = true → at' p 0 1 = 1 →
            let a := launchOf t l
            a.state = .pending ∧ a.space = e.space ∧ a.queue = q ∧ a.seq = head ∧ a.prio = min (at' p 2 1) e.prio ∧ a.signal = word64At p 24 ∧
            a.errRec = word64At p 48 ∧ a.regions = [Region.unplaced (at' p 4 1) (at' p 5 1) (word64At p 8) (word64At p 16)] ∧ a.error = none ∧
            a.since = publishedAt u q ∧ a.waits = s.time ∧ a.parent = if bit e.flags 1 then at' p 32 4 else 0) ∧
          (packetOk p (bit e.flags 1) = false ∨ spaceValid u 0 e.space = false → signalUsable p = true →
            .launchComplete l ∈ t.agenda ∧ ∃ x, (launchOf t l).error = some x ∧ x.cause = 15)) ∧
    -- the command links
    (∀ (c : Fin 16) w,
      let g := s.glob
      let x := coreOf s c
      (g.permits.get c = 0 → exec (.cltx c w) s = .next s) ∧
      (g.permits.get c ≠ 0 → ∃ t, exec (.cltx c w) s = .next t ∧ t.glob.permits.get c = g.permits.get c - 1 ∧ t.mem = s.mem ∧
        t.glob.txFlight.get c = g.txFlight.get c ++ [(g.tx.get c).set 7 w] ∧ t.agenda = s.agenda ++ [.commandLinkMessage true c]) ∧
      (x.block.permits = 0 → exec (.leafCltx c w) s = .next s) ∧
      (x.block.permits ≠ 0 → ∃ t, exec (.leafCltx c w) s = .next t ∧ (coreOf t c).block.permits = x.block.permits - 1 ∧ t.mem = s.mem ∧
        (coreOf t c).block.txFlight = x.block.txFlight ++ [x.block.tx.set 7 w] ∧ t.agenda = s.agenda ++ [.commandLinkMessage false c]) ∧
      (g.txFlight.get c = [] → exec (.commandLinkMessage true c) s = .next s) ∧
      (∀ m r, g.txFlight.get c = m :: r → ∃ t, exec (.commandLinkMessage true c) s = .next t ∧ t.glob.txFlight.get c = r ∧ t.mem = s.mem ∧
        (coreOf t c).block.rx = x.block.rx ++ [m] ∧ (coreOf t c).block.levents = x.block.levents ||| 1 ∧ (coreOf t c).leaf.idle = false) ∧
      (x.block.txFlight = [] → exec (.commandLinkMessage false c) s = .next s) ∧
      (∀ m r, x.block.txFlight = m :: r → ∃ t, exec (.commandLinkMessage false c) s = .next t ∧ (coreOf t c).block.txFlight = r ∧ t.mem = s.mem ∧
        t.glob.rx = g.rx ++ [(c.val, m)] ∧ t.glob.events = g.events ||| 2 ∧ t.glob.ctl.idle = false ∧
        -- a DONE report of the leaf (R403, R413): for its oldest region that it has not reported (log 128)
        (field (m[0]?.getD 0) 0 8 ≠ 3 → (coreOf t c).block.awaiting = x.block.awaiting) ∧
        ∀ l i rest, field (m[0]?.getD 0) 0 8 = 3 → x.block.awaiting = (l, i) :: rest → (coreOf t c).block.awaiting = rest ∧
          ∀ h, Tab.find? s.launches l ≠ none → regionOf s l i = some h → regionOf t l i = some { h with awaited := false } ∧ .launchComplete l ∈ t.agenda) ∧
      (g.rx = [] → exec .clrx s = .next s) ∧
      (∀ d m r, g.rx = (d, m) :: r → ∃ t, exec .clrx s = .next t ∧ t.glob = { g with rx := r } ∧ t.mem = s.mem ∧
        (coreOf t d).block.permits = (coreOf s d).block.permits + 1) ∧
      (x.block.rx = [] → exec (.leafClrx c) s = .next s) ∧
      (∀ m r, x.block.rx = m :: r → ∃ t, exec (.leafClrx c) s = .next t ∧ (coreOf t c).block.rx = r ∧ t.mem = s.mem ∧
        t.glob.permits.get c = g.permits.get c + 1) ∧
      -- RETIRED and LEAF_TIMER_EXPIRY
      (∃ t, exec (.retired c) s = .next t ∧ Safety.CoreBut s t c { x with block := { x.block with retired := x.block.retired.drop 1 } }) ∧
      (∃ t, exec (.leafTimerExpiry c) s = .next t ∧ Safety.CoreBut s t c
        { x with block := { x.block with levents := x.block.levents ||| 8 }, leaf := { x.leaf with idle := false } })) ∧
    -- MONHIT, MONSET_WATCH, MONSET_UNWATCH, CEFLUSH and GLOBAL_TIMER_EXPIRY
    (let g := s.glob
     exec .monhit s = .next { s with glob := { g with hits := g.hits.drop 1 } } ∧
     (∀ q,
       let line := qcbAddr s q / 128
       (∃ t, exec (.monsetWatch q) s = .next t ∧ t = { s with glob := t.glob } ∧ t.glob = { g with monitored := t.glob.monitored } ∧
         (line ∈ g.monitored → t.glob.monitored = g.monitored) ∧
         (line ∉ g.monitored → g.monitored.length < 4096 → t.glob.monitored = g.monitored ++ [line])) ∧
       (∃ t, exec (.monsetUnwatch q) s = .next t ∧ t = { s with glob := t.glob } ∧ t.glob = { g with monitored := t.glob.monitored } ∧
         ∀ z, z ∈ t.glob.monitored ↔ z ∈ g.monitored ∧ z ≠ line) ∧
       (g.entries.find? (fun e => e.queue == q) = none → exec (.ceflush q) s = .next s) ∧
       (∀ e, g.entries.find? (fun e => e.queue == q) = some e → ∃ t, exec (.ceflush q) s = .next t ∧
         (∀ x ∈ t.glob.entries, x.queue ≠ q) ∧
         ∀ j, j < 16 → readByte t.mem (qcbAddr s q + 48 + j) = (leBytes 16 e.sched.toNat)[j]?.getD 0)) ∧
     (g.timer = 0 → exec .globalTimerExpiry s = .next s) ∧
     (g.timer ≠ 0 → ∃ t, exec .globalTimerExpiry s = .next t ∧ t = { s with glob := t.glob } ∧
       t.glob = { g with timer := 0, events := g.events ||| 4, ctl := { g.ctl with idle := false } })) ∧
    -- REGISTER_WRITE
    ∀ addr w,
      (regAt addr = none → exec (.registerWrite addr w) s = .next s) ∧
      ∀ r, regAt addr = some r →
        (denied s r true = true → ∃ t, exec (.registerWrite addr w) s = .next t ∧ t = { s with dbg := t.dbg } ∧
          (s.dbg.deny ≠ BitVec.allOnes 64 → t.dbg.deny = s.dbg.deny + 1)) ∧
        (denied s r true = false →
          (∀ lo hi, Safety.rwBits r = some (lo, hi) → ∃ t, exec (.registerWrite addr w) s = .next t ∧ t.mem = s.mem ∧ t.launches = s.launches ∧
            t.sites = s.sites ∧ readReg t r = BitVec.ofNat 64 (field w lo (hi + 1 - lo) * 2 ^ lo)) ∧
          (∀ c, r = .events ∨ r = .levents c ∨ r = .brkStat → ∃ t, exec (.registerWrite addr w) s = .next t ∧ t.mem = s.mem ∧
            t.launches = s.launches ∧ t.sites = s.sites ∧ readReg t r = readReg s r &&& ~~~w))

/-! ### Debug, reliability and bring-up -/

/-- DEBUG AND RELIABILITY (R207, R208, R418 to R420, R422, R431 to R440, R450 to R456): what HALTCTL_HALT, HALTCTL_RESUME, DBGDATA, MARK_HOP, MARKINJ,
TRCSEL, TRCSTAT_TRIGGER, TRACE_STOP, TRCDUMP, OWNER_LOSS, UNCORRECTABLE_ERROR, LOCKSTEP_MISMATCH, SELF_CHECK_DONE, RASINJ, CLKSTEP, THERMAL_STEP,
THERMAL_SHUTDOWN, CXL_PORT_DOWN, FLOHOLT_PORT_DOWN, FABRIC_REQUEST and REMOTE_REFUSAL do. That a request waits while its words are not at rest, how a
walk finds its producer, what RASINJ and a thermal step record, how the debug block
reaches memory, and how far an error of the memory reaches are the model's choices (logs 1, 47, 49, 53 and 140). -/
def Obligations.DebugAndReliability : Prop :=
  ∀ s : State, Safety.Ordered s →
    -- HALTCTL_HALT and HALTCTL_RESUME
    (∀ l (halt : Bool),
      let e : Instr := if halt then .haltctlHalt l else .haltctlResume l
      (Tab.find? s.launches l = none → exec e s = .next s) ∧
      ∀ a, Tab.find? s.launches l = some a →
        (a.killed = true ∨ a.state = .complete → exec e s = .next s) ∧
        (a.killed = false → a.state ≠ .complete → ∃ t, exec e s = .next t ∧ t = { s with launches := t.launches } ∧
          launchOf t l = { a with halted := halt } ∧ ∀ m, m ≠ l → launchOf t m = launchOf s m)) ∧
    -- DBGDATA
    (∀ w,
      (selectedTask s = none → exec (.dbgdata w) s = .next s) ∧
      ∀ k, selectedTask s = some k → ∃ t, exec (.dbgdata w) s = .next t ∧ t.mem = s.mem ∧ t.launches = s.launches ∧ t.cores = s.cores ∧
        let r := (taskOf s k).thread.regs
        let r' := (taskOf t k).thread.regs
        let item := field s.dbg.dbgSel 24 8
        let lane := field s.dbg.dbgSel 32 6
        (∀ i : Fin 64, r'.s.get i = if item = i then { val := .data w, full := true } else if item = 112 ∧ lane = i then
          { (r.s.get i) with full := bit w 63 } else r.s.get i) ∧
        (∀ i : Fin 32, item ≠ 64 + i → r'.v.get i = r.v.get i) ∧
        (∀ i : Fin 32, item = 64 + i → (r'.v.get i).full = true ∧
          ∀ j : Fin 64, (r'.v.get i).lanes.get j = if lane = j then .data (w.setWidth 32) else (r.v.get i).lanes.get j) ∧
        (∀ i : Fin 8, Regs.readP r' i = if item = 96 + i ∧ i ≠ 0 then w else Regs.readP r i) ∧
        (∀ i : Fin 8, Regs.readQ r' i = if item = 104 + i then w else Regs.readQ r i) ∧
        (∀ i : Fin 64, item = i → (taskOf s k).slot = .waiting (.register (.s i)) → (taskOf t k).slot = .ready)) ∧
    -- MARK_HOP and MARKINJ
    (∀ w : MarkWalk,
      let e : Instr := .markHop w
      ((elementOwner s w.place).map (·.launch) ≠ some w.launch → exec e s = .next s) ∧
      ((elementOwner s w.place).map (·.launch) = some w.launch →
        (Safety.ringFull s → exec e s = .next s) ∧
        (¬ Safety.ringFull s → ∃ t, exec e s = .next t ∧
          (walkFiring s w.place w.out = none → Safety.PathTold s t w 2 { input := 0, arrive := 0, fire := 0, task := 0xFF, word := 0xFFFF } ∧
            t.agenda = s.agenda) ∧
          ∀ f, walkFiring s w.place w.out = some f →
            (fromMemory s w.place f = true → Safety.PathTold s t w 1 f ∧ t.agenda = s.agenda) ∧
            (fromMemory s w.place f = false →
              (producerOf s w.place f.input f.arrive = none → Safety.PathTold s t w 3 f ∧ t.agenda = s.agenda) ∧
              ∀ p, producerOf s w.place f.input f.arrive = some p →
                (255 ≤ w.hop → Safety.PathTold s t w 4 f ∧ t.agenda = s.agenda) ∧
                (w.hop < 255 → Safety.PathTold s t w 0 f ∧ t.agenda = s.agenda ++ [.markHop { w with hop := w.hop + 1, place := p.1, out := p.2 }]))))) ∧
    (∀ w : W64,
      let found := elementWith s (field w 0 32) (BitVec.ofNat 32 (field w 32 20))
      (found = none → exec (.markinj w) s = .next s) ∧
      ∀ p, found = some p → ∃ t, exec (.markinj w) s = .next t ∧ t = { s with agenda := t.agenda } ∧
        t.agenda = s.agenda ++ [.markHop { launch := field w 0 32, sample := field w 52 12, hop := 0, place := p, out := none }]) ∧
    -- the issue trace
    (∀ w : W64,
      (∃ t, exec (.trcsel w) s = .next t ∧ t = { s with dbg := t.dbg } ∧ readReg t .trcSel = BitVec.ofNat 64 (field w 0 5) ∧
        bit t.dbg.trcStat 0 = bit w 4 ∧ (bit w 4 = true → t.dbg.trcRows = [] ∧ bit t.dbg.trcStat 1 = false ∧ bit t.dbg.trcStat 2 = false)) ∧
      ((∀ r ∈ s.dbg.trcRows, r.length = 68) → ∃ t, exec (.trcdump w) s = .next t ∧ t.launches = s.launches ∧ t.dbg = s.dbg ∧
        ∀ (n c : Nat) r x, s.dbg.trcRows[n]? = some r → r[c]? = some x → ∀ b, b < 2 →
          readByte t.mem (4096 * field w 12 40 + 4096 + 136 * n + 2 * c + b) = BitVec.ofNat 8 (x.toNat / 256 ^ b))) ∧
    (bit s.dbg.trcStat 0 = false ∨ bit s.dbg.trcStat 1 = true → exec .trcstatTrigger s = .next s) ∧
    (bit s.dbg.trcStat 0 = true → bit s.dbg.trcStat 1 = false → ∃ t, exec .trcstatTrigger s = .next t ∧ t.mem = s.mem ∧
      bit t.dbg.trcStat 0 = true ∧ bit t.dbg.trcStat 1 = true ∧ t.dbg.trcLeft = field s.dbg.trcPost 0 17 ∧ .traceStop ∈ t.agenda) ∧
    (bit s.dbg.trcStat 0 = false ∨ bit s.dbg.trcStat 1 = false → exec .traceStop s = .next s) ∧
    (bit s.dbg.trcStat 0 = true → bit s.dbg.trcStat 1 = true →
      (s.dbg.trcLeft ≠ 0 → exec .traceStop s = .next (push s .traceStop)) ∧
      (s.dbg.trcLeft = 0 → ∃ t, exec .traceStop s = .next t ∧ t = { s with dbg := t.dbg } ∧ bit t.dbg.trcStat 0 = false ∧
        bit t.dbg.trcStat 2 = true ∧ t.dbg.trcRows = s.dbg.trcRows)) ∧
    -- OWNER_LOSS and UNCORRECTABLE_ERROR
    (∀ c, ∃ t, exec (.ownerLoss c) s = .next t ∧ exec (.uncorrectableError (.leaf c)) s = .next t ∧ (coreOf t c).inService = false ∧
      (coreOf t c).l1 = [] ∧ (coreOf t c).leaf.running = false ∧ Safety.RasTold s t 12 1 (c / 4) c 0 0 ∧
      (∀ line w, w < 32 → (∀ r ∈ (homeLine s line).revoking, r.core ≠ c) → wbComing s c line w = false → Safety.ownerOf t line w ≠ some c) ∧
      ∀ l ∈ launchesOn s c, Safety.Alive s l → (launchOf t l).killed = true ∧
        ((∀ p ∈ (coreOf s c).l1, dirtyWords p.2 = 0) → Safety.Killed s t l 14 0)) ∧
    (∀ l, Safety.Alive s l → ∃ t, exec (.uncorrectableError (.launchState l)) s = .next t ∧ Safety.Killed s t l 14 0 ∧
      Safety.RasTold s t 2 1 (launchPlace s l).1 (launchPlace s l).2 l 0) ∧
    (∀ pa l, Safety.Alive s l → ∃ t, exec (.uncorrectableError (.dram pa l)) s = .next t ∧ Safety.Killed s t l 14 0 ∧
      Safety.RasTold s t 4 1 (launchPlace s l).1 (launchPlace s l).2 l (BitVec.ofNat 64 pa) ∧ (isDram pa = true → lineBad t (pa / 128) = true)) ∧
    (∀ pa l, Safety.Alive s l → ∃ t, exec (.uncorrectableError (.dramAgain pa l)) s = .next t ∧ Safety.Killed s t l 14 0 ∧
      Safety.RasTold s t 4 1 (launchPlace s l).1 (launchPlace s l).2 l (BitVec.ofNat 64 pa)) ∧
    (∀ c line w,
      let x := l1Line (coreOf s c) line
      (bit x.owned w = false ∨ field x.dirty (4 * w) 4 = 0 → exec (.uncorrectableError (.l1Word c line w)) s = .next s) ∧
      (bit x.owned w = true → field x.dirty (4 * w) 4 ≠ 0 → ∃ t, exec (.uncorrectableError (.l1Word c line w)) s = .next t ∧
        bit (l1Line (coreOf t c) line).owned w = false ∧ Safety.RasTold s t 2 1 (c / 4) c 0 (BitVec.ofNat 64 (128 * line + 4 * w)))) ∧
    -- the scheduler cores
    (∃ t, exec .lockstepMismatch s = .next t ∧ t.glob.ctl.running = false ∧ t.dbg.checking = true ∧ t.launches = s.launches ∧
      Safety.RasTold s t 7 1 0 0 0 0) ∧
    (∀ p0 p2,
      (s.dbg.checking = false → exec (.selfCheckDone p0 p2) s = .next s) ∧
      (s.dbg.checking = true → ∃ t, exec (.selfCheckDone p0 p2) s = .next t ∧ t.dbg.checking = false ∧ t.launches = s.launches ∧
        (p0 = true ∨ p2 = true → t.glob.active = (if p0 then 0 else 2) ∧ t.glob.ctl.running = true ∧ t.mem = s.mem ∧
          t.glob.ctl.thread = Thread.start (leNat ((s.dbg.fwSlot.drop 32).take 4))) ∧
        (p0 = false → p2 = false → t.glob.ctl.running = s.glob.ctl.running ∧ Safety.RasTold s t 7 2 0 0 0 0))) ∧
    -- RASINJ, CLKSTEP, THERMAL_STEP and THERMAL_SHUTDOWN
    (∀ w : W64,
      (∃ t sev, exec (.rasinj w) s = .next t ∧ Safety.RasTold s t (field w 0 8) sev (field w 12 4) (field w 8 4) 0 0) ∧
      ∃ t, exec (.clkstep w) s = .next t ∧ t = { s with dbg := t.dbg } ∧ readReg t .clkStep = BitVec.ofNat 64 (field w 0 2)) ∧
    (∃ t, exec .thermalStep s = .next t ∧ Safety.RasTold s t 10 1 0 0 0 0 ∧
      readReg t .clkStep = BitVec.ofNat 64 (min 3 (field s.dbg.clkStep 0 2 + 1)) ∧
      ((∃ d, d < 4 ∧ 95 ≤ (Config.temperature s.clock d).toNat) → .thermalStep ∈ t.agenda)) ∧
    (∃ t, exec .thermalShutdown s = .next t ∧ t = { s with dbg := t.dbg } ∧
      ∀ m ∈ moves t, ∃ i, m = .event i ∧ t.agenda[i]? = some .coldStart) ∧
    -- ports and the fabric
    (∀ die, ∃ t, exec (.cxlPortDown die) s = .next t ∧ t = { s with glob := t.glob } ∧ t.glob.events = s.glob.events ||| 16 ∧
      ∀ d, d < 4 → bit t.glob.cxlUp d = (d != die && bit s.glob.cxlUp d)) ∧
    (∀ port, port < 18 → ∃ t, exec (.floholtPortDown port) s = .next t ∧ bit t.glob.events 3 = true ∧
      (∀ p, p < 18 → bit t.glob.floholtUp p = (p != port && bit s.glob.floholtUp p)) ∧
      ∀ n, n < 4096 → ∀ p, p < 32 → (leNat (homeRead t (4096 * field s.glob.rtBase 12 40 + 8 * n) 4)).testBit p =
        (p != port && (leNat (homeRead s (4096 * field s.glob.rtBase 12 40 + 8 * n) 4)).testBit p)) ∧
    (∀ req : RemoteRequest,
      let e : Instr := .fabricRequest req
      (req.incarnation ≠ s.glob.incarn ∨ physKind req.pa = .far ∨ physReady s req.pa = false → exec e s = .next s) ∧
      (req.incarnation = s.glob.incarn → physKind req.pa ≠ .far → physReady s req.pa = true →
        let does (bs : List Byte) : Prop :=
          (homeBusy s req.pa bs.length = true → ∃ t, exec e s = .next t ∧ e ∈ t.agenda ∧ t.mem = s.mem) ∧
          (homeBusy s req.pa bs.length = false → ∃ t, exec e s = .next t ∧
            (∀ j, j < bs.length → homeByte t (req.pa + j) = bs[j]?.getD 0) ∧
            ∀ j, j < req.pa ∨ req.pa + bs.length ≤ j → homeByte t j = homeByte s j)
        (∀ n, req.op = .read n → homeBusy s req.pa n = false → exec e s = .next s) ∧
        (∀ bs, req.op = .write bs → does bs) ∧
        ∀ fn b c, req.op = .atomic fn b c →
          let n := rmwBytes 0x42 fn
          does (leBytes n (amoNew fn (BitVec.ofNat 64 (leNat (homeRead s req.pa n))) c b).toNat))) ∧
    ∀ node, ∃ t, exec (.remoteRefusal node) s = .next t ∧ t.mem = s.mem ∧ t.launches = s.launches ∧ t.cores = s.cores ∧ t.sites = s.sites ∧
      (∀ d, ∀ x ∈ (dieOf t d).remoteCache, x.node ≠ node ∧ x ∈ (dieOf s d).remoteCache) ∧
      ∀ i : Fin 16,
        let x := s.glob.windows.get i
        let targets := bit x.tgt 1 = false ∧ field x.tgt 4 12 = node
        (targets → t.glob.windows.get i = { x with tgt := x.tgt ||| 0x100000000 }) ∧ (¬ targets → t.glob.windows.get i = x)

/-- BRING-UP (R419, R441 to R449): what MEASEXT, the thirteen training steps, TRAINING_COMPLETE, COLD_START, WARM_START, FIRMWARE_LOAD, RCVGO, QUOTE,
QUOTE_DONE, DBGTOKEN and DBGTOKEN_VERIFIED do. What TRNSTAT shows, that memory reads as zero after a cold start, what a reset keeps, what RCVGO does while firmware runs, what is
hashed, and the order of a quote's fields are the model's choices (logs 4, 9, 43, 44, 50 and 51). -/
def Obligations.BringUp : Prop :=
  ∀ s : State, Safety.Ordered s →
    -- MEASEXT
    (∀ w : W64,
      (field w 0 3 ≤ 4 → exec (.measext w) s = .next s) ∧
      (4 < field w 0 3 → ∃ t, exec (.measext w) s = .next t ∧ t = { s with dbg := t.dbg } ∧
        Safety.Extended s t (field w 0 3) (homeRead s (64 * field w 6 46) 64))) ∧
    -- training
    (∀ u e code, Safety.TrainingStep u e code →
      ((unitClass u).valid code = true → ∃ t, exec e s = .next t ∧ Safety.Training t u code ∧ t.mem = s.mem ∧ t.launches = s.launches) ∧
      ((unitClass u).valid code = false → ∃ t, exec e s = .next t ∧ t = { s with dbg := t.dbg } ∧ (trainAt t u).stat = 3)) ∧
    (∀ u code pass,
      let x := trainAt s u
      let ok := pass && (code != 7 || x.saved)
      let k := unitClass u
      ∃ t, exec (.trainingComplete u code pass) s = .next t ∧ t.mem = s.mem ∧ t.launches = s.launches ∧ t.cores = s.cores ∧
        (ok = true → code = 6 → (trainAt t u).saved = true) ∧
        (ok = true → code = 8 → u < 38 → bit t.dbg.ready (1 + u) = true ∧ (16 ≤ u → u < 34 → bit t.glob.floholtUp (u - 16) = true) ∧
          (34 ≤ u → bit t.glob.cxlUp (u - 34) = true)) ∧
        (ok = false ∨ code ≠ 8 → t.dbg.ready = s.dbg.ready ∧ t.glob = s.glob) ∧
        (x.step ≠ code → t.agenda = s.agenda ∧ (code ≠ 10 → (trainAt t u).stat = if ok then 2 else 3)) ∧
        (x.step = code → ok = true →
          (k.after code = none → (trainAt t u).step = 0 ∧ t.agenda = s.agenda) ∧
          ∀ c, k.after code = some c → k.valid c = true → (trainAt t u).step = c ∧ (trainAt t u).tries = 1 ∧ Safety.Training t u c) ∧
        (x.step = code → ok = false →
          (x.tries ≤ 3 → k.valid code = true → (trainAt t u).step = code ∧ (trainAt t u).tries = x.tries + 1 ∧ Safety.Training t u code) ∧
          (3 < x.tries → code ≠ 7 → (trainAt t u).step = 0 ∧ t.agenda = s.agenda) ∧
          (3 < x.tries → code = 7 → k.valid 1 = true → (trainAt t u).step = 1 ∧ Safety.Training t u 1))) ∧
    -- COLD_START and WARM_START
    (∃ t, exec .coldStart s = .next t ∧ Safety.Restarted s t 0x8000000001 ∧
      (∀ j, readByte t.mem j = if physKind j = .far then readByte s.mem j else 0) ∧ t.glob.floholtUp = State.reset.glob.floholtUp ∧
      t.glob.cxlUp = State.reset.glob.cxlUp ∧ ∀ u, u < 38 → unitClass u ≠ .absent → (trainAt t u).step = 1 ∧ Safety.Training t u 1) ∧
    (s.dbg.retained ≠ Config.bootDigest → exec .warmStart s = exec .coldStart s) ∧
    (s.dbg.retained = Config.bootDigest → ∃ t, exec .warmStart s = .next t ∧
      Safety.Restarted s t (0x8000000001 ||| (s.glob.floholtUp.setWidth 64 <<< 17) ||| (s.glob.cxlUp.setWidth 64 <<< 35)) ∧
      (∀ j d, physKind j = .hbm d ∨ physKind j = .lpddr d ∨ physKind j = .far → readByte t.mem j = readByte s.mem j) ∧
      t.glob.floholtUp = s.glob.floholtUp ∧ t.glob.cxlUp = s.glob.cxlUp ∧ t.time = s.time ∧
      ∀ u, u < 16 → (trainAt t u).step = 7 ∧ (trainAt t u).saved = (trainAt s u).saved ∧ Safety.Training t u 7) ∧
    -- FIRMWARE_LOAD and RCVGO
    (let img := s.dbg.fwSlot
     (bit s.dbg.ready 39 = false → exec .firmwareLoad s = .next s) ∧
     (bit s.dbg.ready 39 = true →
       (¬ Safety.ImageOk img → ∃ t, exec .firmwareLoad s = .next t ∧ t = { s with dbg := t.dbg } ∧ t.dbg.ready = s.dbg.ready ∧ t.dbg.rcvStat = 1) ∧
       (Safety.ImageOk img → ∃ t, exec .firmwareLoad s = .next t ∧ Safety.Booted s t img ∧ t.mem = s.mem ∧ t.dbg.fwSlot = img))) ∧
    (∀ w : W64,
      let img := recoveryImage s
      (bit w 0 = false ∨ bit s.dbg.ready 40 = true → exec (.rcvgo w) s = .next s) ∧
      (bit w 0 = true → bit s.dbg.ready 40 = false →
        (¬ Safety.ImageOk img → ∃ t d, exec (.rcvgo w) s = .next t ∧ t = { s with dbg := t.dbg } ∧ t.dbg.rcvStat = 3 ∧
          t.dbg.ready = s.dbg.ready ∧ t.dbg.fwSlot = s.dbg.fwSlot ∧ Safety.Extended s t 4 (digestBytes d)) ∧
        (Safety.ImageOk img → ∃ t d, exec (.rcvgo w) s = .next t ∧ Safety.Booted s t img ∧ t.mem = s.mem ∧ t.dbg.fwSlot = img ∧
          ∀ m : Fin 8, m.val = 4 → t.dbg.meas.get m = shake256 (digestBytes (s.dbg.meas.get m) ++ digestBytes d)))) ∧
    -- QUOTE and QUOTE_DONE
    (∀ w : W64, ∃ t, exec (.quote w) s = .next t ∧ t = { s with dbg := t.dbg, agenda := t.agenda } ∧ t.dbg = { s.dbg with qStat := 1 } ∧
      t.agenda = s.agenda ++ [.quoteDone (64 * field w 6 46)]) ∧
    (∀ pa,
      let q := s.dbg.meas.toList.flatMap digestBytes ++ homeRead s pa 64 ++ [Config.lifecycle.setWidth 8, s.dbg.dbgEn] ++
        leBytes 2 s.glob.incarn.toNat ++ (s.dbg.fwSlot.drop 4).take 4
      let bs := q ++ Config.slhSign q
      (Config.lifecycle = 3 → ∃ t, exec (.quoteDone pa) s = .next t ∧ t.mem = s.mem ∧ t.dbg.qStat = 0) ∧
      (Config.lifecycle ≠ 3 → ∃ t, exec (.quoteDone pa) s = .next t ∧ t.dbg = { s.dbg with qStat := 2 } ∧ t.launches = s.launches ∧
        (∀ j, j < bs.length → homeByte t (pa + 64 + j) = bs[j]?.getD 0) ∧
        ∀ j, j / 4 < (pa + 64) / 4 ∨ (pa + 63 + bs.length) / 4 < j / 4 → homeByte t j = homeByte s j)) ∧
    -- DBGTOKEN and DBGTOKEN_VERIFIED
    (∀ w : W64, ∃ t, exec (.dbgtoken w) s = .next t ∧ t = { s with dbg := t.dbg, agenda := t.agenda } ∧ t.dbg = { s.dbg with tokStat := 1 } ∧
      t.agenda = s.agenda ++ [.dbgtokenVerified (8 * field w 3 49)]) ∧
    ∀ pa,
      let k := homeRead s pa 29944
      let good : Prop := Config.lifecycle = 1 ∧ leBytes 64 (shake256 (digestBytes Config.idPub)).toNat = k.take 64 ∧
        shake256 ((k.drop 88).take 64) ∈ Config.rootKeyDigests ∧ slhVerify ((k.drop 88).take 64) (k.take 152) (k.drop 152) = true
      (good → ∃ t, exec (.dbgtokenVerified pa) s = .next t ∧ t = { s with dbg := t.dbg } ∧ t.dbg.tokStat = 2 ∧
        (∀ i, i < 8 → bit t.dbg.dbgEn i = (bit s.dbg.dbgEn i || (i < 7 && bit (homeByte s (pa + 64)) i))) ∧
        Safety.Extended s t 3 (digestBytes (shake256 k))) ∧
      (¬ good → ∃ t, exec (.dbgtokenVerified pa) s = .next t ∧ t = { s with dbg := { s.dbg with tokStat := 3 } })

/-! ### The machine as a whole -/

/-- ENCODING IS EXACT (R88 to R108): every well-formed instruction is what its word decodes to, from the word and from its 16 bytes in an instruction
store; and a word that decodes to an instruction is that instruction's encoding, so no bit of a word is dropped and no instruction has two words. -/
def Obligations.EncodingIsExact : Prop :=
  (∀ i : Instr, i.isWord = true → i.wf = true → decode (encode i) = .ok i ∧ decodeBytes (wordBytes (encode i)) = .ok i) ∧
  ∀ (w : W128) (i : Instr), decode w = .ok i → i.isWord = true ∧ i.wf = true ∧ encode i = w

/-- THE INVARIANT: every step keeps memory and every store in canonical form, and every table of the machine in order. -/
def Obligations.EveryStepKeepsTheInvariant : Prop :=
  ∀ s t : State, Safety.Inv s → step s = .next t → Safety.Inv t

/-- RESET (R5, R95, R138, R279, R311, R401, R402, R443, R456): the machine right after power-on meets the invariant; its one step to come is the cold
start; no site, launch or line is there; TIME and READY are 0; and each register with a stated reset value has it. -/
def Obligations.ResetState : Prop :=
  let s := State.reset
  Safety.Inv s ∧ s.agenda = [.coldStart] ∧ s.sites = [] ∧ s.launches = [] ∧ s.homes = [] ∧ readReg s .rdy = 0 ∧ s.time = 0 ∧
    (∀ r lo hi, Safety.rwBits r = some (lo, hi) → (∀ d, r ≠ .walkCfg d ∧ r ≠ .hotDeliv d ∧ r ≠ .hotStarve d) → readReg s r = 0) ∧
    (∀ d, readReg s (.walkCfg d) = 0x10 ∧ readReg s (.hotDeliv d) = 0x10000 ∧ readReg s (.hotStarve d) = 0x40000 ∧ readReg s (.hotQTail d) = 0) ∧
    (∀ c, readReg s (.rampCfg c) = 0x10 ∧ readReg s (.rampStat c) = 0 ∧ readReg s (.levents c) = 0 ∧ readReg s (.fltTail c) = 0) ∧
    readReg s .pollInt = 0x10 ∧ readReg s .events = 0 ∧ readReg s .clPermit = 0x8888888888888888 ∧ readReg s .timer = 0 ∧
    (∀ m i, readReg s (.meas m i) = 0) ∧ readReg s .brkStat = 0 ∧ readReg s .trcStat = 0 ∧ readReg s .rcvStat = 0 ∧ readReg s .qStat = 0

/-- A STEP RUNS THE DECODED INSTRUCTION (R42, R89, R101, R107, R108): when an agent issues, no word breakpoint stops it and its word decodes to an
instruction, the step is that instruction, executed by that agent after the clock's tick, with at most a row of the trace added; a word that is no
instruction, or that may not be fetched, traps ILLOP. A step of the agenda happens as its own arm says, and with nothing to do only time passes. The
choice between moves is the model's (log 1). -/
def Obligations.StepRunsTheDecodedInstruction : Prop :=
  (∀ s a u i, Safety.Issues s a u → wordBreak u = none → fetchFaults u = false → decode (Safety.wordHere u) = .ok i →
    i.wf = true ∧ encode i = Safety.wordHere u ∧ u.cur = a ∧ u.clock = s.clock + 1 ∧
    (bit s.dbg.trcStat 0 = false → step s = exec i u) ∧
    ∀ t, exec i u = .next t → ∃ v, step s = .next v ∧ v = { t with dbg := v.dbg }) ∧
  (∀ s a u, Safety.Issues s a u → wordBreak u = none →
    fetchFaults u = true ∨ (∀ i, decode (Safety.wordHere u) ≠ .ok i) → bit s.dbg.trcStat 0 = false → step s = .next (takeTrap .illop 3 0 u)) ∧
  (∀ s j e, pick (tick s) (moves (tick s)) = some (.event j) → s.agenda[j]? = some e → bit s.dbg.trcStat 0 = false →
    step s = exec e { tick s with agenda := s.agenda.eraseIdx j }) ∧
  ∀ s, moves (tick s) = [] → step s = .next (tick s)

/-- FAULTS AND WRONG PLACES (R107, R108, R187, R398, R414): no step refuses, and the one fault is a controller's access to a physical address that is
reserved, or whose memory unit is not up (R445; that it stops the machine is the model's choice, log 52). On a controller a major that it does not execute, an operand in a space that it does not have, and LQSEND and LQWAIT trap ILLOP; on a site
the controllers' instructions do, and on the wrong controller CFGPUSH, GENBUMP and SPFLUSH do. -/
def Obligations.FaultsAndWrongPlaces : Prop :=
  (∀ s r, step s ≠ .refused r) ∧
  (∀ s f, step s = .fault f → ∃ pa, f = .reservedPhysical pa ∧ pa < 2 ^ 52 ∧ physReady s pa = false) ∧
  (∀ (s : State) (i : Instr) (maj fn : Nat) (o : Operands), i.head = some (maj, fn) → i.operands = some o → onSite s = false →
    maj ∉ Safety.controllerMajors ∨ Operands.ctlOk o = false → exec i s = .next (takeTrap .illop 3 0 s)) ∧
  (∀ (s : State) (o : Operands), onSite s = false → ∀ i ∈ [Instr.lqsend o, .lqwait o], exec i s = .next (takeTrap .illop 3 0 s)) ∧
  (∀ (s : State) (o : Operands), onSite s = true → ∀ i ∈ [Instr.sysrd o, .syswr o, .halt o, .idle o, .cfgpush o, .preempt o, .genbump o, .spflush o],
    exec i s = .next (takeTrap .illop 3 0 s)) ∧
  (∀ (s : State) (o : Operands), s.cur = .global → exec (.cfgpush o) s = .next (takeTrap .illop 3 0 s)) ∧
  ∀ (s : State) (o : Operands) c, s.cur = .leaf c → ∀ i ∈ [Instr.genbump o, .spflush o], exec i s = .next (takeTrap .illop 3 0 s)

/-- WORDS OF THE MANUAL (R88, R99, R102): words whose bits the manual writes out decode to the instructions that it says: add s1, s2, s3; the same with a
literal -16 under a negated p3; and xidx s3 with five exits. The manual's exit table words are no instructions. -/
def Obligations.WordsOfTheManual : Prop :=
  let s (n : Fin 64) : Field := .src { reg := .s n, fet := false, neg := false, abs := false, bc := false, lane := 0, pn := false, pi := 0 }
  decode 0x01000100000000000300000002000000 =
    .ok (.add { dst := .s 1, mod := .arith .rne false { neg := false, idx := 0 }, a := s 2, b := s 3, c := .unread }) ∧
  decode 0x0102010B00000000FFFFFFF002000000 =
    .ok (.add { dst := .s 1, mod := .arith .rne false { neg := true, idx := 3 }, a := s 2, b := .lit 0xFFFFFFF0, c := .unread }) ∧
  decode 0x000CFF04000000000000000003000000 = .ok (.xidx { dst := .none, mod := .exit 4, a := s 3, b := .unread, c := .unread }) ∧
  ∀ i, decode 0x0000000B0000000700000003FFFFFFFA ≠ .ok i
end

