-- ==== Sys2Proof/Laws/State.lean ====
section
/-! SUPPORT. What the updates of the state leave alone: one lemma for each field that an update does not change. -/

namespace Sys2Proof.Machine

/-! ### `setCore` -/

@[simp] theorem setCore_clock (s : State) (c : Nat) (x : Core) : (setCore s c x).clock = s.clock := rfl
@[simp] theorem setCore_agenda (s : State) (c : Nat) (x : Core) : (setCore s c x).agenda = s.agenda := rfl
@[simp] theorem setCore_cur (s : State) (c : Nat) (x : Core) : (setCore s c x).cur = s.cur := rfl
@[simp] theorem setCore_time (s : State) (c : Nat) (x : Core) : (setCore s c x).time = s.time := rfl
@[simp] theorem setCore_mem (s : State) (c : Nat) (x : Core) : (setCore s c x).mem = s.mem := rfl
@[simp] theorem setCore_homes (s : State) (c : Nat) (x : Core) : (setCore s c x).homes = s.homes := rfl
@[simp] theorem setCore_regOrder (s : State) (c : Nat) (x : Core) : (setCore s c x).regOrder = s.regOrder := rfl
@[simp] theorem setCore_refusals (s : State) (c : Nat) (x : Core) : (setCore s c x).refusals = s.refusals := rfl
@[simp] theorem setCore_badLines (s : State) (c : Nat) (x : Core) : (setCore s c x).badLines = s.badLines := rfl
@[simp] theorem setCore_reads (s : State) (c : Nat) (x : Core) : (setCore s c x).reads = s.reads := rfl
@[simp] theorem setCore_nextReq (s : State) (c : Nat) (x : Core) : (setCore s c x).nextReq = s.nextReq := rfl
@[simp] theorem setCore_sites (s : State) (c : Nat) (x : Core) : (setCore s c x).sites = s.sites := rfl
@[simp] theorem setCore_dies (s : State) (c : Nat) (x : Core) : (setCore s c x).dies = s.dies := rfl
@[simp] theorem setCore_launches (s : State) (c : Nat) (x : Core) : (setCore s c x).launches = s.launches := rfl
@[simp] theorem setCore_glob (s : State) (c : Nat) (x : Core) : (setCore s c x).glob = s.glob := rfl
@[simp] theorem setCore_dbg (s : State) (c : Nat) (x : Core) : (setCore s c x).dbg = s.dbg := rfl

/-! ### `setSite` -/

@[simp] theorem setSite_clock (s : State) (k : SiteKey) (x : Site) : (setSite s k x).clock = s.clock := rfl
@[simp] theorem setSite_agenda (s : State) (k : SiteKey) (x : Site) : (setSite s k x).agenda = s.agenda := rfl
@[simp] theorem setSite_cur (s : State) (k : SiteKey) (x : Site) : (setSite s k x).cur = s.cur := rfl
@[simp] theorem setSite_time (s : State) (k : SiteKey) (x : Site) : (setSite s k x).time = s.time := rfl
@[simp] theorem setSite_mem (s : State) (k : SiteKey) (x : Site) : (setSite s k x).mem = s.mem := rfl
@[simp] theorem setSite_homes (s : State) (k : SiteKey) (x : Site) : (setSite s k x).homes = s.homes := rfl
@[simp] theorem setSite_regOrder (s : State) (k : SiteKey) (x : Site) : (setSite s k x).regOrder = s.regOrder := rfl
@[simp] theorem setSite_refusals (s : State) (k : SiteKey) (x : Site) : (setSite s k x).refusals = s.refusals := rfl
@[simp] theorem setSite_badLines (s : State) (k : SiteKey) (x : Site) : (setSite s k x).badLines = s.badLines := rfl
@[simp] theorem setSite_reads (s : State) (k : SiteKey) (x : Site) : (setSite s k x).reads = s.reads := rfl
@[simp] theorem setSite_nextReq (s : State) (k : SiteKey) (x : Site) : (setSite s k x).nextReq = s.nextReq := rfl
@[simp] theorem setSite_cores (s : State) (k : SiteKey) (x : Site) : (setSite s k x).cores = s.cores := rfl
@[simp] theorem setSite_dies (s : State) (k : SiteKey) (x : Site) : (setSite s k x).dies = s.dies := rfl
@[simp] theorem setSite_launches (s : State) (k : SiteKey) (x : Site) : (setSite s k x).launches = s.launches := rfl
@[simp] theorem setSite_glob (s : State) (k : SiteKey) (x : Site) : (setSite s k x).glob = s.glob := rfl
@[simp] theorem setSite_dbg (s : State) (k : SiteKey) (x : Site) : (setSite s k x).dbg = s.dbg := rfl

/-! ### `setDie` -/

@[simp] theorem setDie_clock (s : State) (d : Nat) (x : Die) : (setDie s d x).clock = s.clock := rfl
@[simp] theorem setDie_agenda (s : State) (d : Nat) (x : Die) : (setDie s d x).agenda = s.agenda := rfl
@[simp] theorem setDie_cur (s : State) (d : Nat) (x : Die) : (setDie s d x).cur = s.cur := rfl
@[simp] theorem setDie_time (s : State) (d : Nat) (x : Die) : (setDie s d x).time = s.time := rfl
@[simp] theorem setDie_mem (s : State) (d : Nat) (x : Die) : (setDie s d x).mem = s.mem := rfl
@[simp] theorem setDie_homes (s : State) (d : Nat) (x : Die) : (setDie s d x).homes = s.homes := rfl
@[simp] theorem setDie_regOrder (s : State) (d : Nat) (x : Die) : (setDie s d x).regOrder = s.regOrder := rfl
@[simp] theorem setDie_refusals (s : State) (d : Nat) (x : Die) : (setDie s d x).refusals = s.refusals := rfl
@[simp] theorem setDie_badLines (s : State) (d : Nat) (x : Die) : (setDie s d x).badLines = s.badLines := rfl
@[simp] theorem setDie_reads (s : State) (d : Nat) (x : Die) : (setDie s d x).reads = s.reads := rfl
@[simp] theorem setDie_nextReq (s : State) (d : Nat) (x : Die) : (setDie s d x).nextReq = s.nextReq := rfl
@[simp] theorem setDie_sites (s : State) (d : Nat) (x : Die) : (setDie s d x).sites = s.sites := rfl
@[simp] theorem setDie_cores (s : State) (d : Nat) (x : Die) : (setDie s d x).cores = s.cores := rfl
@[simp] theorem setDie_launches (s : State) (d : Nat) (x : Die) : (setDie s d x).launches = s.launches := rfl
@[simp] theorem setDie_glob (s : State) (d : Nat) (x : Die) : (setDie s d x).glob = s.glob := rfl
@[simp] theorem setDie_dbg (s : State) (d : Nat) (x : Die) : (setDie s d x).dbg = s.dbg := rfl

/-! ### `setLaunch` -/

@[simp] theorem setLaunch_clock (s : State) (l : Nat) (x : Launch) : (setLaunch s l x).clock = s.clock := rfl
@[simp] theorem setLaunch_agenda (s : State) (l : Nat) (x : Launch) : (setLaunch s l x).agenda = s.agenda := rfl
@[simp] theorem setLaunch_cur (s : State) (l : Nat) (x : Launch) : (setLaunch s l x).cur = s.cur := rfl
@[simp] theorem setLaunch_time (s : State) (l : Nat) (x : Launch) : (setLaunch s l x).time = s.time := rfl
@[simp] theorem setLaunch_mem (s : State) (l : Nat) (x : Launch) : (setLaunch s l x).mem = s.mem := rfl
@[simp] theorem setLaunch_homes (s : State) (l : Nat) (x : Launch) : (setLaunch s l x).homes = s.homes := rfl
@[simp] theorem setLaunch_regOrder (s : State) (l : Nat) (x : Launch) : (setLaunch s l x).regOrder = s.regOrder := rfl
@[simp] theorem setLaunch_refusals (s : State) (l : Nat) (x : Launch) : (setLaunch s l x).refusals = s.refusals := rfl
@[simp] theorem setLaunch_badLines (s : State) (l : Nat) (x : Launch) : (setLaunch s l x).badLines = s.badLines := rfl
@[simp] theorem setLaunch_reads (s : State) (l : Nat) (x : Launch) : (setLaunch s l x).reads = s.reads := rfl
@[simp] theorem setLaunch_nextReq (s : State) (l : Nat) (x : Launch) : (setLaunch s l x).nextReq = s.nextReq := rfl
@[simp] theorem setLaunch_sites (s : State) (l : Nat) (x : Launch) : (setLaunch s l x).sites = s.sites := rfl
@[simp] theorem setLaunch_cores (s : State) (l : Nat) (x : Launch) : (setLaunch s l x).cores = s.cores := rfl
@[simp] theorem setLaunch_dies (s : State) (l : Nat) (x : Launch) : (setLaunch s l x).dies = s.dies := rfl
@[simp] theorem setLaunch_glob (s : State) (l : Nat) (x : Launch) : (setLaunch s l x).glob = s.glob := rfl
@[simp] theorem setLaunch_dbg (s : State) (l : Nat) (x : Launch) : (setLaunch s l x).dbg = s.dbg := rfl

/-! ### `setRegion` -/

@[simp] theorem setRegion_clock (s : State) (l r : Nat) (g : Region) : (setRegion s l r g).clock = s.clock := rfl
@[simp] theorem setRegion_agenda (s : State) (l r : Nat) (g : Region) : (setRegion s l r g).agenda = s.agenda := rfl
@[simp] theorem setRegion_cur (s : State) (l r : Nat) (g : Region) : (setRegion s l r g).cur = s.cur := rfl
@[simp] theorem setRegion_time (s : State) (l r : Nat) (g : Region) : (setRegion s l r g).time = s.time := rfl
@[simp] theorem setRegion_mem (s : State) (l r : Nat) (g : Region) : (setRegion s l r g).mem = s.mem := rfl
@[simp] theorem setRegion_homes (s : State) (l r : Nat) (g : Region) : (setRegion s l r g).homes = s.homes := rfl
@[simp] theorem setRegion_regOrder (s : State) (l r : Nat) (g : Region) : (setRegion s l r g).regOrder = s.regOrder := rfl
@[simp] theorem setRegion_refusals (s : State) (l r : Nat) (g : Region) : (setRegion s l r g).refusals = s.refusals := rfl
@[simp] theorem setRegion_badLines (s : State) (l r : Nat) (g : Region) : (setRegion s l r g).badLines = s.badLines := rfl
@[simp] theorem setRegion_reads (s : State) (l r : Nat) (g : Region) : (setRegion s l r g).reads = s.reads := rfl
@[simp] theorem setRegion_nextReq (s : State) (l r : Nat) (g : Region) : (setRegion s l r g).nextReq = s.nextReq := rfl
@[simp] theorem setRegion_sites (s : State) (l r : Nat) (g : Region) : (setRegion s l r g).sites = s.sites := rfl
@[simp] theorem setRegion_cores (s : State) (l r : Nat) (g : Region) : (setRegion s l r g).cores = s.cores := rfl
@[simp] theorem setRegion_dies (s : State) (l r : Nat) (g : Region) : (setRegion s l r g).dies = s.dies := rfl
@[simp] theorem setRegion_glob (s : State) (l r : Nat) (g : Region) : (setRegion s l r g).glob = s.glob := rfl
@[simp] theorem setRegion_dbg (s : State) (l r : Nat) (g : Region) : (setRegion s l r g).dbg = s.dbg := rfl

/-! ### `setTask` -/

@[simp] theorem setTask_clock (s : State) (k : TaskKey) (t : Task) : (setTask s k t).clock = s.clock := rfl
@[simp] theorem setTask_agenda (s : State) (k : TaskKey) (t : Task) : (setTask s k t).agenda = s.agenda := rfl
@[simp] theorem setTask_cur (s : State) (k : TaskKey) (t : Task) : (setTask s k t).cur = s.cur := rfl
@[simp] theorem setTask_time (s : State) (k : TaskKey) (t : Task) : (setTask s k t).time = s.time := rfl
@[simp] theorem setTask_mem (s : State) (k : TaskKey) (t : Task) : (setTask s k t).mem = s.mem := rfl
@[simp] theorem setTask_homes (s : State) (k : TaskKey) (t : Task) : (setTask s k t).homes = s.homes := rfl
@[simp] theorem setTask_regOrder (s : State) (k : TaskKey) (t : Task) : (setTask s k t).regOrder = s.regOrder := rfl
@[simp] theorem setTask_refusals (s : State) (k : TaskKey) (t : Task) : (setTask s k t).refusals = s.refusals := rfl
@[simp] theorem setTask_badLines (s : State) (k : TaskKey) (t : Task) : (setTask s k t).badLines = s.badLines := rfl
@[simp] theorem setTask_reads (s : State) (k : TaskKey) (t : Task) : (setTask s k t).reads = s.reads := rfl
@[simp] theorem setTask_nextReq (s : State) (k : TaskKey) (t : Task) : (setTask s k t).nextReq = s.nextReq := rfl
@[simp] theorem setTask_cores (s : State) (k : TaskKey) (t : Task) : (setTask s k t).cores = s.cores := rfl
@[simp] theorem setTask_dies (s : State) (k : TaskKey) (t : Task) : (setTask s k t).dies = s.dies := rfl
@[simp] theorem setTask_launches (s : State) (k : TaskKey) (t : Task) : (setTask s k t).launches = s.launches := rfl
@[simp] theorem setTask_glob (s : State) (k : TaskKey) (t : Task) : (setTask s k t).glob = s.glob := rfl
@[simp] theorem setTask_dbg (s : State) (k : TaskKey) (t : Task) : (setTask s k t).dbg = s.dbg := rfl

/-! ### `push` -/

@[simp] theorem push_clock (s : State) (e : Instr) : (push s e).clock = s.clock := rfl
@[simp] theorem push_cur (s : State) (e : Instr) : (push s e).cur = s.cur := rfl
@[simp] theorem push_time (s : State) (e : Instr) : (push s e).time = s.time := rfl
@[simp] theorem push_mem (s : State) (e : Instr) : (push s e).mem = s.mem := rfl
@[simp] theorem push_homes (s : State) (e : Instr) : (push s e).homes = s.homes := rfl
@[simp] theorem push_regOrder (s : State) (e : Instr) : (push s e).regOrder = s.regOrder := rfl
@[simp] theorem push_refusals (s : State) (e : Instr) : (push s e).refusals = s.refusals := rfl
@[simp] theorem push_badLines (s : State) (e : Instr) : (push s e).badLines = s.badLines := rfl
@[simp] theorem push_reads (s : State) (e : Instr) : (push s e).reads = s.reads := rfl
@[simp] theorem push_nextReq (s : State) (e : Instr) : (push s e).nextReq = s.nextReq := rfl
@[simp] theorem push_sites (s : State) (e : Instr) : (push s e).sites = s.sites := rfl
@[simp] theorem push_cores (s : State) (e : Instr) : (push s e).cores = s.cores := rfl
@[simp] theorem push_dies (s : State) (e : Instr) : (push s e).dies = s.dies := rfl
@[simp] theorem push_launches (s : State) (e : Instr) : (push s e).launches = s.launches := rfl
@[simp] theorem push_glob (s : State) (e : Instr) : (push s e).glob = s.glob := rfl
@[simp] theorem push_dbg (s : State) (e : Instr) : (push s e).dbg = s.dbg := rfl

/-! ### `pushAll` -/

@[simp] theorem pushAll_clock (s : State) (es : List Instr) : (pushAll s es).clock = s.clock := rfl
@[simp] theorem pushAll_cur (s : State) (es : List Instr) : (pushAll s es).cur = s.cur := rfl
@[simp] theorem pushAll_time (s : State) (es : List Instr) : (pushAll s es).time = s.time := rfl
@[simp] theorem pushAll_mem (s : State) (es : List Instr) : (pushAll s es).mem = s.mem := rfl
@[simp] theorem pushAll_homes (s : State) (es : List Instr) : (pushAll s es).homes = s.homes := rfl
@[simp] theorem pushAll_regOrder (s : State) (es : List Instr) : (pushAll s es).regOrder = s.regOrder := rfl
@[simp] theorem pushAll_refusals (s : State) (es : List Instr) : (pushAll s es).refusals = s.refusals := rfl
@[simp] theorem pushAll_badLines (s : State) (es : List Instr) : (pushAll s es).badLines = s.badLines := rfl
@[simp] theorem pushAll_reads (s : State) (es : List Instr) : (pushAll s es).reads = s.reads := rfl
@[simp] theorem pushAll_nextReq (s : State) (es : List Instr) : (pushAll s es).nextReq = s.nextReq := rfl
@[simp] theorem pushAll_sites (s : State) (es : List Instr) : (pushAll s es).sites = s.sites := rfl
@[simp] theorem pushAll_cores (s : State) (es : List Instr) : (pushAll s es).cores = s.cores := rfl
@[simp] theorem pushAll_dies (s : State) (es : List Instr) : (pushAll s es).dies = s.dies := rfl
@[simp] theorem pushAll_launches (s : State) (es : List Instr) : (pushAll s es).launches = s.launches := rfl
@[simp] theorem pushAll_glob (s : State) (es : List Instr) : (pushAll s es).glob = s.glob := rfl
@[simp] theorem pushAll_dbg (s : State) (es : List Instr) : (pushAll s es).dbg = s.dbg := rfl

/-! ### `defer` -/

@[simp] theorem defer_clock (s : State) (e : Instr) : (defer s e).clock = s.clock := rfl
@[simp] theorem defer_cur (s : State) (e : Instr) : (defer s e).cur = s.cur := rfl
@[simp] theorem defer_time (s : State) (e : Instr) : (defer s e).time = s.time := rfl
@[simp] theorem defer_mem (s : State) (e : Instr) : (defer s e).mem = s.mem := rfl
@[simp] theorem defer_homes (s : State) (e : Instr) : (defer s e).homes = s.homes := rfl
@[simp] theorem defer_regOrder (s : State) (e : Instr) : (defer s e).regOrder = s.regOrder := rfl
@[simp] theorem defer_refusals (s : State) (e : Instr) : (defer s e).refusals = s.refusals := rfl
@[simp] theorem defer_badLines (s : State) (e : Instr) : (defer s e).badLines = s.badLines := rfl
@[simp] theorem defer_reads (s : State) (e : Instr) : (defer s e).reads = s.reads := rfl
@[simp] theorem defer_nextReq (s : State) (e : Instr) : (defer s e).nextReq = s.nextReq := rfl
@[simp] theorem defer_sites (s : State) (e : Instr) : (defer s e).sites = s.sites := rfl
@[simp] theorem defer_cores (s : State) (e : Instr) : (defer s e).cores = s.cores := rfl
@[simp] theorem defer_dies (s : State) (e : Instr) : (defer s e).dies = s.dies := rfl
@[simp] theorem defer_launches (s : State) (e : Instr) : (defer s e).launches = s.launches := rfl
@[simp] theorem defer_glob (s : State) (e : Instr) : (defer s e).glob = s.glob := rfl
@[simp] theorem defer_dbg (s : State) (e : Instr) : (defer s e).dbg = s.dbg := rfl

/-! ### `pushOnce` -/

@[simp] theorem pushOnce_clock (s : State) (e : Instr) : (pushOnce s e).clock = s.clock := by unfold pushOnce; split <;> rfl
@[simp] theorem pushOnce_cur (s : State) (e : Instr) : (pushOnce s e).cur = s.cur := by unfold pushOnce; split <;> rfl
@[simp] theorem pushOnce_time (s : State) (e : Instr) : (pushOnce s e).time = s.time := by unfold pushOnce; split <;> rfl
@[simp] theorem pushOnce_mem (s : State) (e : Instr) : (pushOnce s e).mem = s.mem := by unfold pushOnce; split <;> rfl
@[simp] theorem pushOnce_homes (s : State) (e : Instr) : (pushOnce s e).homes = s.homes := by unfold pushOnce; split <;> rfl
@[simp] theorem pushOnce_regOrder (s : State) (e : Instr) : (pushOnce s e).regOrder = s.regOrder := by unfold pushOnce; split <;> rfl
@[simp] theorem pushOnce_refusals (s : State) (e : Instr) : (pushOnce s e).refusals = s.refusals := by unfold pushOnce; split <;> rfl
@[simp] theorem pushOnce_badLines (s : State) (e : Instr) : (pushOnce s e).badLines = s.badLines := by unfold pushOnce; split <;> rfl
@[simp] theorem pushOnce_reads (s : State) (e : Instr) : (pushOnce s e).reads = s.reads := by unfold pushOnce; split <;> rfl
@[simp] theorem pushOnce_nextReq (s : State) (e : Instr) : (pushOnce s e).nextReq = s.nextReq := by unfold pushOnce; split <;> rfl
@[simp] theorem pushOnce_sites (s : State) (e : Instr) : (pushOnce s e).sites = s.sites := by unfold pushOnce; split <;> rfl
@[simp] theorem pushOnce_cores (s : State) (e : Instr) : (pushOnce s e).cores = s.cores := by unfold pushOnce; split <;> rfl
@[simp] theorem pushOnce_dies (s : State) (e : Instr) : (pushOnce s e).dies = s.dies := by unfold pushOnce; split <;> rfl
@[simp] theorem pushOnce_launches (s : State) (e : Instr) : (pushOnce s e).launches = s.launches := by unfold pushOnce; split <;> rfl
@[simp] theorem pushOnce_glob (s : State) (e : Instr) : (pushOnce s e).glob = s.glob := by unfold pushOnce; split <;> rfl
@[simp] theorem pushOnce_dbg (s : State) (e : Instr) : (pushOnce s e).dbg = s.dbg := by unfold pushOnce; split <;> rfl

/-! ### `setHomeLine` -/

@[simp] theorem setHomeLine_clock (s : State) (l : Nat) (h : HomeLine) : (setHomeLine s l h).clock = s.clock := by unfold setHomeLine; split <;> rfl
@[simp] theorem setHomeLine_agenda (s : State) (l : Nat) (h : HomeLine) : (setHomeLine s l h).agenda = s.agenda := by unfold setHomeLine; split <;> rfl
@[simp] theorem setHomeLine_cur (s : State) (l : Nat) (h : HomeLine) : (setHomeLine s l h).cur = s.cur := by unfold setHomeLine; split <;> rfl
@[simp] theorem setHomeLine_time (s : State) (l : Nat) (h : HomeLine) : (setHomeLine s l h).time = s.time := by unfold setHomeLine; split <;> rfl
@[simp] theorem setHomeLine_mem (s : State) (l : Nat) (h : HomeLine) : (setHomeLine s l h).mem = s.mem := by unfold setHomeLine; split <;> rfl
@[simp] theorem setHomeLine_refusals (s : State) (l : Nat) (h : HomeLine) : (setHomeLine s l h).refusals = s.refusals := by unfold setHomeLine; split <;> rfl
@[simp] theorem setHomeLine_badLines (s : State) (l : Nat) (h : HomeLine) : (setHomeLine s l h).badLines = s.badLines := by unfold setHomeLine; split <;> rfl
@[simp] theorem setHomeLine_reads (s : State) (l : Nat) (h : HomeLine) : (setHomeLine s l h).reads = s.reads := by unfold setHomeLine; split <;> rfl
@[simp] theorem setHomeLine_nextReq (s : State) (l : Nat) (h : HomeLine) : (setHomeLine s l h).nextReq = s.nextReq := by unfold setHomeLine; split <;> rfl
@[simp] theorem setHomeLine_sites (s : State) (l : Nat) (h : HomeLine) : (setHomeLine s l h).sites = s.sites := by unfold setHomeLine; split <;> rfl
@[simp] theorem setHomeLine_cores (s : State) (l : Nat) (h : HomeLine) : (setHomeLine s l h).cores = s.cores := by unfold setHomeLine; split <;> rfl
@[simp] theorem setHomeLine_dies (s : State) (l : Nat) (h : HomeLine) : (setHomeLine s l h).dies = s.dies := by unfold setHomeLine; split <;> rfl
@[simp] theorem setHomeLine_launches (s : State) (l : Nat) (h : HomeLine) : (setHomeLine s l h).launches = s.launches := by unfold setHomeLine; split <;> rfl
@[simp] theorem setHomeLine_glob (s : State) (l : Nat) (h : HomeLine) : (setHomeLine s l h).glob = s.glob := by unfold setHomeLine; split <;> rfl
@[simp] theorem setHomeLine_dbg (s : State) (l : Nat) (h : HomeLine) : (setHomeLine s l h).dbg = s.dbg := by unfold setHomeLine; split <;> rfl

/-! ### `setEvents` -/

@[simp] theorem setEvents_clock (s : State) (m : W64) : (setEvents s m).clock = s.clock := rfl
@[simp] theorem setEvents_agenda (s : State) (m : W64) : (setEvents s m).agenda = s.agenda := rfl
@[simp] theorem setEvents_cur (s : State) (m : W64) : (setEvents s m).cur = s.cur := rfl
@[simp] theorem setEvents_time (s : State) (m : W64) : (setEvents s m).time = s.time := rfl
@[simp] theorem setEvents_mem (s : State) (m : W64) : (setEvents s m).mem = s.mem := rfl
@[simp] theorem setEvents_homes (s : State) (m : W64) : (setEvents s m).homes = s.homes := rfl
@[simp] theorem setEvents_regOrder (s : State) (m : W64) : (setEvents s m).regOrder = s.regOrder := rfl
@[simp] theorem setEvents_refusals (s : State) (m : W64) : (setEvents s m).refusals = s.refusals := rfl
@[simp] theorem setEvents_badLines (s : State) (m : W64) : (setEvents s m).badLines = s.badLines := rfl
@[simp] theorem setEvents_reads (s : State) (m : W64) : (setEvents s m).reads = s.reads := rfl
@[simp] theorem setEvents_nextReq (s : State) (m : W64) : (setEvents s m).nextReq = s.nextReq := rfl
@[simp] theorem setEvents_sites (s : State) (m : W64) : (setEvents s m).sites = s.sites := rfl
@[simp] theorem setEvents_cores (s : State) (m : W64) : (setEvents s m).cores = s.cores := rfl
@[simp] theorem setEvents_dies (s : State) (m : W64) : (setEvents s m).dies = s.dies := rfl
@[simp] theorem setEvents_launches (s : State) (m : W64) : (setEvents s m).launches = s.launches := rfl
@[simp] theorem setEvents_dbg (s : State) (m : W64) : (setEvents s m).dbg = s.dbg := rfl

/-! ### `setLeafEvents` -/

@[simp] theorem setLeafEvents_clock (s : State) (c : Nat) (m : W64) : (setLeafEvents s c m).clock = s.clock := rfl
@[simp] theorem setLeafEvents_agenda (s : State) (c : Nat) (m : W64) : (setLeafEvents s c m).agenda = s.agenda := rfl
@[simp] theorem setLeafEvents_cur (s : State) (c : Nat) (m : W64) : (setLeafEvents s c m).cur = s.cur := rfl
@[simp] theorem setLeafEvents_time (s : State) (c : Nat) (m : W64) : (setLeafEvents s c m).time = s.time := rfl
@[simp] theorem setLeafEvents_mem (s : State) (c : Nat) (m : W64) : (setLeafEvents s c m).mem = s.mem := rfl
@[simp] theorem setLeafEvents_homes (s : State) (c : Nat) (m : W64) : (setLeafEvents s c m).homes = s.homes := rfl
@[simp] theorem setLeafEvents_regOrder (s : State) (c : Nat) (m : W64) : (setLeafEvents s c m).regOrder = s.regOrder := rfl
@[simp] theorem setLeafEvents_refusals (s : State) (c : Nat) (m : W64) : (setLeafEvents s c m).refusals = s.refusals := rfl
@[simp] theorem setLeafEvents_badLines (s : State) (c : Nat) (m : W64) : (setLeafEvents s c m).badLines = s.badLines := rfl
@[simp] theorem setLeafEvents_reads (s : State) (c : Nat) (m : W64) : (setLeafEvents s c m).reads = s.reads := rfl
@[simp] theorem setLeafEvents_nextReq (s : State) (c : Nat) (m : W64) : (setLeafEvents s c m).nextReq = s.nextReq := rfl
@[simp] theorem setLeafEvents_sites (s : State) (c : Nat) (m : W64) : (setLeafEvents s c m).sites = s.sites := rfl
@[simp] theorem setLeafEvents_dies (s : State) (c : Nat) (m : W64) : (setLeafEvents s c m).dies = s.dies := rfl
@[simp] theorem setLeafEvents_launches (s : State) (c : Nat) (m : W64) : (setLeafEvents s c m).launches = s.launches := rfl
@[simp] theorem setLeafEvents_glob (s : State) (c : Nat) (m : W64) : (setLeafEvents s c m).glob = s.glob := rfl
@[simp] theorem setLeafEvents_dbg (s : State) (c : Nat) (m : W64) : (setLeafEvents s c m).dbg = s.dbg := rfl

/-! ### `wakeSite` -/

@[simp] theorem wakeSite_clock (s : State) (k : SiteKey) (p : Nat → WaitOn → Bool) : (wakeSite s k p).clock = s.clock := rfl
@[simp] theorem wakeSite_agenda (s : State) (k : SiteKey) (p : Nat → WaitOn → Bool) : (wakeSite s k p).agenda = s.agenda := rfl
@[simp] theorem wakeSite_cur (s : State) (k : SiteKey) (p : Nat → WaitOn → Bool) : (wakeSite s k p).cur = s.cur := rfl
@[simp] theorem wakeSite_time (s : State) (k : SiteKey) (p : Nat → WaitOn → Bool) : (wakeSite s k p).time = s.time := rfl
@[simp] theorem wakeSite_mem (s : State) (k : SiteKey) (p : Nat → WaitOn → Bool) : (wakeSite s k p).mem = s.mem := rfl
@[simp] theorem wakeSite_homes (s : State) (k : SiteKey) (p : Nat → WaitOn → Bool) : (wakeSite s k p).homes = s.homes := rfl
@[simp] theorem wakeSite_regOrder (s : State) (k : SiteKey) (p : Nat → WaitOn → Bool) : (wakeSite s k p).regOrder = s.regOrder := rfl
@[simp] theorem wakeSite_refusals (s : State) (k : SiteKey) (p : Nat → WaitOn → Bool) : (wakeSite s k p).refusals = s.refusals := rfl
@[simp] theorem wakeSite_badLines (s : State) (k : SiteKey) (p : Nat → WaitOn → Bool) : (wakeSite s k p).badLines = s.badLines := rfl
@[simp] theorem wakeSite_reads (s : State) (k : SiteKey) (p : Nat → WaitOn → Bool) : (wakeSite s k p).reads = s.reads := rfl
@[simp] theorem wakeSite_nextReq (s : State) (k : SiteKey) (p : Nat → WaitOn → Bool) : (wakeSite s k p).nextReq = s.nextReq := rfl
@[simp] theorem wakeSite_cores (s : State) (k : SiteKey) (p : Nat → WaitOn → Bool) : (wakeSite s k p).cores = s.cores := rfl
@[simp] theorem wakeSite_dies (s : State) (k : SiteKey) (p : Nat → WaitOn → Bool) : (wakeSite s k p).dies = s.dies := rfl
@[simp] theorem wakeSite_launches (s : State) (k : SiteKey) (p : Nat → WaitOn → Bool) : (wakeSite s k p).launches = s.launches := rfl
@[simp] theorem wakeSite_glob (s : State) (k : SiteKey) (p : Nat → WaitOn → Bool) : (wakeSite s k p).glob = s.glob := rfl
@[simp] theorem wakeSite_dbg (s : State) (k : SiteKey) (p : Nat → WaitOn → Bool) : (wakeSite s k p).dbg = s.dbg := rfl

/-! ### `wakeWaita` -/

@[simp] theorem wakeWaita_clock (s : State) (l : Nat) : (wakeWaita s l).clock = s.clock := rfl
@[simp] theorem wakeWaita_agenda (s : State) (l : Nat) : (wakeWaita s l).agenda = s.agenda := rfl
@[simp] theorem wakeWaita_cur (s : State) (l : Nat) : (wakeWaita s l).cur = s.cur := rfl
@[simp] theorem wakeWaita_time (s : State) (l : Nat) : (wakeWaita s l).time = s.time := rfl
@[simp] theorem wakeWaita_mem (s : State) (l : Nat) : (wakeWaita s l).mem = s.mem := rfl
@[simp] theorem wakeWaita_homes (s : State) (l : Nat) : (wakeWaita s l).homes = s.homes := rfl
@[simp] theorem wakeWaita_regOrder (s : State) (l : Nat) : (wakeWaita s l).regOrder = s.regOrder := rfl
@[simp] theorem wakeWaita_refusals (s : State) (l : Nat) : (wakeWaita s l).refusals = s.refusals := rfl
@[simp] theorem wakeWaita_badLines (s : State) (l : Nat) : (wakeWaita s l).badLines = s.badLines := rfl
@[simp] theorem wakeWaita_reads (s : State) (l : Nat) : (wakeWaita s l).reads = s.reads := rfl
@[simp] theorem wakeWaita_nextReq (s : State) (l : Nat) : (wakeWaita s l).nextReq = s.nextReq := rfl
@[simp] theorem wakeWaita_cores (s : State) (l : Nat) : (wakeWaita s l).cores = s.cores := rfl
@[simp] theorem wakeWaita_dies (s : State) (l : Nat) : (wakeWaita s l).dies = s.dies := rfl
@[simp] theorem wakeWaita_launches (s : State) (l : Nat) : (wakeWaita s l).launches = s.launches := rfl
@[simp] theorem wakeWaita_glob (s : State) (l : Nat) : (wakeWaita s l).glob = s.glob := rfl
@[simp] theorem wakeWaita_dbg (s : State) (l : Nat) : (wakeWaita s l).dbg = s.dbg := rfl

/-! ### `setThread` -/

@[simp] theorem setThread_clock (s : State) (a : Agent) (t : Thread) : (setThread s a t).clock = s.clock := by cases a <;> rfl
@[simp] theorem setThread_agenda (s : State) (a : Agent) (t : Thread) : (setThread s a t).agenda = s.agenda := by cases a <;> rfl
@[simp] theorem setThread_cur (s : State) (a : Agent) (t : Thread) : (setThread s a t).cur = s.cur := by cases a <;> rfl
@[simp] theorem setThread_time (s : State) (a : Agent) (t : Thread) : (setThread s a t).time = s.time := by cases a <;> rfl
@[simp] theorem setThread_mem (s : State) (a : Agent) (t : Thread) : (setThread s a t).mem = s.mem := by cases a <;> rfl
@[simp] theorem setThread_homes (s : State) (a : Agent) (t : Thread) : (setThread s a t).homes = s.homes := by cases a <;> rfl
@[simp] theorem setThread_regOrder (s : State) (a : Agent) (t : Thread) : (setThread s a t).regOrder = s.regOrder := by cases a <;> rfl
@[simp] theorem setThread_refusals (s : State) (a : Agent) (t : Thread) : (setThread s a t).refusals = s.refusals := by cases a <;> rfl
@[simp] theorem setThread_badLines (s : State) (a : Agent) (t : Thread) : (setThread s a t).badLines = s.badLines := by cases a <;> rfl
@[simp] theorem setThread_reads (s : State) (a : Agent) (t : Thread) : (setThread s a t).reads = s.reads := by cases a <;> rfl
@[simp] theorem setThread_nextReq (s : State) (a : Agent) (t : Thread) : (setThread s a t).nextReq = s.nextReq := by cases a <;> rfl
@[simp] theorem setThread_dies (s : State) (a : Agent) (t : Thread) : (setThread s a t).dies = s.dies := by cases a <;> rfl
@[simp] theorem setThread_launches (s : State) (a : Agent) (t : Thread) : (setThread s a t).launches = s.launches := by cases a <;> rfl
@[simp] theorem setThread_dbg (s : State) (a : Agent) (t : Thread) : (setThread s a t).dbg = s.dbg := by cases a <;> rfl

/-! ### `recordError` -/

@[simp] theorem recordError_clock (s : State) (l c b x y t : Nat) : (recordError s l c b x y t).clock = s.clock := rfl
@[simp] theorem recordError_agenda (s : State) (l c b x y t : Nat) : (recordError s l c b x y t).agenda = s.agenda := rfl
@[simp] theorem recordError_cur (s : State) (l c b x y t : Nat) : (recordError s l c b x y t).cur = s.cur := rfl
@[simp] theorem recordError_time (s : State) (l c b x y t : Nat) : (recordError s l c b x y t).time = s.time := rfl
@[simp] theorem recordError_mem (s : State) (l c b x y t : Nat) : (recordError s l c b x y t).mem = s.mem := rfl
@[simp] theorem recordError_homes (s : State) (l c b x y t : Nat) : (recordError s l c b x y t).homes = s.homes := rfl
@[simp] theorem recordError_regOrder (s : State) (l c b x y t : Nat) : (recordError s l c b x y t).regOrder = s.regOrder := rfl
@[simp] theorem recordError_refusals (s : State) (l c b x y t : Nat) : (recordError s l c b x y t).refusals = s.refusals := rfl
@[simp] theorem recordError_badLines (s : State) (l c b x y t : Nat) : (recordError s l c b x y t).badLines = s.badLines := rfl
@[simp] theorem recordError_reads (s : State) (l c b x y t : Nat) : (recordError s l c b x y t).reads = s.reads := rfl
@[simp] theorem recordError_nextReq (s : State) (l c b x y t : Nat) : (recordError s l c b x y t).nextReq = s.nextReq := rfl
@[simp] theorem recordError_sites (s : State) (l c b x y t : Nat) : (recordError s l c b x y t).sites = s.sites := rfl
@[simp] theorem recordError_cores (s : State) (l c b x y t : Nat) : (recordError s l c b x y t).cores = s.cores := rfl
@[simp] theorem recordError_dies (s : State) (l c b x y t : Nat) : (recordError s l c b x y t).dies = s.dies := rfl
@[simp] theorem recordError_glob (s : State) (l c b x y t : Nat) : (recordError s l c b x y t).glob = s.glob := rfl
@[simp] theorem recordError_dbg (s : State) (l c b x y t : Nat) : (recordError s l c b x y t).dbg = s.dbg := rfl

/-! ### `withThread` -/

@[simp] theorem withThread_clock (s : State) (t : Thread) : (withThread s t).clock = s.clock := setThread_clock s s.cur t
@[simp] theorem withThread_agenda (s : State) (t : Thread) : (withThread s t).agenda = s.agenda := setThread_agenda s s.cur t
@[simp] theorem withThread_cur (s : State) (t : Thread) : (withThread s t).cur = s.cur := setThread_cur s s.cur t
@[simp] theorem withThread_time (s : State) (t : Thread) : (withThread s t).time = s.time := setThread_time s s.cur t
@[simp] theorem withThread_mem (s : State) (t : Thread) : (withThread s t).mem = s.mem := setThread_mem s s.cur t
@[simp] theorem withThread_homes (s : State) (t : Thread) : (withThread s t).homes = s.homes := setThread_homes s s.cur t
@[simp] theorem withThread_regOrder (s : State) (t : Thread) : (withThread s t).regOrder = s.regOrder := setThread_regOrder s s.cur t
@[simp] theorem withThread_refusals (s : State) (t : Thread) : (withThread s t).refusals = s.refusals := setThread_refusals s s.cur t
@[simp] theorem withThread_badLines (s : State) (t : Thread) : (withThread s t).badLines = s.badLines := setThread_badLines s s.cur t
@[simp] theorem withThread_reads (s : State) (t : Thread) : (withThread s t).reads = s.reads := setThread_reads s s.cur t
@[simp] theorem withThread_nextReq (s : State) (t : Thread) : (withThread s t).nextReq = s.nextReq := setThread_nextReq s s.cur t
@[simp] theorem withThread_dies (s : State) (t : Thread) : (withThread s t).dies = s.dies := setThread_dies s s.cur t
@[simp] theorem withThread_launches (s : State) (t : Thread) : (withThread s t).launches = s.launches := setThread_launches s s.cur t
@[simp] theorem withThread_dbg (s : State) (t : Thread) : (withThread s t).dbg = s.dbg := setThread_dbg s s.cur t

/-! ### `mapRegs` and `retire` -/

@[simp] theorem mapRegs_clock (s : State) (f : Regs → Regs) : (mapRegs s f).clock = s.clock := withThread_clock s _
@[simp] theorem retire_clock (s : State) : (retire s).clock = s.clock := withThread_clock s _
@[simp] theorem mapRegs_agenda (s : State) (f : Regs → Regs) : (mapRegs s f).agenda = s.agenda := withThread_agenda s _
@[simp] theorem retire_agenda (s : State) : (retire s).agenda = s.agenda := withThread_agenda s _
@[simp] theorem mapRegs_cur (s : State) (f : Regs → Regs) : (mapRegs s f).cur = s.cur := withThread_cur s _
@[simp] theorem retire_cur (s : State) : (retire s).cur = s.cur := withThread_cur s _
@[simp] theorem mapRegs_time (s : State) (f : Regs → Regs) : (mapRegs s f).time = s.time := withThread_time s _
@[simp] theorem retire_time (s : State) : (retire s).time = s.time := withThread_time s _
@[simp] theorem mapRegs_mem (s : State) (f : Regs → Regs) : (mapRegs s f).mem = s.mem := withThread_mem s _
@[simp] theorem retire_mem (s : State) : (retire s).mem = s.mem := withThread_mem s _
@[simp] theorem mapRegs_homes (s : State) (f : Regs → Regs) : (mapRegs s f).homes = s.homes := withThread_homes s _
@[simp] theorem retire_homes (s : State) : (retire s).homes = s.homes := withThread_homes s _
@[simp] theorem mapRegs_regOrder (s : State) (f : Regs → Regs) : (mapRegs s f).regOrder = s.regOrder := withThread_regOrder s _
@[simp] theorem retire_regOrder (s : State) : (retire s).regOrder = s.regOrder := withThread_regOrder s _
@[simp] theorem mapRegs_refusals (s : State) (f : Regs → Regs) : (mapRegs s f).refusals = s.refusals := withThread_refusals s _
@[simp] theorem mapRegs_badLines (s : State) (f : Regs → Regs) : (mapRegs s f).badLines = s.badLines := withThread_badLines s _
@[simp] theorem retire_refusals (s : State) : (retire s).refusals = s.refusals := withThread_refusals s _
@[simp] theorem retire_badLines (s : State) : (retire s).badLines = s.badLines := withThread_badLines s _
@[simp] theorem mapRegs_reads (s : State) (f : Regs → Regs) : (mapRegs s f).reads = s.reads := withThread_reads s _
@[simp] theorem retire_reads (s : State) : (retire s).reads = s.reads := withThread_reads s _
@[simp] theorem mapRegs_nextReq (s : State) (f : Regs → Regs) : (mapRegs s f).nextReq = s.nextReq := withThread_nextReq s _
@[simp] theorem retire_nextReq (s : State) : (retire s).nextReq = s.nextReq := withThread_nextReq s _
@[simp] theorem mapRegs_dies (s : State) (f : Regs → Regs) : (mapRegs s f).dies = s.dies := withThread_dies s _
@[simp] theorem retire_dies (s : State) : (retire s).dies = s.dies := withThread_dies s _
@[simp] theorem mapRegs_launches (s : State) (f : Regs → Regs) : (mapRegs s f).launches = s.launches := withThread_launches s _
@[simp] theorem retire_launches (s : State) : (retire s).launches = s.launches := withThread_launches s _
@[simp] theorem mapRegs_dbg (s : State) (f : Regs → Regs) : (mapRegs s f).dbg = s.dbg := withThread_dbg s _
@[simp] theorem retire_dbg (s : State) : (retire s).dbg = s.dbg := withThread_dbg s _

/-! ### `waitCur` -/

@[simp] theorem waitCur_clock (s : State) (w : WaitOn) : (waitCur s w).clock = s.clock := by unfold waitCur; split <;> rfl
@[simp] theorem waitCur_agenda (s : State) (w : WaitOn) : (waitCur s w).agenda = s.agenda := by unfold waitCur; split <;> rfl
@[simp] theorem waitCur_cur (s : State) (w : WaitOn) : (waitCur s w).cur = s.cur := by unfold waitCur; split <;> rfl
@[simp] theorem waitCur_time (s : State) (w : WaitOn) : (waitCur s w).time = s.time := by unfold waitCur; split <;> rfl
@[simp] theorem waitCur_mem (s : State) (w : WaitOn) : (waitCur s w).mem = s.mem := by unfold waitCur; split <;> rfl
@[simp] theorem waitCur_homes (s : State) (w : WaitOn) : (waitCur s w).homes = s.homes := by unfold waitCur; split <;> rfl
@[simp] theorem waitCur_regOrder (s : State) (w : WaitOn) : (waitCur s w).regOrder = s.regOrder := by unfold waitCur; split <;> rfl
@[simp] theorem waitCur_refusals (s : State) (w : WaitOn) : (waitCur s w).refusals = s.refusals := by unfold waitCur; split <;> rfl
@[simp] theorem waitCur_badLines (s : State) (w : WaitOn) : (waitCur s w).badLines = s.badLines := by unfold waitCur; split <;> rfl
@[simp] theorem waitCur_reads (s : State) (w : WaitOn) : (waitCur s w).reads = s.reads := by unfold waitCur; split <;> rfl
@[simp] theorem waitCur_nextReq (s : State) (w : WaitOn) : (waitCur s w).nextReq = s.nextReq := by unfold waitCur; split <;> rfl
@[simp] theorem waitCur_cores (s : State) (w : WaitOn) : (waitCur s w).cores = s.cores := by unfold waitCur; split <;> rfl
@[simp] theorem waitCur_dies (s : State) (w : WaitOn) : (waitCur s w).dies = s.dies := by unfold waitCur; split <;> rfl
@[simp] theorem waitCur_launches (s : State) (w : WaitOn) : (waitCur s w).launches = s.launches := by unfold waitCur; split <;> rfl
@[simp] theorem waitCur_glob (s : State) (w : WaitOn) : (waitCur s w).glob = s.glob := by unfold waitCur; split <;> rfl
@[simp] theorem waitCur_dbg (s : State) (w : WaitOn) : (waitCur s w).dbg = s.dbg := by unfold waitCur; split <;> rfl

end Sys2Proof.Machine
end

