-- ==== Sys2Proof/Laws/Tables.lean ====
section
/-! SUPPORT. Tables and memory: an entry reads as it was set, other entries stay, and every write keeps memory's canonical form. -/

namespace Sys2Proof.Machine

/-! ### Tables -/

@[simp] theorem Tab.find?_nil {α : Type} (i : Nat) : Tab.find? ([] : Table α) i = none := rfl

/-- The entry that was put is found. -/
@[simp] theorem Tab.find?_put_same {α : Type} (t : Table α) (i : Nat) (x : α) : Tab.find? (Tab.put t i x) i = some x := by
  induction t with
  | nil => simp [Tab.put, Tab.find?]
  | cons h r ih =>
    obtain ⟨k, v⟩ := h
    by_cases e : i = k
    · simp [Tab.put, Tab.find?, e]
    · by_cases l : i < k
      · simp [Tab.put, Tab.find?, e, l]
      · simp [Tab.put, Tab.find?, e, l, ih]

/-- The other entries stay. -/
theorem Tab.find?_put_other {α : Type} (t : Table α) {i j : Nat} (x : α) (h : j ≠ i) :
    Tab.find? (Tab.put t i x) j = Tab.find? t j := by
  induction t with
  | nil =>
    by_cases l : j < i
    · simp [Tab.put, Tab.find?, h, l]
    · simp [Tab.put, Tab.find?, h, l]
  | cons hd r ih =>
    obtain ⟨k, v⟩ := hd
    by_cases e : i = k
    · subst e
      simp [Tab.put, Tab.find?, h]
    · by_cases l : i < k
      · by_cases l' : j < i
        · have : j ≠ k := by omega
          have : j < k := by omega
          simp [Tab.put, Tab.find?, *]
        · simp [Tab.put, Tab.find?, e, l, h, l']
      · by_cases e' : j = k
        · simp [Tab.put, Tab.find?, e, l, e']
        · by_cases l' : j < k
          · simp [Tab.put, Tab.find?, e, l, e', l']
          · simp [Tab.put, Tab.find?, e, l, e', l', ih]

@[simp] theorem Tab.get_put_same {α : Type} (d : α) (t : Table α) (i : Nat) (x : α) : Tab.get d (Tab.put t i x) i = x := by
  simp [Tab.get]

theorem Tab.get_put_other {α : Type} (d : α) (t : Table α) {i j : Nat} (x : α) (h : j ≠ i) :
    Tab.get d (Tab.put t i x) j = Tab.get d t j := by
  simp [Tab.get, Tab.find?_put_other t x h]

/-- Setting an entry twice is setting it once. -/
@[simp] theorem Tab.put_put_same {α : Type} (t : Table α) (i : Nat) (x y : α) : Tab.put (Tab.put t i x) i y = Tab.put t i y := by
  induction t with
  | nil => simp [Tab.put]
  | cons h r ih =>
    obtain ⟨k, v⟩ := h
    by_cases e : i = k
    · simp [Tab.put, e]
    · by_cases l : i < k
      · simp [Tab.put, e, l]
      · simp [Tab.put, e, l, ih]

/-- Keys strictly rising from a bound. -/
def Tab.rising {α : Type} : Nat → Table α → Prop
  | _, [] => True
  | n, (k, _) :: r => n ≤ k ∧ Tab.rising (k + 1) r

theorem Tab.rising_le {α : Type} {n m : Nat} {t : Table α} (h : Tab.rising n t) (hm : m ≤ n) : Tab.rising m t := by
  cases t with
  | nil => trivial
  | cons hd r => exact ⟨Nat.le_trans hm h.1, h.2⟩

/-- Below its bound a rising table has no entry. -/
theorem Tab.find?_below {α : Type} {n i : Nat} {t : Table α} (h : Tab.rising n t) (hi : i < n) : Tab.find? t i = none := by
  cases t with
  | nil => rfl
  | cons hd r =>
    obtain ⟨k, v⟩ := hd
    have hk : n ≤ k := h.1
    have : i ≠ k := by omega
    have : i < k := by omega
    simp [Tab.find?, *]

theorem Tab.rising_put {α : Type} {n i : Nat} {t : Table α} (x : α) (h : Tab.rising n t) (hi : n ≤ i) : Tab.rising n (Tab.put t i x) := by
  induction t generalizing n with
  | nil => exact ⟨hi, trivial⟩
  | cons hd r ih =>
    obtain ⟨k, v⟩ := hd
    by_cases e : i = k
    · subst e
      simpa [Tab.put, Tab.rising] using h
    · by_cases l : i < k
      · simp only [Tab.put, e, l, if_false, if_true]
        exact ⟨hi, l, h.2⟩
      · simp only [Tab.put, e, l, if_false]
        exact ⟨h.1, ih h.2 (by omega)⟩

theorem Tab.rising_del {α : Type} {n i : Nat} {t : Table α} (h : Tab.rising n t) : Tab.rising n (Tab.del t i) := by
  induction t generalizing n with
  | nil => trivial
  | cons hd r ih =>
    obtain ⟨k, v⟩ := hd
    have hk : n ≤ k := h.1
    by_cases e : i = k
    · simp only [Tab.del, e, if_true]
      exact Tab.rising_le h.2 (by omega)
    · by_cases l : i < k
      · simpa only [Tab.del, e, l, if_false, if_true] using h
      · simp only [Tab.del, e, l, if_false]
        exact ⟨h.1, ih h.2⟩

theorem Tab.find?_del_same {α : Type} {n i : Nat} {t : Table α} (h : Tab.rising n t) : Tab.find? (Tab.del t i) i = none := by
  induction t generalizing n with
  | nil => rfl
  | cons hd r ih =>
    obtain ⟨k, v⟩ := hd
    by_cases e : i = k
    · simp only [Tab.del, e, if_true]
      exact Tab.find?_below h.2 (by omega)
    · by_cases l : i < k
      · simp [Tab.del, Tab.find?, e, l]
      · simp [Tab.del, Tab.find?, e, l, ih h.2]

theorem Tab.find?_del_other {α : Type} {n i j : Nat} {t : Table α} (h : Tab.rising n t) (hj : j ≠ i) :
    Tab.find? (Tab.del t i) j = Tab.find? t j := by
  induction t generalizing n with
  | nil => rfl
  | cons hd r ih =>
    obtain ⟨k, v⟩ := hd
    by_cases e : i = k
    · subst e
      by_cases l : j < i
      · simp [Tab.del, Tab.find?, hj, l, Tab.find?_below h.2 (show j < i + 1 by omega)]
      · simp [Tab.del, Tab.find?, hj, l]
    · by_cases l : i < k
      · simp [Tab.del, e, l]
      · by_cases e' : j = k
        · simp [Tab.del, Tab.find?, e, l, e']
        · by_cases l' : j < k
          · simp [Tab.del, Tab.find?, e, l, e', l']
          · simp [Tab.del, Tab.find?, e, l, e', l', ih h.2]

/-! ### Memory: the canonical form -/

/-- The canonical form said of a table: addresses rising, and no byte zero. -/
theorem Memory.wf_iff (m : Memory) : Memory.wf m = true ↔ Tab.rising 0 m ∧ ∀ p ∈ m, p.2 ≠ 0 := by
  have gen : ∀ (m : Memory) (n : Nat), (∀ p, m.head? = some p → n ≤ p.1) →
      (Memory.wf m = true ↔ Tab.rising n m ∧ ∀ p ∈ m, p.2 ≠ 0) := by
    intro m
    induction m with
    | nil => intro n _; simp [Memory.wf, Tab.rising]
    | cons hd r ih =>
      intro n hn
      obtain ⟨a, b⟩ := hd
      have hna : n ≤ a := hn (a, b) rfl
      cases r with
      | nil => simp [Memory.wf, Tab.rising, hna]
      | cons hd' r' =>
        obtain ⟨a', b'⟩ := hd'
        by_cases hlt : a < a'
        · have := ih (a + 1) (by intro p hp; simp at hp; subst hp; exact hlt)
          simp only [Memory.wf, hlt, decide_true, Bool.and_true, Bool.and_eq_true, this, bne_iff_ne, Tab.rising, hna, true_and,
            List.mem_cons, forall_eq_or_imp]
          exact ⟨fun ⟨x, y, z⟩ => ⟨y, x, z⟩, fun ⟨y, x, z⟩ => ⟨x, y, z⟩⟩
        · simp only [Memory.wf, hlt, decide_false, Bool.and_false, Bool.false_and, Bool.false_eq_true, false_iff, Tab.rising]
          intro h
          have := h.1.2.1
          omega
  exact gen m 0 (fun _ _ => Nat.zero_le _)

theorem Tab.mem_put {α : Type} {t : Table α} {i : Nat} {x : α} {p : Nat × α} (h : p ∈ Tab.put t i x) : p = (i, x) ∨ p ∈ t := by
  induction t with
  | nil => simp [Tab.put] at h; exact Or.inl h
  | cons hd r ih =>
    obtain ⟨k, v⟩ := hd
    by_cases e : i = k
    · simp only [Tab.put, e, if_true, List.mem_cons] at h
      rcases h with h | h
      · left; rw [e]; exact h
      · right; exact List.mem_cons_of_mem _ h
    · by_cases l : i < k
      · simp only [Tab.put, e, l, if_false, if_true, List.mem_cons] at h
        rcases h with h | h
        · exact Or.inl h
        · right; simpa using h
      · simp only [Tab.put, e, l, if_false, List.mem_cons] at h
        rcases h with h | h
        · right; rw [h]; exact List.mem_cons_self
        · rcases ih h with h | h
          · exact Or.inl h
          · exact Or.inr (List.mem_cons_of_mem _ h)

theorem Tab.mem_del {α : Type} {t : Table α} {i : Nat} {p : Nat × α} (h : p ∈ Tab.del t i) : p ∈ t := by
  induction t with
  | nil => simp [Tab.del] at h
  | cons hd r ih =>
    obtain ⟨k, v⟩ := hd
    by_cases e : i = k
    · simp only [Tab.del, e, if_true] at h
      exact List.mem_cons_of_mem _ h
    · by_cases l : i < k
      · simpa only [Tab.del, e, l, if_false, if_true] using h
      · simp only [Tab.del, e, l, if_false, List.mem_cons] at h
        rcases h with h | h
        · rw [h]; exact List.mem_cons_self
        · exact List.mem_cons_of_mem _ (ih h)

/-- Writing a byte keeps the canonical form. -/
theorem writeByte_wf {m : Memory} (a : Nat) (b : Byte) (h : Memory.wf m = true) : Memory.wf (writeByte m a b) = true := by
  rw [Memory.wf_iff] at h ⊢
  unfold writeByte
  split
  · exact ⟨Tab.rising_del h.1, fun p hp => h.2 p (Tab.mem_del hp)⟩
  · refine ⟨Tab.rising_put b h.1 (Nat.zero_le _), fun p hp => ?_⟩
    rcases Tab.mem_put hp with rfl | hp
    · assumption
    · exact h.2 p hp

/-- Writing a list of bytes keeps the canonical form. -/
theorem writeBytes_wf {m : Memory} (a : Nat) (bs : List Byte) (h : Memory.wf m = true) : Memory.wf (writeBytes m a bs) = true := by
  induction bs generalizing m a with
  | nil => exact h
  | cons b r ih => exact ih (a + 1) (writeByte_wf a b h)

/-- Writing chosen bytes of a line keeps the canonical form. -/
theorem writeLine_wf {m : Memory} (line : Nat) (c : LineData) (mask : W128) (h : Memory.wf m = true) :
    Memory.wf (writeLine m line c mask) = true := by
  unfold writeLine
  generalize List.range 128 = l
  induction l generalizing m with
  | nil => exact h
  | cons i r ih =>
    rw [List.foldl_cons]
    split
    · exact ih (writeByte_wf _ _ h)
    · exact ih h

/-- Nothing listed is canonical. -/
theorem empty_wf : Memory.wf [] = true := rfl

/-! ### Memory: what is read after a write -/

/-- The byte that was written is read. -/
theorem readByte_writeByte_same {m : Memory} (a : Nat) (b : Byte) (h : Memory.wf m = true) : readByte (writeByte m a b) a = b := by
  unfold readByte writeByte Tab.get
  split
  · rename_i hb
    rw [Tab.find?_del_same ((Memory.wf_iff m).1 h).1, hb]
    rfl
  · simp

/-- Every other byte stays. -/
theorem readByte_writeByte_other {m : Memory} {a a' : Nat} (b : Byte) (h : Memory.wf m = true) (ha : a' ≠ a) :
    readByte (writeByte m a b) a' = readByte m a' := by
  unfold readByte writeByte Tab.get
  split
  · rw [Tab.find?_del_other ((Memory.wf_iff m).1 h).1 ha]
  · rw [Tab.find?_put_other m b ha]

/-- Bytes outside those written stay. -/
theorem readByte_writeBytes_other {m : Memory} {a : Nat} {bs : List Byte} {x : Nat} (h : Memory.wf m = true)
    (hx : x < a ∨ a + bs.length ≤ x) : readByte (writeBytes m a bs) x = readByte m x := by
  induction bs generalizing m a with
  | nil => rfl
  | cons b r ih =>
    simp only [List.length_cons] at hx
    rw [writeBytes, ih (writeByte_wf a b h) (by omega), readByte_writeByte_other b h (by omega)]

/-- The bytes that were written are read. -/
theorem readByte_writeBytes_same {m : Memory} {a : Nat} {bs : List Byte} {i : Nat} (h : Memory.wf m = true) (hi : i < bs.length) :
    readByte (writeBytes m a bs) (a + i) = bs[i] := by
  induction bs generalizing m a i with
  | nil => simp at hi
  | cons b r ih =>
    cases i with
    | zero =>
      rw [writeBytes, readByte_writeBytes_other (writeByte_wf a b h) (by omega)]
      simpa using readByte_writeByte_same a b h
    | succ j =>
      have := ih (m := writeByte m a b) (a := a + 1) (i := j) (writeByte_wf a b h) (by simpa using hi)
      rw [writeBytes, show a + (j + 1) = a + 1 + j by omega, this]
      rfl

/-- The canonical form is the only one: memories that read alike are equal. -/
theorem Memory.ext_of_wf {m m' : Memory} (h : Memory.wf m = true) (h' : Memory.wf m' = true) (e : ∀ a, readByte m a = readByte m' a) : m = m' := by
  have key : ∀ (m m' : Memory) (n : Nat), Tab.rising n m → Tab.rising n m' → (∀ p ∈ m, p.2 ≠ 0) → (∀ p ∈ m', p.2 ≠ 0) →
      (∀ a, n ≤ a → readByte m a = readByte m' a) → m = m' := by
    intro m
    induction m with
    | nil =>
      intro m' n _ r' _ z' e
      cases m' with
      | nil => rfl
      | cons hd r =>
        have := e hd.1 r'.1
        simp [readByte, Tab.get, Tab.find?] at this
        exact absurd this.symm (z' hd List.mem_cons_self)
    | cons hd r ih =>
      intro m' n rm r' z z' e
      obtain ⟨a, b⟩ := hd
      cases m' with
      | nil =>
        have := e a rm.1
        simp [readByte, Tab.get, Tab.find?] at this
        exact absurd this (z (a, b) List.mem_cons_self)
      | cons hd' q =>
        obtain ⟨a', b'⟩ := hd'
        have hb : b ≠ 0 := z (a, b) List.mem_cons_self
        have hb' : b' ≠ 0 := z' (a', b') List.mem_cons_self
        have haa : a = a' := by
          rcases Nat.lt_trichotomy a a' with l | l | l
          · have := e a rm.1
            have na : a ≠ a' := by omega
            simp [readByte, Tab.get, Tab.find?, l, na] at this
            exact absurd this hb
          · exact l
          · have := e a' r'.1
            have na : a' ≠ a := by omega
            simp [readByte, Tab.get, Tab.find?, l, na] at this
            exact absurd this.symm hb'
        subst haa
        have hbb : b = b' := by
          have := e a rm.1
          simpa [readByte, Tab.get, Tab.find?] using this
        subst hbb
        rw [ih q (a + 1) rm.2 r'.2 (fun p hp => z p (List.mem_cons_of_mem _ hp)) (fun p hp => z' p (List.mem_cons_of_mem _ hp))]
        intro x hx
        have := e x (by have := rm.1; omega)
        have n1 : x ≠ a := by omega
        have n2 : ¬ x < a := by omega
        simpa [readByte, Tab.get, Tab.find?, n1, n2] using this
  exact key m m' 0 ((Memory.wf_iff m).1 h).1 ((Memory.wf_iff m').1 h').1 ((Memory.wf_iff m).1 h).2 ((Memory.wf_iff m').1 h').2 (fun a _ => e a)

end Sys2Proof.Machine
end

