-- ==== Sys2Proof/Laws/Access.lean ====
section
/-! SUPPORT. Reading a part of the state after an update of it or of another part. -/

namespace Sys2Proof.Machine

/-! ### Sites, cores, dies and launches -/

@[simp] theorem siteOf_setSite (s : State) (k : SiteKey) (x : Site) : siteOf (setSite s k x) k = x := by simp [siteOf, setSite]
theorem siteOf_setSite_other (s : State) {k k' : SiteKey} (x : Site) (h : siteKeyNat k' ≠ siteKeyNat k) :
    siteOf (setSite s k x) k' = siteOf s k' := by simp [siteOf, setSite, Tab.get_put_other _ _ _ h]
/-- Two keys of one site read the same. -/
theorem siteOf_congr (s : State) {k k' : SiteKey} (h : siteKeyNat k' = siteKeyNat k) : siteOf s k' = siteOf s k := by simp [siteOf, h]
@[simp] theorem coreOf_setCore (s : State) (c : Nat) (x : Core) : coreOf (setCore s c x) c = x := by simp [coreOf, setCore]
theorem coreOf_setCore_other (s : State) {c c' : Nat} (x : Core) (h : c' ≠ c) : coreOf (setCore s c x) c' = coreOf s c' := by
  simp [coreOf, setCore, Tab.get_put_other _ _ _ h]
@[simp] theorem dieOf_setDie (s : State) (d : Nat) (x : Die) : dieOf (setDie s d x) d = x := by simp [dieOf, setDie]
theorem dieOf_setDie_other (s : State) {d d' : Nat} (x : Die) (h : d' ≠ d) : dieOf (setDie s d x) d' = dieOf s d' := by
  simp [dieOf, setDie, Tab.get_put_other _ _ _ h]
@[simp] theorem launchOf_setLaunch (s : State) (l : Nat) (x : Launch) : launchOf (setLaunch s l x) l = x := by simp [launchOf, setLaunch]
theorem launchOf_setLaunch_other (s : State) {l l' : Nat} (x : Launch) (h : l' ≠ l) : launchOf (setLaunch s l x) l' = launchOf s l' := by
  simp [launchOf, setLaunch, Tab.get_put_other _ _ _ h]

/-! ### Parts that an update of another part leaves alone -/

@[simp] theorem siteOf_setCore (s : State) (c : Nat) (x : Core) (k' : SiteKey) : siteOf (setCore s c x) k' = siteOf s k' := rfl
@[simp] theorem dieOf_setCore (s : State) (c : Nat) (x : Core) (d' : Nat) : dieOf (setCore s c x) d' = dieOf s d' := rfl
@[simp] theorem launchOf_setCore (s : State) (c : Nat) (x : Core) (l' : Nat) : launchOf (setCore s c x) l' = launchOf s l' := rfl
@[simp] theorem coreOf_setSite (s : State) (k : SiteKey) (x : Site) (c' : Nat) : coreOf (setSite s k x) c' = coreOf s c' := rfl
@[simp] theorem dieOf_setSite (s : State) (k : SiteKey) (x : Site) (d' : Nat) : dieOf (setSite s k x) d' = dieOf s d' := rfl
@[simp] theorem launchOf_setSite (s : State) (k : SiteKey) (x : Site) (l' : Nat) : launchOf (setSite s k x) l' = launchOf s l' := rfl
@[simp] theorem siteOf_setDie (s : State) (d : Nat) (x : Die) (k' : SiteKey) : siteOf (setDie s d x) k' = siteOf s k' := rfl
@[simp] theorem coreOf_setDie (s : State) (d : Nat) (x : Die) (c' : Nat) : coreOf (setDie s d x) c' = coreOf s c' := rfl
@[simp] theorem launchOf_setDie (s : State) (d : Nat) (x : Die) (l' : Nat) : launchOf (setDie s d x) l' = launchOf s l' := rfl
@[simp] theorem siteOf_setLaunch (s : State) (l : Nat) (x : Launch) (k' : SiteKey) : siteOf (setLaunch s l x) k' = siteOf s k' := rfl
@[simp] theorem coreOf_setLaunch (s : State) (l : Nat) (x : Launch) (c' : Nat) : coreOf (setLaunch s l x) c' = coreOf s c' := rfl
@[simp] theorem dieOf_setLaunch (s : State) (l : Nat) (x : Launch) (d' : Nat) : dieOf (setLaunch s l x) d' = dieOf s d' := rfl
@[simp] theorem coreOf_setTask (s : State) (k : TaskKey) (t : Task) (c' : Nat) : coreOf (setTask s k t) c' = coreOf s c' := rfl
@[simp] theorem dieOf_setTask (s : State) (k : TaskKey) (t : Task) (d' : Nat) : dieOf (setTask s k t) d' = dieOf s d' := rfl
@[simp] theorem launchOf_setTask (s : State) (k : TaskKey) (t : Task) (l' : Nat) : launchOf (setTask s k t) l' = launchOf s l' := rfl
@[simp] theorem siteOf_push (s : State) (e : Instr) (k' : SiteKey) : siteOf (push s e) k' = siteOf s k' := rfl
@[simp] theorem coreOf_push (s : State) (e : Instr) (c' : Nat) : coreOf (push s e) c' = coreOf s c' := rfl
@[simp] theorem dieOf_push (s : State) (e : Instr) (d' : Nat) : dieOf (push s e) d' = dieOf s d' := rfl
@[simp] theorem launchOf_push (s : State) (e : Instr) (l' : Nat) : launchOf (push s e) l' = launchOf s l' := rfl
@[simp] theorem siteOf_pushAll (s : State) (es : List Instr) (k' : SiteKey) : siteOf (pushAll s es) k' = siteOf s k' := rfl
@[simp] theorem coreOf_pushAll (s : State) (es : List Instr) (c' : Nat) : coreOf (pushAll s es) c' = coreOf s c' := rfl
@[simp] theorem dieOf_pushAll (s : State) (es : List Instr) (d' : Nat) : dieOf (pushAll s es) d' = dieOf s d' := rfl
@[simp] theorem launchOf_pushAll (s : State) (es : List Instr) (l' : Nat) : launchOf (pushAll s es) l' = launchOf s l' := rfl
@[simp] theorem siteOf_defer (s : State) (e : Instr) (k' : SiteKey) : siteOf (defer s e) k' = siteOf s k' := rfl
@[simp] theorem coreOf_defer (s : State) (e : Instr) (c' : Nat) : coreOf (defer s e) c' = coreOf s c' := rfl
@[simp] theorem dieOf_defer (s : State) (e : Instr) (d' : Nat) : dieOf (defer s e) d' = dieOf s d' := rfl
@[simp] theorem launchOf_defer (s : State) (e : Instr) (l' : Nat) : launchOf (defer s e) l' = launchOf s l' := rfl
@[simp] theorem dieOf_setThread (s : State) (a : Agent) (t : Thread) (d' : Nat) : dieOf (setThread s a t) d' = dieOf s d' := by cases a <;> rfl
@[simp] theorem dieOf_withThread (s : State) (t : Thread) (d' : Nat) : dieOf (withThread s t) d' = dieOf s d' := dieOf_setThread s s.cur t d'
@[simp] theorem launchOf_setThread (s : State) (a : Agent) (t : Thread) (l' : Nat) : launchOf (setThread s a t) l' = launchOf s l' := by cases a <;> rfl
@[simp] theorem launchOf_withThread (s : State) (t : Thread) (l' : Nat) : launchOf (withThread s t) l' = launchOf s l' := launchOf_setThread s s.cur t l'

/-! ### Tasks -/

@[simp] theorem taskOf_setTask (s : State) (k : TaskKey) (t : Task) : taskOf (setTask s k t) k = t := by
  simp [taskOf, setTask, Site.setTask]
/-- A task in another slot, or on another site, stays. -/
theorem taskOf_setTask_other (s : State) {k k' : TaskKey} (t : Task)
    (h : siteKeyNat (TaskKey.siteKey k') ≠ siteKeyNat (TaskKey.siteKey k) ∨ k'.slot ≠ k.slot) :
    taskOf (setTask s k t) k' = taskOf s k' := by
  by_cases e : siteKeyNat (TaskKey.siteKey k') = siteKeyNat (TaskKey.siteKey k)
  · have hs : k'.slot ≠ k.slot := by rcases h with h | h; exact absurd e h; exact h
    rw [taskOf, siteOf_congr _ e, taskOf, siteOf_congr s e]
    simp [setTask, Site.setTask, Tab.get_put_other _ _ _ hs]
  · simp [taskOf, setTask, siteOf_setSite_other _ _ e]

@[simp] theorem siteOf_setTask_owner (s : State) (k : TaskKey) (t : Task) (k' : SiteKey) :
    (siteOf (setTask s k t) k').owner = (siteOf s k').owner := by
  by_cases e : siteKeyNat k' = siteKeyNat (TaskKey.siteKey k)
  · rw [siteOf_congr _ e, siteOf_congr s e]; simp [setTask, Site.setTask]
  · simp [setTask, siteOf_setSite_other _ _ e]
@[simp] theorem siteOf_setTask_awake (s : State) (k : TaskKey) (t : Task) (k' : SiteKey) :
    (siteOf (setTask s k t) k').awake = (siteOf s k').awake := by
  by_cases e : siteKeyNat k' = siteKeyNat (TaskKey.siteKey k)
  · rw [siteOf_congr _ e, siteOf_congr s e]; simp [setTask, Site.setTask]
  · simp [setTask, siteOf_setSite_other _ _ e]
@[simp] theorem siteOf_setTask_installed (s : State) (k : TaskKey) (t : Task) (k' : SiteKey) :
    (siteOf (setTask s k t) k').installed = (siteOf s k').installed := by
  by_cases e : siteKeyNat k' = siteKeyNat (TaskKey.siteKey k)
  · rw [siteOf_congr _ e, siteOf_congr s e]; simp [setTask, Site.setTask]
  · simp [setTask, siteOf_setSite_other _ _ e]
@[simp] theorem siteOf_setTask_istore (s : State) (k : TaskKey) (t : Task) (k' : SiteKey) :
    (siteOf (setTask s k t) k').istore = (siteOf s k').istore := by
  by_cases e : siteKeyNat k' = siteKeyNat (TaskKey.siteKey k)
  · rw [siteOf_congr _ e, siteOf_congr s e]; simp [setTask, Site.setTask]
  · simp [setTask, siteOf_setSite_other _ _ e]
@[simp] theorem siteOf_setTask_localStore (s : State) (k : TaskKey) (t : Task) (k' : SiteKey) :
    (siteOf (setTask s k t) k').localStore = (siteOf s k').localStore := by
  by_cases e : siteKeyNat k' = siteKeyNat (TaskKey.siteKey k)
  · rw [siteOf_congr _ e, siteOf_congr s e]; simp [setTask, Site.setTask]
  · simp [setTask, siteOf_setSite_other _ _ e]
@[simp] theorem siteOf_setTask_lastIssued (s : State) (k : TaskKey) (t : Task) (k' : SiteKey) :
    (siteOf (setTask s k t) k').lastIssued = (siteOf s k').lastIssued := by
  by_cases e : siteKeyNat k' = siteKeyNat (TaskKey.siteKey k)
  · rw [siteOf_congr _ e, siteOf_congr s e]; simp [setTask, Site.setTask]
  · simp [setTask, siteOf_setSite_other _ _ e]
@[simp] theorem siteOf_setTask_bindings (s : State) (k : TaskKey) (t : Task) (k' : SiteKey) :
    (siteOf (setTask s k t) k').bindings = (siteOf s k').bindings := by
  by_cases e : siteKeyNat k' = siteKeyNat (TaskKey.siteKey k)
  · rw [siteOf_congr _ e, siteOf_congr s e]; simp [setTask, Site.setTask]
  · simp [setTask, siteOf_setSite_other _ _ e]
@[simp] theorem siteOf_setTask_chans (s : State) (k : TaskKey) (t : Task) (k' : SiteKey) :
    (siteOf (setTask s k t) k').chans = (siteOf s k').chans := by
  by_cases e : siteKeyNat k' = siteKeyNat (TaskKey.siteKey k)
  · rw [siteOf_congr _ e, siteOf_congr s e]; simp [setTask, Site.setTask]
  · simp [setTask, siteOf_setSite_other _ _ e]
@[simp] theorem siteOf_setTask_outs (s : State) (k : TaskKey) (t : Task) (k' : SiteKey) :
    (siteOf (setTask s k t) k').outs = (siteOf s k').outs := by
  by_cases e : siteKeyNat k' = siteKeyNat (TaskKey.siteKey k)
  · rw [siteOf_congr _ e, siteOf_congr s e]; simp [setTask, Site.setTask]
  · simp [setTask, siteOf_setSite_other _ _ e]
@[simp] theorem siteOf_setTask_node (s : State) (k : TaskKey) (t : Task) (k' : SiteKey) :
    (siteOf (setTask s k t) k').node = (siteOf s k').node := by
  by_cases e : siteKeyNat k' = siteKeyNat (TaskKey.siteKey k)
  · rw [siteOf_congr _ e, siteOf_congr s e]; simp [setTask, Site.setTask]
  · simp [setTask, siteOf_setSite_other _ _ e]
@[simp] theorem siteOf_setTask_mergeNext (s : State) (k : TaskKey) (t : Task) (k' : SiteKey) :
    (siteOf (setTask s k t) k').mergeNext = (siteOf s k').mergeNext := by
  by_cases e : siteKeyNat k' = siteKeyNat (TaskKey.siteKey k)
  · rw [siteOf_congr _ e, siteOf_congr s e]; simp [setTask, Site.setTask]
  · simp [setTask, siteOf_setSite_other _ _ e]
@[simp] theorem siteOf_setTask_mergeArrivals (s : State) (k : TaskKey) (t : Task) (k' : SiteKey) :
    (siteOf (setTask s k t) k').mergeArrivals = (siteOf s k').mergeArrivals := by
  by_cases e : siteKeyNat k' = siteKeyNat (TaskKey.siteKey k)
  · rw [siteOf_congr _ e, siteOf_congr s e]; simp [setTask, Site.setTask]
  · simp [setTask, siteOf_setSite_other _ _ e]
@[simp] theorem siteOf_setTask_diversions (s : State) (k : TaskKey) (t : Task) (k' : SiteKey) :
    (siteOf (setTask s k t) k').diversions = (siteOf s k').diversions := by
  by_cases e : siteKeyNat k' = siteKeyNat (TaskKey.siteKey k)
  · rw [siteOf_congr _ e, siteOf_congr s e]; simp [setTask, Site.setTask]
  · simp [setTask, siteOf_setSite_other _ _ e]
@[simp] theorem siteOf_setTask_nodeMap (s : State) (k : TaskKey) (t : Task) (k' : SiteKey) :
    (siteOf (setTask s k t) k').nodeMap = (siteOf s k').nodeMap := by
  by_cases e : siteKeyNat k' = siteKeyNat (TaskKey.siteKey k)
  · rw [siteOf_congr _ e, siteOf_congr s e]; simp [setTask, Site.setTask]
  · simp [setTask, siteOf_setSite_other _ _ e]

/-! ### Instruction streams -/

@[simp] theorem threadOf_setThread (s : State) (a : Agent) (t : Thread) : threadOf (setThread s a t) a = t := by
  cases a <;> simp [threadOf, setThread]
@[simp] theorem thread_withThread (s : State) (t : Thread) : thread (withThread s t) = t := by
  simp only [thread, withThread_cur]; exact threadOf_setThread s s.cur t
@[simp] theorem retire_thread (s : State) : thread (retire s) = Thread.next (thread s) := thread_withThread s _
@[simp] theorem mapRegs_thread (s : State) (f : Regs → Regs) : thread (mapRegs s f) = { thread s with regs := f (thread s).regs } :=
  thread_withThread s _

/-- The stream of an agent apart stays. -/
theorem threadOf_setThread_apart (s : State) {a b : Agent} (t : Thread) (h : Agent.apart a b) :
    threadOf (setThread s a t) b = threadOf s b := by
  cases a <;> cases b <;> simp only [Agent.apart] at h
  · simp only [threadOf, setThread, taskOf_setTask_other s _ h]
  · rfl
  · rfl
  · rfl
  · simp [threadOf, setThread, coreOf_setCore_other s _ h]
  · rfl
  · rfl
  · rfl

@[simp] theorem siteOf_setThread_owner (s : State) (a : Agent) (t : Thread) (k' : SiteKey) :
    (siteOf (setThread s a t) k').owner = (siteOf s k').owner := by cases a <;> simp [setThread] <;> rfl
@[simp] theorem siteOf_withThread_owner (s : State) (t : Thread) (k' : SiteKey) :
    (siteOf (withThread s t) k').owner = (siteOf s k').owner := siteOf_setThread_owner s s.cur t k'
@[simp] theorem siteOf_setThread_awake (s : State) (a : Agent) (t : Thread) (k' : SiteKey) :
    (siteOf (setThread s a t) k').awake = (siteOf s k').awake := by cases a <;> simp [setThread] <;> rfl
@[simp] theorem siteOf_withThread_awake (s : State) (t : Thread) (k' : SiteKey) :
    (siteOf (withThread s t) k').awake = (siteOf s k').awake := siteOf_setThread_awake s s.cur t k'
@[simp] theorem siteOf_setThread_installed (s : State) (a : Agent) (t : Thread) (k' : SiteKey) :
    (siteOf (setThread s a t) k').installed = (siteOf s k').installed := by cases a <;> simp [setThread] <;> rfl
@[simp] theorem siteOf_withThread_installed (s : State) (t : Thread) (k' : SiteKey) :
    (siteOf (withThread s t) k').installed = (siteOf s k').installed := siteOf_setThread_installed s s.cur t k'
@[simp] theorem siteOf_setThread_istore (s : State) (a : Agent) (t : Thread) (k' : SiteKey) :
    (siteOf (setThread s a t) k').istore = (siteOf s k').istore := by cases a <;> simp [setThread] <;> rfl
@[simp] theorem siteOf_withThread_istore (s : State) (t : Thread) (k' : SiteKey) :
    (siteOf (withThread s t) k').istore = (siteOf s k').istore := siteOf_setThread_istore s s.cur t k'
@[simp] theorem siteOf_setThread_localStore (s : State) (a : Agent) (t : Thread) (k' : SiteKey) :
    (siteOf (setThread s a t) k').localStore = (siteOf s k').localStore := by cases a <;> simp [setThread] <;> rfl
@[simp] theorem siteOf_withThread_localStore (s : State) (t : Thread) (k' : SiteKey) :
    (siteOf (withThread s t) k').localStore = (siteOf s k').localStore := siteOf_setThread_localStore s s.cur t k'
@[simp] theorem siteOf_setThread_lastIssued (s : State) (a : Agent) (t : Thread) (k' : SiteKey) :
    (siteOf (setThread s a t) k').lastIssued = (siteOf s k').lastIssued := by cases a <;> simp [setThread] <;> rfl
@[simp] theorem siteOf_withThread_lastIssued (s : State) (t : Thread) (k' : SiteKey) :
    (siteOf (withThread s t) k').lastIssued = (siteOf s k').lastIssued := siteOf_setThread_lastIssued s s.cur t k'
@[simp] theorem siteOf_setThread_bindings (s : State) (a : Agent) (t : Thread) (k' : SiteKey) :
    (siteOf (setThread s a t) k').bindings = (siteOf s k').bindings := by cases a <;> simp [setThread] <;> rfl
@[simp] theorem siteOf_withThread_bindings (s : State) (t : Thread) (k' : SiteKey) :
    (siteOf (withThread s t) k').bindings = (siteOf s k').bindings := siteOf_setThread_bindings s s.cur t k'
@[simp] theorem siteOf_setThread_chans (s : State) (a : Agent) (t : Thread) (k' : SiteKey) :
    (siteOf (setThread s a t) k').chans = (siteOf s k').chans := by cases a <;> simp [setThread] <;> rfl
@[simp] theorem siteOf_withThread_chans (s : State) (t : Thread) (k' : SiteKey) :
    (siteOf (withThread s t) k').chans = (siteOf s k').chans := siteOf_setThread_chans s s.cur t k'
@[simp] theorem siteOf_setThread_outs (s : State) (a : Agent) (t : Thread) (k' : SiteKey) :
    (siteOf (setThread s a t) k').outs = (siteOf s k').outs := by cases a <;> simp [setThread] <;> rfl
@[simp] theorem siteOf_withThread_outs (s : State) (t : Thread) (k' : SiteKey) :
    (siteOf (withThread s t) k').outs = (siteOf s k').outs := siteOf_setThread_outs s s.cur t k'
@[simp] theorem siteOf_setThread_node (s : State) (a : Agent) (t : Thread) (k' : SiteKey) :
    (siteOf (setThread s a t) k').node = (siteOf s k').node := by cases a <;> simp [setThread] <;> rfl
@[simp] theorem siteOf_withThread_node (s : State) (t : Thread) (k' : SiteKey) :
    (siteOf (withThread s t) k').node = (siteOf s k').node := siteOf_setThread_node s s.cur t k'
@[simp] theorem siteOf_setThread_mergeNext (s : State) (a : Agent) (t : Thread) (k' : SiteKey) :
    (siteOf (setThread s a t) k').mergeNext = (siteOf s k').mergeNext := by cases a <;> simp [setThread] <;> rfl
@[simp] theorem siteOf_withThread_mergeNext (s : State) (t : Thread) (k' : SiteKey) :
    (siteOf (withThread s t) k').mergeNext = (siteOf s k').mergeNext := siteOf_setThread_mergeNext s s.cur t k'
@[simp] theorem siteOf_setThread_mergeArrivals (s : State) (a : Agent) (t : Thread) (k' : SiteKey) :
    (siteOf (setThread s a t) k').mergeArrivals = (siteOf s k').mergeArrivals := by cases a <;> simp [setThread] <;> rfl
@[simp] theorem siteOf_withThread_mergeArrivals (s : State) (t : Thread) (k' : SiteKey) :
    (siteOf (withThread s t) k').mergeArrivals = (siteOf s k').mergeArrivals := siteOf_setThread_mergeArrivals s s.cur t k'
@[simp] theorem siteOf_setThread_diversions (s : State) (a : Agent) (t : Thread) (k' : SiteKey) :
    (siteOf (setThread s a t) k').diversions = (siteOf s k').diversions := by cases a <;> simp [setThread] <;> rfl
@[simp] theorem siteOf_withThread_diversions (s : State) (t : Thread) (k' : SiteKey) :
    (siteOf (withThread s t) k').diversions = (siteOf s k').diversions := siteOf_setThread_diversions s s.cur t k'
@[simp] theorem siteOf_setThread_nodeMap (s : State) (a : Agent) (t : Thread) (k' : SiteKey) :
    (siteOf (setThread s a t) k').nodeMap = (siteOf s k').nodeMap := by cases a <;> simp [setThread] <;> rfl
@[simp] theorem siteOf_withThread_nodeMap (s : State) (t : Thread) (k' : SiteKey) :
    (siteOf (withThread s t) k').nodeMap = (siteOf s k').nodeMap := siteOf_setThread_nodeMap s s.cur t k'
@[simp] theorem coreOf_setThread_inService (s : State) (a : Agent) (t : Thread) (c' : Nat) :
    (coreOf (setThread s a t) c').inService = (coreOf s c').inService := by
  cases a with
  | leaf c => by_cases e : c' = c
              · subst e; simp [setThread]
              · simp [setThread, coreOf_setCore_other s _ e]
  | _ => rfl
@[simp] theorem coreOf_withThread_inService (s : State) (t : Thread) (c' : Nat) :
    (coreOf (withThread s t) c').inService = (coreOf s c').inService := coreOf_setThread_inService s s.cur t c'
@[simp] theorem coreOf_setThread_l1 (s : State) (a : Agent) (t : Thread) (c' : Nat) :
    (coreOf (setThread s a t) c').l1 = (coreOf s c').l1 := by
  cases a with
  | leaf c => by_cases e : c' = c
              · subst e; simp [setThread]
              · simp [setThread, coreOf_setCore_other s _ e]
  | _ => rfl
@[simp] theorem coreOf_withThread_l1 (s : State) (t : Thread) (c' : Nat) :
    (coreOf (withThread s t) c').l1 = (coreOf s c').l1 := coreOf_setThread_l1 s s.cur t c'
@[simp] theorem coreOf_setThread_readsOut (s : State) (a : Agent) (t : Thread) (c' : Nat) :
    (coreOf (setThread s a t) c').readsOut = (coreOf s c').readsOut := by
  cases a with
  | leaf c => by_cases e : c' = c
              · subst e; simp [setThread]
              · simp [setThread, coreOf_setCore_other s _ e]
  | _ => rfl
@[simp] theorem coreOf_withThread_readsOut (s : State) (t : Thread) (c' : Nat) :
    (coreOf (withThread s t) c').readsOut = (coreOf s c').readsOut := coreOf_setThread_readsOut s s.cur t c'
@[simp] theorem coreOf_setThread_readsStale (s : State) (a : Agent) (t : Thread) (c' : Nat) :
    (coreOf (setThread s a t) c').readsStale = (coreOf s c').readsStale := by
  cases a with
  | leaf c => by_cases e : c' = c
              · subst e; simp [setThread]
              · simp [setThread, coreOf_setCore_other s _ e]
  | _ => rfl
@[simp] theorem coreOf_withThread_readsStale (s : State) (t : Thread) (c' : Nat) :
    (coreOf (withThread s t) c').readsStale = (coreOf s c').readsStale := coreOf_setThread_readsStale s s.cur t c'
@[simp] theorem coreOf_setThread_regsOut (s : State) (a : Agent) (t : Thread) (c' : Nat) :
    (coreOf (setThread s a t) c').regsOut = (coreOf s c').regsOut := by
  cases a with
  | leaf c => by_cases e : c' = c
              · subst e; simp [setThread]
              · simp [setThread, coreOf_setCore_other s _ e]
  | _ => rfl
@[simp] theorem coreOf_withThread_regsOut (s : State) (t : Thread) (c' : Nat) :
    (coreOf (withThread s t) c').regsOut = (coreOf s c').regsOut := coreOf_setThread_regsOut s s.cur t c'
@[simp] theorem coreOf_setThread_wbOut (s : State) (a : Agent) (t : Thread) (c' : Nat) :
    (coreOf (setThread s a t) c').wbOut = (coreOf s c').wbOut := by
  cases a with
  | leaf c => by_cases e : c' = c
              · subst e; simp [setThread]
              · simp [setThread, coreOf_setCore_other s _ e]
  | _ => rfl
@[simp] theorem coreOf_withThread_wbOut (s : State) (t : Thread) (c' : Nat) :
    (coreOf (withThread s t) c').wbOut = (coreOf s c').wbOut := coreOf_setThread_wbOut s s.cur t c'
@[simp] theorem coreOf_setThread_sideLog (s : State) (a : Agent) (t : Thread) (c' : Nat) :
    (coreOf (setThread s a t) c').sideLog = (coreOf s c').sideLog := by
  cases a with
  | leaf c => by_cases e : c' = c
              · subst e; simp [setThread]
              · simp [setThread, coreOf_setCore_other s _ e]
  | _ => rfl
@[simp] theorem coreOf_withThread_sideLog (s : State) (t : Thread) (c' : Nat) :
    (coreOf (withThread s t) c').sideLog = (coreOf s c').sideLog := coreOf_setThread_sideLog s s.cur t c'
@[simp] theorem coreOf_setThread_nextLog (s : State) (a : Agent) (t : Thread) (c' : Nat) :
    (coreOf (setThread s a t) c').nextLog = (coreOf s c').nextLog := by
  cases a with
  | leaf c => by_cases e : c' = c
              · subst e; simp [setThread]
              · simp [setThread, coreOf_setCore_other s _ e]
  | _ => rfl
@[simp] theorem coreOf_withThread_nextLog (s : State) (t : Thread) (c' : Nat) :
    (coreOf (withThread s t) c').nextLog = (coreOf s c').nextLog := coreOf_setThread_nextLog s s.cur t c'
@[simp] theorem coreOf_setThread_fltBase (s : State) (a : Agent) (t : Thread) (c' : Nat) :
    (coreOf (setThread s a t) c').fltBase = (coreOf s c').fltBase := by
  cases a with
  | leaf c => by_cases e : c' = c
              · subst e; simp [setThread]
              · simp [setThread, coreOf_setCore_other s _ e]
  | _ => rfl
@[simp] theorem coreOf_withThread_fltBase (s : State) (t : Thread) (c' : Nat) :
    (coreOf (withThread s t) c').fltBase = (coreOf s c').fltBase := coreOf_setThread_fltBase s s.cur t c'
@[simp] theorem coreOf_setThread_fltHead (s : State) (a : Agent) (t : Thread) (c' : Nat) :
    (coreOf (setThread s a t) c').fltHead = (coreOf s c').fltHead := by
  cases a with
  | leaf c => by_cases e : c' = c
              · subst e; simp [setThread]
              · simp [setThread, coreOf_setCore_other s _ e]
  | _ => rfl
@[simp] theorem coreOf_withThread_fltHead (s : State) (t : Thread) (c' : Nat) :
    (coreOf (withThread s t) c').fltHead = (coreOf s c').fltHead := coreOf_setThread_fltHead s s.cur t c'
@[simp] theorem coreOf_setThread_fltTail (s : State) (a : Agent) (t : Thread) (c' : Nat) :
    (coreOf (setThread s a t) c').fltTail = (coreOf s c').fltTail := by
  cases a with
  | leaf c => by_cases e : c' = c
              · subst e; simp [setThread]
              · simp [setThread, coreOf_setCore_other s _ e]
  | _ => rfl
@[simp] theorem coreOf_withThread_fltTail (s : State) (t : Thread) (c' : Nat) :
    (coreOf (withThread s t) c').fltTail = (coreOf s c').fltTail := coreOf_setThread_fltTail s s.cur t c'
@[simp] theorem coreOf_setThread_faults (s : State) (a : Agent) (t : Thread) (c' : Nat) :
    (coreOf (setThread s a t) c').faults = (coreOf s c').faults := by
  cases a with
  | leaf c => by_cases e : c' = c
              · subst e; simp [setThread]
              · simp [setThread, coreOf_setCore_other s _ e]
  | _ => rfl
@[simp] theorem coreOf_withThread_faults (s : State) (t : Thread) (c' : Nat) :
    (coreOf (withThread s t) c').faults = (coreOf s c').faults := coreOf_setThread_faults s s.cur t c'
@[simp] theorem coreOf_setThread_faultQueue (s : State) (a : Agent) (t : Thread) (c' : Nat) :
    (coreOf (setThread s a t) c').faultQueue = (coreOf s c').faultQueue := by
  cases a with
  | leaf c => by_cases e : c' = c
              · subst e; simp [setThread]
              · simp [setThread, coreOf_setCore_other s _ e]
  | _ => rfl
@[simp] theorem coreOf_withThread_faultQueue (s : State) (t : Thread) (c' : Nat) :
    (coreOf (withThread s t) c').faultQueue = (coreOf s c').faultQueue := coreOf_setThread_faultQueue s s.cur t c'
@[simp] theorem coreOf_setThread_watch (s : State) (a : Agent) (t : Thread) (c' : Nat) :
    (coreOf (setThread s a t) c').watch = (coreOf s c').watch := by
  cases a with
  | leaf c => by_cases e : c' = c
              · subst e; simp [setThread]
              · simp [setThread, coreOf_setCore_other s _ e]
  | _ => rfl
@[simp] theorem coreOf_withThread_watch (s : State) (t : Thread) (c' : Nat) :
    (coreOf (withThread s t) c').watch = (coreOf s c').watch := coreOf_setThread_watch s s.cur t c'
@[simp] theorem coreOf_setThread_slabs (s : State) (a : Agent) (t : Thread) (c' : Nat) :
    (coreOf (setThread s a t) c').slabs = (coreOf s c').slabs := by
  cases a with
  | leaf c => by_cases e : c' = c
              · subst e; simp [setThread]
              · simp [setThread, coreOf_setCore_other s _ e]
  | _ => rfl
@[simp] theorem coreOf_withThread_slabs (s : State) (t : Thread) (c' : Nat) :
    (coreOf (withThread s t) c').slabs = (coreOf s c').slabs := coreOf_setThread_slabs s s.cur t c'
@[simp] theorem coreOf_setThread_accs (s : State) (a : Agent) (t : Thread) (c' : Nat) :
    (coreOf (setThread s a t) c').accs = (coreOf s c').accs := by
  cases a with
  | leaf c => by_cases e : c' = c
              · subst e; simp [setThread]
              · simp [setThread, coreOf_setCore_other s _ e]
  | _ => rfl
@[simp] theorem coreOf_withThread_accs (s : State) (t : Thread) (c' : Nat) :
    (coreOf (withThread s t) c').accs = (coreOf s c').accs := coreOf_setThread_accs s s.cur t c'
@[simp] theorem coreOf_setThread_topks (s : State) (a : Agent) (t : Thread) (c' : Nat) :
    (coreOf (setThread s a t) c').topks = (coreOf s c').topks := by
  cases a with
  | leaf c => by_cases e : c' = c
              · subst e; simp [setThread]
              · simp [setThread, coreOf_setCore_other s _ e]
  | _ => rfl
@[simp] theorem coreOf_withThread_topks (s : State) (t : Thread) (c' : Nat) :
    (coreOf (withThread s t) c').topks = (coreOf s c').topks := coreOf_setThread_topks s s.cur t c'
@[simp] theorem coreOf_setThread_chans (s : State) (a : Agent) (t : Thread) (c' : Nat) :
    (coreOf (setThread s a t) c').chans = (coreOf s c').chans := by
  cases a with
  | leaf c => by_cases e : c' = c
              · subst e; simp [setThread]
              · simp [setThread, coreOf_setCore_other s _ e]
  | _ => rfl
@[simp] theorem coreOf_withThread_chans (s : State) (t : Thread) (c' : Nat) :
    (coreOf (withThread s t) c').chans = (coreOf s c').chans := coreOf_setThread_chans s s.cur t c'
@[simp] theorem coreOf_setThread_match_ (s : State) (a : Agent) (t : Thread) (c' : Nat) :
    (coreOf (setThread s a t) c').match_ = (coreOf s c').match_ := by
  cases a with
  | leaf c => by_cases e : c' = c
              · subst e; simp [setThread]
              · simp [setThread, coreOf_setCore_other s _ e]
  | _ => rfl
@[simp] theorem coreOf_withThread_match_ (s : State) (t : Thread) (c' : Nat) :
    (coreOf (withThread s t) c').match_ = (coreOf s c').match_ := coreOf_setThread_match_ s s.cur t c'
@[simp] theorem coreOf_setThread_cards (s : State) (a : Agent) (t : Thread) (c' : Nat) :
    (coreOf (setThread s a t) c').cards = (coreOf s c').cards := by
  cases a with
  | leaf c => by_cases e : c' = c
              · subst e; simp [setThread]
              · simp [setThread, coreOf_setCore_other s _ e]
  | _ => rfl
@[simp] theorem coreOf_withThread_cards (s : State) (t : Thread) (c' : Nat) :
    (coreOf (withThread s t) c').cards = (coreOf s c').cards := coreOf_setThread_cards s s.cur t c'
@[simp] theorem coreOf_setThread_nextCard (s : State) (a : Agent) (t : Thread) (c' : Nat) :
    (coreOf (setThread s a t) c').nextCard = (coreOf s c').nextCard := by
  cases a with
  | leaf c => by_cases e : c' = c
              · subst e; simp [setThread]
              · simp [setThread, coreOf_setCore_other s _ e]
  | _ => rfl
@[simp] theorem coreOf_withThread_nextCard (s : State) (t : Thread) (c' : Nat) :
    (coreOf (withThread s t) c').nextCard = (coreOf s c').nextCard := coreOf_setThread_nextCard s s.cur t c'
@[simp] theorem coreOf_setThread_rampCfg (s : State) (a : Agent) (t : Thread) (c' : Nat) :
    (coreOf (setThread s a t) c').rampCfg = (coreOf s c').rampCfg := by
  cases a with
  | leaf c => by_cases e : c' = c
              · subst e; simp [setThread]
              · simp [setThread, coreOf_setCore_other s _ e]
  | _ => rfl
@[simp] theorem coreOf_withThread_rampCfg (s : State) (t : Thread) (c' : Nat) :
    (coreOf (withThread s t) c').rampCfg = (coreOf s c').rampCfg := coreOf_setThread_rampCfg s s.cur t c'
@[simp] theorem coreOf_setThread_rampStat (s : State) (a : Agent) (t : Thread) (c' : Nat) :
    (coreOf (setThread s a t) c').rampStat = (coreOf s c').rampStat := by
  cases a with
  | leaf c => by_cases e : c' = c
              · subst e; simp [setThread]
              · simp [setThread, coreOf_setCore_other s _ e]
  | _ => rfl
@[simp] theorem coreOf_withThread_rampStat (s : State) (t : Thread) (c' : Nat) :
    (coreOf (withThread s t) c').rampStat = (coreOf s c').rampStat := coreOf_setThread_rampStat s s.cur t c'
@[simp] theorem coreOf_setThread_rampEmpty (s : State) (a : Agent) (t : Thread) (c' : Nat) :
    (coreOf (setThread s a t) c').rampEmpty = (coreOf s c').rampEmpty := by
  cases a with
  | leaf c => by_cases e : c' = c
              · subst e; simp [setThread]
              · simp [setThread, coreOf_setCore_other s _ e]
  | _ => rfl
@[simp] theorem coreOf_withThread_rampEmpty (s : State) (t : Thread) (c' : Nat) :
    (coreOf (withThread s t) c').rampEmpty = (coreOf s c').rampEmpty := coreOf_setThread_rampEmpty s s.cur t c'
@[simp] theorem coreOf_setThread_rampDummy (s : State) (a : Agent) (t : Thread) (c' : Nat) :
    (coreOf (setThread s a t) c').rampDummy = (coreOf s c').rampDummy := by
  cases a with
  | leaf c => by_cases e : c' = c
              · subst e; simp [setThread]
              · simp [setThread, coreOf_setCore_other s _ e]
  | _ => rfl
@[simp] theorem coreOf_withThread_rampDummy (s : State) (t : Thread) (c' : Nat) :
    (coreOf (withThread s t) c').rampDummy = (coreOf s c').rampDummy := coreOf_setThread_rampDummy s s.cur t c'
@[simp] theorem coreOf_setThread_rampCount (s : State) (a : Agent) (t : Thread) (c' : Nat) :
    (coreOf (setThread s a t) c').rampCount = (coreOf s c').rampCount := by
  cases a with
  | leaf c => by_cases e : c' = c
              · subst e; simp [setThread]
              · simp [setThread, coreOf_setCore_other s _ e]
  | _ => rfl
@[simp] theorem coreOf_withThread_rampCount (s : State) (t : Thread) (c' : Nat) :
    (coreOf (withThread s t) c').rampCount = (coreOf s c').rampCount := coreOf_setThread_rampCount s s.cur t c'
@[simp] theorem coreOf_setThread_block (s : State) (a : Agent) (t : Thread) (c' : Nat) :
    (coreOf (setThread s a t) c').block = (coreOf s c').block := by
  cases a with
  | leaf c => by_cases e : c' = c
              · subst e; simp [setThread]
              · simp [setThread, coreOf_setCore_other s _ e]
  | _ => rfl
@[simp] theorem coreOf_withThread_block (s : State) (t : Thread) (c' : Nat) :
    (coreOf (withThread s t) c').block = (coreOf s c').block := coreOf_setThread_block s s.cur t c'
@[simp] theorem glob_setThread_active (s : State) (a : Agent) (t : Thread) : (setThread s a t).glob.active = s.glob.active := by cases a <;> rfl
@[simp] theorem glob_withThread_active (s : State) (t : Thread) : (withThread s t).glob.active = s.glob.active := glob_setThread_active s s.cur t
@[simp] theorem glob_setThread_qtBase (s : State) (a : Agent) (t : Thread) : (setThread s a t).glob.qtBase = s.glob.qtBase := by cases a <;> rfl
@[simp] theorem glob_withThread_qtBase (s : State) (t : Thread) : (withThread s t).glob.qtBase = s.glob.qtBase := glob_setThread_qtBase s s.cur t
@[simp] theorem glob_setThread_qtSize (s : State) (a : Agent) (t : Thread) : (setThread s a t).glob.qtSize = s.glob.qtSize := by cases a <;> rfl
@[simp] theorem glob_withThread_qtSize (s : State) (t : Thread) : (withThread s t).glob.qtSize = s.glob.qtSize := glob_setThread_qtSize s s.cur t
@[simp] theorem glob_setThread_pollInt (s : State) (a : Agent) (t : Thread) : (setThread s a t).glob.pollInt = s.glob.pollInt := by cases a <;> rfl
@[simp] theorem glob_withThread_pollInt (s : State) (t : Thread) : (withThread s t).glob.pollInt = s.glob.pollInt := glob_setThread_pollInt s s.cur t
@[simp] theorem glob_setThread_events (s : State) (a : Agent) (t : Thread) : (setThread s a t).glob.events = s.glob.events := by cases a <;> rfl
@[simp] theorem glob_withThread_events (s : State) (t : Thread) : (withThread s t).glob.events = s.glob.events := glob_setThread_events s s.cur t
@[simp] theorem glob_setThread_timer (s : State) (a : Agent) (t : Thread) : (setThread s a t).glob.timer = s.glob.timer := by cases a <;> rfl
@[simp] theorem glob_withThread_timer (s : State) (t : Thread) : (withThread s t).glob.timer = s.glob.timer := glob_setThread_timer s s.cur t
@[simp] theorem glob_setThread_trapVec (s : State) (a : Agent) (t : Thread) : (setThread s a t).glob.trapVec = s.glob.trapVec := by cases a <;> rfl
@[simp] theorem glob_withThread_trapVec (s : State) (t : Thread) : (withThread s t).glob.trapVec = s.glob.trapVec := glob_setThread_trapVec s s.cur t
@[simp] theorem glob_setThread_nodeId (s : State) (a : Agent) (t : Thread) : (setThread s a t).glob.nodeId = s.glob.nodeId := by cases a <;> rfl
@[simp] theorem glob_withThread_nodeId (s : State) (t : Thread) : (withThread s t).glob.nodeId = s.glob.nodeId := glob_setThread_nodeId s s.cur t
@[simp] theorem glob_setThread_incarn (s : State) (a : Agent) (t : Thread) : (setThread s a t).glob.incarn = s.glob.incarn := by cases a <;> rfl
@[simp] theorem glob_withThread_incarn (s : State) (t : Thread) : (withThread s t).glob.incarn = s.glob.incarn := glob_setThread_incarn s s.cur t
@[simp] theorem glob_setThread_rtBase (s : State) (a : Agent) (t : Thread) : (setThread s a t).glob.rtBase = s.glob.rtBase := by cases a <;> rfl
@[simp] theorem glob_withThread_rtBase (s : State) (t : Thread) : (withThread s t).glob.rtBase = s.glob.rtBase := glob_setThread_rtBase s s.cur t
@[simp] theorem glob_setThread_windows (s : State) (a : Agent) (t : Thread) : (setThread s a t).glob.windows = s.glob.windows := by cases a <;> rfl
@[simp] theorem glob_withThread_windows (s : State) (t : Thread) : (withThread s t).glob.windows = s.glob.windows := glob_setThread_windows s s.cur t
@[simp] theorem glob_setThread_monitored (s : State) (a : Agent) (t : Thread) : (setThread s a t).glob.monitored = s.glob.monitored := by cases a <;> rfl
@[simp] theorem glob_withThread_monitored (s : State) (t : Thread) : (withThread s t).glob.monitored = s.glob.monitored := glob_setThread_monitored s s.cur t
@[simp] theorem glob_setThread_hits (s : State) (a : Agent) (t : Thread) : (setThread s a t).glob.hits = s.glob.hits := by cases a <;> rfl
@[simp] theorem glob_withThread_hits (s : State) (t : Thread) : (withThread s t).glob.hits = s.glob.hits := glob_setThread_hits s s.cur t
@[simp] theorem glob_setThread_entries (s : State) (a : Agent) (t : Thread) : (setThread s a t).glob.entries = s.glob.entries := by cases a <;> rfl
@[simp] theorem glob_withThread_entries (s : State) (t : Thread) : (withThread s t).glob.entries = s.glob.entries := glob_setThread_entries s s.cur t
@[simp] theorem glob_setThread_permits (s : State) (a : Agent) (t : Thread) : (setThread s a t).glob.permits = s.glob.permits := by cases a <;> rfl
@[simp] theorem glob_withThread_permits (s : State) (t : Thread) : (withThread s t).glob.permits = s.glob.permits := glob_setThread_permits s s.cur t
@[simp] theorem glob_setThread_tx (s : State) (a : Agent) (t : Thread) : (setThread s a t).glob.tx = s.glob.tx := by cases a <;> rfl
@[simp] theorem glob_withThread_tx (s : State) (t : Thread) : (withThread s t).glob.tx = s.glob.tx := glob_setThread_tx s s.cur t
@[simp] theorem glob_setThread_txFlight (s : State) (a : Agent) (t : Thread) : (setThread s a t).glob.txFlight = s.glob.txFlight := by cases a <;> rfl
@[simp] theorem glob_withThread_txFlight (s : State) (t : Thread) : (withThread s t).glob.txFlight = s.glob.txFlight := glob_setThread_txFlight s s.cur t
@[simp] theorem glob_setThread_rx (s : State) (a : Agent) (t : Thread) : (setThread s a t).glob.rx = s.glob.rx := by cases a <;> rfl
@[simp] theorem glob_withThread_rx (s : State) (t : Thread) : (withThread s t).glob.rx = s.glob.rx := glob_setThread_rx s s.cur t
@[simp] theorem glob_setThread_lastServed (s : State) (a : Agent) (t : Thread) : (setThread s a t).glob.lastServed = s.glob.lastServed := by cases a <;> rfl
@[simp] theorem glob_withThread_lastServed (s : State) (t : Thread) : (withThread s t).glob.lastServed = s.glob.lastServed := glob_setThread_lastServed s s.cur t
@[simp] theorem glob_setThread_stamps (s : State) (a : Agent) (t : Thread) : (setThread s a t).glob.stamps = s.glob.stamps := by cases a <;> rfl
@[simp] theorem glob_withThread_stamps (s : State) (t : Thread) : (withThread s t).glob.stamps = s.glob.stamps := glob_setThread_stamps s s.cur t
@[simp] theorem glob_setThread_nextLid (s : State) (a : Agent) (t : Thread) : (setThread s a t).glob.nextLid = s.glob.nextLid := by cases a <;> rfl
@[simp] theorem glob_withThread_nextLid (s : State) (t : Thread) : (withThread s t).glob.nextLid = s.glob.nextLid := glob_setThread_nextLid s s.cur t
@[simp] theorem glob_setThread_floholtUp (s : State) (a : Agent) (t : Thread) : (setThread s a t).glob.floholtUp = s.glob.floholtUp := by cases a <;> rfl
@[simp] theorem glob_withThread_floholtUp (s : State) (t : Thread) : (withThread s t).glob.floholtUp = s.glob.floholtUp := glob_setThread_floholtUp s s.cur t
@[simp] theorem glob_setThread_cxlUp (s : State) (a : Agent) (t : Thread) : (setThread s a t).glob.cxlUp = s.glob.cxlUp := by cases a <;> rfl
@[simp] theorem glob_withThread_cxlUp (s : State) (t : Thread) : (withThread s t).glob.cxlUp = s.glob.cxlUp := glob_setThread_cxlUp s s.cur t

end Sys2Proof.Machine
end

