-- ==== Sys2Proof/Laws/Home.lean ====
section
/-! SUPPORT. What a write at a line's home does: which bytes change, whose words are taken back, and what it leaves alone. -/

namespace Sys2Proof.Machine

open Sys2Proof.Safety

/-! ### Masks of words and bytes -/

/-- A bit of a mask that is built up by OR. -/
theorem bit_foldl_or {α : Type} {n : Nat} (p : α → Bool) (c : α → BitVec n) (i : Nat) (l : List α) (a : BitVec n) :
    bit (l.foldl (fun m x => if p x then m ||| c x else m) a) i = (bit a i || l.any fun x => p x && bit (c x) i) := by
  induction l generalizing a with
  | nil => simp
  | cons x r ih =>
    rw [List.foldl_cons, ih, List.any_cons]
    cases p x <;> simp [bit, Bool.or_assoc]

/-- A byte is in the bytes of a mask's words exactly where its word is in the mask. -/
theorem bit_wordsToBytes (m : W32) {i : Nat} (h : i < 128) : bit (wordsToBytes m) i = bit m (i / 4) := by
  unfold wordsToBytes
  rw [bit_foldl_or]
  have four : ∀ k, BitVec.getLsbD (15#128) k = decide (k < 4) := by
    intro k
    by_cases hk : k < 128
    · have : ∀ k : Fin 128, BitVec.getLsbD (15#128) k.val = decide (k.val < 4) := by decide
      exact this ⟨k, hk⟩
    · rw [BitVec.getLsbD_of_ge _ _ (by omega)]
      simp; omega
  have key : ∀ w, bit ((0xF : W128) <<< (4 * w)) i = decide (w = i / 4) := by
    intro w
    have : bit ((0xF : W128) <<< (4 * w)) i = (!decide (i < 4 * w) && decide (i - 4 * w < 4)) := by
      rw [← four]
      simp only [bit, BitVec.getLsbD_shiftLeft, h, decide_true, Bool.true_and]
      rfl
    rw [this, Bool.eq_iff_iff, Bool.and_eq_true, Bool.not_eq_true', decide_eq_false_iff_not, decide_eq_true_eq, decide_eq_true_eq]
    omega
  have : (List.range 32).any (fun w => bit m w && bit ((0xF : W128) <<< (4 * w)) i) = bit m (i / 4) := by
    rw [Bool.eq_iff_iff, List.any_eq_true]
    constructor
    · rintro ⟨w, hw, h'⟩
      rw [key w, Bool.and_eq_true, decide_eq_true_eq] at h'
      exact h'.2 ▸ h'.1
    · intro h'
      exact ⟨i / 4, List.mem_range.2 (by omega), by rw [key]; simpa using h'⟩
  rw [this]
  simp [bit]

/-- A word is among those that `n` bytes from `off` touch exactly where they meet it. -/
theorem bit_wordsOf (off n : Nat) {w : Nat} (h : w < 32) :
    bit (wordsOf off n) w = (decide (4 * w < off + n) && decide (off < 4 * w + 4) && decide (0 < n)) := by
  unfold wordsOf
  rw [bit_foldl_or]
  have key : ∀ v, v < 32 → bit ((1 : W32) <<< v) w = decide (v = w) := by
    intro v hv
    have : ∀ v w : Fin 32, bit ((1 : W32) <<< v.val) w.val = decide (v.val = w.val) := by decide
    exact this ⟨v, hv⟩ ⟨w, h⟩
  rw [Bool.eq_iff_iff, Bool.or_eq_true, List.any_eq_true]
  constructor
  · rintro (h' | ⟨v, hv, h'⟩)
    · simp [bit] at h'
    · rw [key v (List.mem_range.1 hv), Bool.and_eq_true, decide_eq_true_eq] at h'
      exact h'.2 ▸ h'.1
  · intro h'
    exact Or.inr ⟨w, List.mem_range.2 h, by rw [h', key w h]; simp⟩

/-! ### Lines in memory -/

/-- A line's bytes written to memory: those of the mask, and no others. -/
theorem readByte_writeLine {m : Memory} (line : Nat) (c : LineData) (mask : W128) (h : Memory.wf m = true) (j : Nat) :
    readByte (writeLine m line c mask) j = if j / 128 = line ∧ bit mask (j % 128) = true then lineByte c (j % 128) else readByte m j := by
  have key : ∀ (l : List Nat) (m : Memory), Memory.wf m = true → (∀ i ∈ l, i < 128) →
      readByte (l.foldl (fun m i => if bit mask i then writeByte m (128 * line + i) (lineByte c i) else m) m) j =
        if j / 128 = line ∧ j % 128 ∈ l ∧ bit mask (j % 128) = true then lineByte c (j % 128) else readByte m j := by
    intro l
    induction l with
    | nil => intro m _ _; simp
    | cons i r ih =>
      intro m h hl
      have hi : i < 128 := hl i List.mem_cons_self
      rw [List.foldl_cons]
      by_cases b : bit mask i = true
      · rw [if_pos b, ih _ (writeByte_wf _ _ h) (fun k hk => hl k (List.mem_cons_of_mem _ hk))]
        by_cases e : j = 128 * line + i
        · have e1 : j / 128 = line := by omega
          have e2 : j % 128 = i := by omega
          rw [e2]
          simp only [e1, b, List.mem_cons, true_or, and_self, if_true]
          split
          · rfl
          · rw [e, readByte_writeByte_same _ _ h]
        · rw [readByte_writeByte_other _ h e]
          by_cases hl' : j / 128 = line
          · have hne : j % 128 ≠ i := by omega
            simp [hl', hne]
          · simp [hl']
      · rw [if_neg b, ih _ h (fun k hk => hl k (List.mem_cons_of_mem _ hk))]
        by_cases hne : j % 128 = i
        · simp [hne, b]
        · simp [hne]
  unfold writeLine
  rw [key _ m h (fun i hi => List.mem_range.1 hi)]
  have : j % 128 ∈ List.range 128 := List.mem_range.2 (Nat.mod_lt _ (by decide))
  simp only [this, true_and]

/-! ### Tables in order -/

/-- The two ways of saying that a table's keys rise. -/
theorem rising_iff {α : Type} (t : Table α) : Rising t ↔ Tab.rising 0 t := by
  have key : ∀ (t : Table α) (n : Nat), Tab.rising n t ↔ Rising t ∧ ∀ p ∈ t, n ≤ p.1 := by
    intro t
    induction t with
    | nil => intro n; simp [Rising, Tab.rising]
    | cons hd r ih =>
      intro n
      obtain ⟨k, v⟩ := hd
      simp only [Tab.rising, ih, Rising, List.map_cons, List.pairwise_cons, List.mem_map, List.mem_cons, forall_eq_or_imp]
      constructor
      · rintro ⟨h1, h2, h3⟩
        exact ⟨⟨fun a ⟨p, hp, e⟩ => by have := h3 p hp; omega, h2⟩, h1, fun p hp => by have := h3 p hp; omega⟩
      · rintro ⟨⟨h1, h2⟩, h3, _⟩
        exact ⟨h3, h2, fun p hp => h1 p.1 ⟨p, hp, rfl⟩⟩
  rw [key]
  simp

theorem rising_put {α : Type} {t : Table α} (h : Rising t) (i : Nat) (x : α) : Rising (Tab.put t i x) :=
  (rising_iff _).2 (Tab.rising_put x ((rising_iff _).1 h) (Nat.zero_le i))
theorem rising_del {α : Type} {t : Table α} (h : Rising t) (i : Nat) : Rising (Tab.del t i) :=
  (rising_iff _).2 (Tab.rising_del ((rising_iff _).1 h))
theorem find?_del_rising {α : Type} {t : Table α} (h : Rising t) (i j : Nat) :
    Tab.find? (Tab.del t i) j = if j = i then none else Tab.find? t j := by
  split
  · next e => rw [e, Tab.find?_del_same ((rising_iff _).1 h)]
  · next e => rw [Tab.find?_del_other ((rising_iff _).1 h) e]
theorem Tab.find?_put {α : Type} (t : Table α) (i j : Nat) (x : α) :
    Tab.find? (Tab.put t i x) j = if j = i then some x else Tab.find? t j := by
  split
  · next e => rw [e, Tab.find?_put_same]
  · next e => rw [Tab.find?_put_other t x e]

/-! ### A line's registration, and a line of an L1 -/

/-- A line's registration as it was set; every other line's stays. -/
theorem homeLine_setHomeLine {s : State} (hs : Rising s.homes) (line : Nat) (h : HomeLine) (line' : Nat) :
    homeLine (setHomeLine s line h) line' = if line' = line then h else homeLine s line' := by
  unfold homeLine setHomeLine
  split
  · next e =>
    simp only [Tab.get, find?_del_rising hs]
    split
    · simp [e]
    · rfl
  · simp only [Tab.get, Tab.find?_put]
    split <;> rfl

@[simp] theorem coreOf_setHomeLine (s : State) (line : Nat) (h : HomeLine) (c : Nat) : coreOf (setHomeLine s line h) c = coreOf s c := by
  unfold coreOf; rw [setHomeLine_cores]
theorem setHomeLine_rising {s : State} (hs : Rising s.homes) (line : Nat) (h : HomeLine) : Rising (setHomeLine s line h).homes := by
  unfold setHomeLine; split
  · exact rising_del hs line
  · exact rising_put hs line h
/-- A registration set changes the homes and the order of registrations, and nothing else. -/
theorem setHomeLine_frame (s : State) (line : Nat) (h : HomeLine) :
    setHomeLine s line h = { s with homes := (setHomeLine s line h).homes, regOrder := (setHomeLine s line h).regOrder } := by
  unfold setHomeLine; split <;> rfl

/-- A line of an L1 as it was set: of one of which nothing is held, no word is owned and none is a clean copy. -/
theorem l1Line_setLine {x : Core} (hx : Rising x.l1) (line : Nat) (l : L1Line) (line' : Nat) :
    l1Line (Core.setLine x line l) line' =
      if line' = line then (if l.owned = 0 ∧ l.clean = 0 then L1Line.empty else l) else l1Line x line' := by
  unfold l1Line Core.setLine
  simp only
  split
  · simp only [Tab.get, find?_del_rising hx]
    split <;> rfl
  · simp only [Tab.get, Tab.find?_put]
    split <;> rfl
theorem setLine_rising {x : Core} (hx : Rising x.l1) (line : Nat) (l : L1Line) : Rising (Core.setLine x line l).l1 := by
  unfold Core.setLine; simp only; split
  · exact rising_del hx line
  · exact rising_put hx line l

/-! ### Taking one word back (R199, log 16) -/

@[simp] theorem cleared_owners (h : HomeLine) : (HomeLine.cleared h).owners = h.owners := by unfold HomeLine.cleared; split <;> rfl
@[simp] theorem cover_owners (h : HomeLine) (b : W128) : (HomeLine.cover h b).owners = h.owners := rfl
@[simp] theorem overtake_l1 (x : Core) (p : Nat → Bool) : (Core.overtake x p).l1 = x.l1 := rfl

/-- One word taken back changes memory and its errors, the homes and the L1s with their reads under way, and nothing else. -/
theorem revokeWord_frame (s : State) (line w : Nat) : revokeWord s line w =
    { s with mem := (revokeWord s line w).mem, badLines := (revokeWord s line w).badLines, homes := (revokeWord s line w).homes, regOrder := (revokeWord s line w).regOrder,
             cores := (revokeWord s line w).cores } := by
  unfold revokeWord
  simp only
  split
  · rfl
  · split
    · rw [setHomeLine_frame]
    · split <;> rw [setHomeLine_frame] <;> rfl

/-- Of a core it changes at most the lines of its L1, and which of its reads under way fill nothing. -/
theorem revokeWord_core (s : State) (line w c : Nat) : coreOf (revokeWord s line w) c =
    { coreOf s c with l1 := (coreOf (revokeWord s line w) c).l1, readsStale := (coreOf (revokeWord s line w) c).readsStale } := by
  unfold revokeWord
  simp only
  split
  · rfl
  · next o _ =>
    split
    · rw [coreOf_setHomeLine]
    · split
      · rw [coreOf_setHomeLine]
        by_cases e : c = o
        · subst e; rw [coreOf_setCore]; rfl
        · rw [coreOf_setCore_other _ _ e]; rfl
      · rw [coreOf_setHomeLine]

/-- A mask of one word. -/
theorem bit_one_shift {w v : Nat} (hw : w < 32) : bit ((1 : W32) <<< w) v = decide (v = w) := by
  by_cases hv : v < 32
  · have : ∀ w v : Fin 32, bit ((1 : W32) <<< w.val) v.val = decide (v.val = w.val) := by decide
    exact this ⟨w, hw⟩ ⟨v, hv⟩
  · have e : v ≠ w := by omega
    simp only [bit, e, decide_false]
    exact BitVec.getLsbD_of_ge _ _ (by omega)

/-- What an L1's line keeps of its owned words after one word has been given up. -/
theorem giveUp_owned (l : L1Line) {w : Nat} (hw : w < 32) (v : Nat) :
    bit (L1Line.giveUp l ((1 : W32) <<< w)).owned v = (bit l.owned v && decide (v ≠ w)) := by
  have := bit_one_shift (v := v) hw
  simp only [bit] at this ⊢
  by_cases hv : v < 32
  · simp only [L1Line.giveUp, BitVec.getLsbD_and, BitVec.getLsbD_not, this, hv, decide_true, Bool.true_and]
    cases BitVec.getLsbD l.owned v <;> simp
  · rw [BitVec.getLsbD_of_ge _ _ (by omega), BitVec.getLsbD_of_ge _ _ (by omega)]; rfl
theorem giveUp_dirty (l : L1Line) {w : Nat} (hw : w < 32) {i : Nat} (hi : i < 128) :
    bit (L1Line.giveUp l ((1 : W32) <<< w)).dirty i = (bit l.dirty i && !(bit l.owned w && decide (i / 4 = w))) := by
  have h1 : bit (l.owned &&& (1 : W32) <<< w) (i / 4) = (bit l.owned w && decide (i / 4 = w)) := by
    have := bit_one_shift (v := i / 4) hw
    simp only [bit] at this ⊢
    rw [BitVec.getLsbD_and, this]
    by_cases e : i / 4 = w
    · rw [e]
    · simp [e]
  have h2 := bit_wordsToBytes (l.owned &&& (1 : W32) <<< w) hi
  rw [h1] at h2
  simp only [bit] at h2 ⊢
  simp only [L1Line.giveUp, BitVec.getLsbD_and, BitVec.getLsbD_not, h2, hi, decide_true, Bool.true_and]
@[simp] theorem giveUp_content (l : L1Line) (m : W32) : (L1Line.giveUp l m).content = l.content := rfl

/-- A byte as its home would serve it, by the owner of its word. -/
theorem homeByte_of_owner {s : State} {j c : Nat} (h : ownerOf s (j / 128) (j % 128 / 4) = some c) :
    homeByte s j = if bit (l1Line (coreOf s c) (j / 128)).owned (j % 128 / 4) && bit (l1Line (coreOf s c) (j / 128)).dirty (j % 128)
      then lineByte (l1Line (coreOf s c) (j / 128)).content (j % 128) else readByte s.mem j := by
  have : ownerAt s j = some c := h
  unfold homeByte
  rw [this]
theorem homeByte_of_none {s : State} {j : Nat} (h : ownerOf s (j / 128) (j % 128 / 4) = none) : homeByte s j = readByte s.mem j := by
  have : ownerAt s j = none := h
  unfold homeByte
  rw [this]

/-- A word that its home can serve now: no core owns it, or one that holds it and has no write-back of it under way. -/
def WordCalm (s : State) (line w : Nat) : Prop :=
  ∀ c, ownerOf s line w = some c → c < 16 ∧ bit (l1Line (coreOf s c) line).owned w = true ∧ wbComing s c line w = false

/-- The word of a byte that its home need not wait for is one. -/
theorem wordCalm_of_free {s : State} {j : Nat} (h : homeBusyAt s j = false) : WordCalm s (j / 128) (j % 128 / 4) := by
  intro c hc
  have hc' : Tab.find? (homeLine s (j / 128)).owners (j % 128 / 4) = some c := hc
  unfold homeBusyAt at h
  simp only [hc', Bool.or_eq_false_iff, decide_eq_false_iff_not, Bool.not_eq_false'] at h
  exact ⟨by omega, h.2.1.2, h.2.2⟩

/-- ONE WORD TAKEN BACK: it has no owner; nothing else has changed in memory, or in what the homes serve; and where the home could serve it, memory
holds what it would have served. -/
theorem revokeWord_spec {s : State} (h : Ordered s) (line : Nat) {w : Nat} (hw : w < 32) :
    Ordered (revokeWord s line w) ∧
    (∀ l v, ownerOf (revokeWord s line w) l v = if l = line ∧ v = w then none else ownerOf s l v) ∧
    (∀ j, ¬ (j / 128 = line ∧ j % 128 / 4 = w) → readByte (revokeWord s line w).mem j = readByte s.mem j ∧
      homeByte (revokeWord s line w) j = homeByte s j) ∧
    (WordCalm s line w → ∀ j, j / 128 = line ∧ j % 128 / 4 = w → readByte (revokeWord s line w).mem j = homeByte s j) ∧
    ∀ l v, ¬ (l = line ∧ v = w) → WordCalm s l v → WordCalm (revokeWord s line w) l v := by
  cases ho : ownerOf s line w with
  | none =>
    have e : revokeWord s line w = s := by
      unfold revokeWord
      simp only [show Tab.find? (homeLine s line).owners w = none from ho]
    rw [e]
    refine ⟨h, fun l v => ?_, fun j _ => ⟨rfl, rfl⟩, fun _ j x => ?_, fun l v _ y => y⟩
    · split
      · next x => rw [x.1, x.2, ho]
      · rfl
    · rw [homeByte_of_none (by rw [x.1, x.2, ho])]
  | some c =>
    have hf : Tab.find? (homeLine s line).owners w = some c := ho
    have hod : Rising (Tab.del (homeLine s line).owners w) := rising_del (h.owners line) w
    by_cases hb : c < 16 ∧ bit (l1Line (coreOf s c) line).owned w = true ∧ wbComing s c line w = false
    · -- the owner holds the word
      obtain ⟨hc16, hbo, hbw⟩ := hb
      let b : W128 := (l1Line (coreOf s c) line).dirty &&& wordsToBytes ((1 : W32) <<< w)
      let u : State := mergeHome s line (l1Line (coreOf s c) line).content b
      let v := setCore u c (Core.overtake (Core.setLine (coreOf u c) line (L1Line.giveUp (l1Line (coreOf s c) line) ((1 : W32) <<< w))) (· == line))
      let g : HomeLine := HomeLine.cover { homeLine s line with owners := Tab.del (homeLine s line).owners w } b
      have e : revokeWord s line w = setHomeLine v line g := by
        unfold revokeWord
        simp only [hf, hbo, hbw, show ¬ 16 ≤ c from by omega, if_false, Bool.not_false, Bool.and_self, if_true]
        rfl
      have hg : g.owners = Tab.del (homeLine s line).owners w := rfl
      have hv : v.homes = s.homes := rfl
      have hown : ∀ l x, ownerOf (revokeWord s line w) l x = if l = line ∧ x = w then none else ownerOf s l x := by
        intro l x
        rw [e]
        unfold ownerOf
        rw [homeLine_setHomeLine (s := v) h.homes]
        by_cases el : l = line
        · subst el
          rw [if_pos rfl, hg, find?_del_rising (h.owners l)]
          simp
        · simp only [el, if_false, false_and]
          rfl
      have hmem : ∀ j, readByte (revokeWord s line w).mem j = if j / 128 = line ∧ j % 128 / 4 = w then homeByte s j else readByte s.mem j := by
        intro j
        have hm : (revokeWord s line w).mem = writeLine s.mem line (l1Line (coreOf s c) line).content b := by rw [e, setHomeLine_mem]; rfl
        have hj : j % 128 < 128 := Nat.mod_lt _ (by decide)
        rw [hm, readByte_writeLine _ _ _ h.mem]
        have hbit : bit ((l1Line (coreOf s c) line).dirty &&& wordsToBytes ((1 : W32) <<< w)) (j % 128) =
            (bit (l1Line (coreOf s c) line).dirty (j % 128) && decide (j % 128 / 4 = w)) := by
          have h2 := bit_wordsToBytes ((1 : W32) <<< w) hj
          have h1 := bit_one_shift (v := j % 128 / 4) hw
          simp only [bit] at h1 h2 ⊢
          rw [BitVec.getLsbD_and, h2, h1]
        rw [hbit]
        by_cases el : j / 128 = line
        · by_cases ew : j % 128 / 4 = w
          · rw [homeByte_of_owner (c := c) (by rw [el, ew, ho]), el, ew, hbo]
            simp
          · simp [ew]
        · simp [el]
      have hl1 : ∀ d l, l1Line (coreOf (revokeWord s line w) d) l = if d = c ∧ l = line then
          (if (L1Line.giveUp (l1Line (coreOf s c) line) ((1 : W32) <<< w)).owned = 0 ∧
              (L1Line.giveUp (l1Line (coreOf s c) line) ((1 : W32) <<< w)).clean = 0 then L1Line.empty
            else L1Line.giveUp (l1Line (coreOf s c) line) ((1 : W32) <<< w)) else l1Line (coreOf s d) l := by
        intro d l
        rw [e, coreOf_setHomeLine]
        by_cases ed : d = c
        · subst ed
          rw [coreOf_setCore]
          refine (l1Line_setLine (x := coreOf u d) (h.l1 d) line _ l).trans ?_
          simp only [true_and]
          rfl
        · rw [coreOf_setCore_other _ _ ed]
          simp only [ed, false_and, if_false]
          rfl
      have howned : ∀ d l x, ¬ (l = line ∧ x = w) → bit (l1Line (coreOf (revokeWord s line w) d) l).owned x =
          bit (l1Line (coreOf s d) l).owned x := by
        intro d l x hx
        rw [hl1]
        by_cases ed : d = c ∧ l = line
        · obtain ⟨rfl, rfl⟩ := ed
          have ew : x ≠ w := fun y => hx ⟨rfl, y⟩
          have ho1 := giveUp_owned (l1Line (coreOf s d) l) hw x
          simp only [ew, ne_eq, not_false_eq_true, decide_true, Bool.and_true] at ho1
          rw [if_pos ⟨rfl, rfl⟩]
          split
          · next z => rw [← ho1, z.1]; simp [L1Line.empty, bit]
          · exact ho1
        · rw [if_neg ed]
      refine ⟨⟨?_, ?_, ?_, ?_⟩, hown, fun j ej => ⟨by rw [hmem, if_neg ej], ?_⟩, fun _ j x => by rw [hmem, if_pos x], ?_⟩
      · have hwl := writeLine_wf line (l1Line (coreOf s c) line).content b h.mem
        rw [e, setHomeLine_mem]
        simp only [v, setCore_mem, u]
        exact hwl
      · rw [e]
        exact setHomeLine_rising (s := v) h.homes _ _
      · intro l
        rw [e, homeLine_setHomeLine (s := v) h.homes]
        split
        · exact hg ▸ hod
        · exact h.owners l
      · intro d
        rw [e, coreOf_setHomeLine]
        by_cases ed : d = c
        · subst ed
          rw [coreOf_setCore]
          exact setLine_rising (x := coreOf u d) (h.l1 d) _ _
        · rw [coreOf_setCore_other _ _ ed]
          exact h.l1 d
      · have hj : j % 128 < 128 := Nat.mod_lt _ (by decide)
        have hr : readByte (revokeWord s line w).mem j = readByte s.mem j := by rw [hmem, if_neg ej]
        cases hoj : ownerOf s (j / 128) (j % 128 / 4) with
        | none => rw [homeByte_of_none (by rw [hown, if_neg ej, hoj]), homeByte_of_none hoj, hr]
        | some d =>
          rw [homeByte_of_owner (c := d) (by rw [hown, if_neg ej, hoj]), homeByte_of_owner hoj, hr, howned d _ _ ej]
          by_cases ed : d = c ∧ j / 128 = line
          · obtain ⟨rfl, el⟩ := ed
            have ew : j % 128 / 4 ≠ w := fun x => ej ⟨el, x⟩
            have hx := hl1 d line
            simp only [and_self, if_true] at hx
            have ho1 : bit (L1Line.giveUp (l1Line (coreOf s d) line) ((1 : W32) <<< w)).owned (j % 128 / 4) =
                bit (l1Line (coreOf s d) line).owned (j % 128 / 4) := by rw [giveUp_owned _ hw]; simp [ew]
            have hd1 : bit (L1Line.giveUp (l1Line (coreOf s d) line) ((1 : W32) <<< w)).dirty (j % 128) =
                bit (l1Line (coreOf s d) line).dirty (j % 128) := by rw [giveUp_dirty _ hw hj]; simp [ew]
            rw [el, hx]
            by_cases z : (L1Line.giveUp (l1Line (coreOf s d) line) ((1 : W32) <<< w)).owned = 0 ∧
                (L1Line.giveUp (l1Line (coreOf s d) line) ((1 : W32) <<< w)).clean = 0
            · have : bit (l1Line (coreOf s d) line).owned (j % 128 / 4) = false := by rw [← ho1, z.1]; simp [bit]
              rw [this]
              simp
            · rw [if_neg z, hd1, giveUp_content]
          · rw [hl1, if_neg ed]
      · intro l x hx hc d hd
        rw [hown, if_neg hx] at hd
        obtain ⟨h1, h2, h3⟩ := hc d hd
        refine ⟨h1, by rw [howned d l x hx, h2], ?_⟩
        have : (revokeWord s line w).agenda = s.agenda := by rw [revokeWord_frame]
        unfold wbComing at h3 ⊢
        rw [this, h3]
    · -- it belongs to the host, or its write-back is under way
      have ⟨g, hg, e⟩ : ∃ g : HomeLine, g.owners = Tab.del (homeLine s line).owners w ∧ revokeWord s line w = setHomeLine s line g := by
        unfold revokeWord
        simp only [hf]
        by_cases h16 : 16 ≤ c
        · rw [if_pos h16]
          exact ⟨_, cleared_owners _, rfl⟩
        · rw [if_neg h16]
          have : (bit (l1Line (coreOf s c) line).owned w && !wbComing s c line w) = false := by
            cases h1 : bit (l1Line (coreOf s c) line).owned w <;> cases h2 : wbComing s c line w <;> simp_all
          rw [this]
          exact ⟨_, rfl, rfl⟩
      have hown : ∀ l x, ownerOf (revokeWord s line w) l x = if l = line ∧ x = w then none else ownerOf s l x := by
        intro l x
        rw [e]
        unfold ownerOf
        rw [homeLine_setHomeLine h.homes]
        by_cases el : l = line
        · subst el
          rw [if_pos rfl, hg, find?_del_rising (h.owners l)]
          simp
        · simp [el]
      have hm : (revokeWord s line w).mem = s.mem := by rw [e, setHomeLine_mem]
      have hc : ∀ d, coreOf (revokeWord s line w) d = coreOf s d := fun d => by rw [e, coreOf_setHomeLine]
      refine ⟨⟨hm ▸ h.mem, ?_, ?_, fun d => hc d ▸ h.l1 d⟩, hown, fun j ej => ⟨by rw [hm], ?_⟩, fun hcalm => absurd (hcalm c ho) hb, ?_⟩
      · rw [e]; exact setHomeLine_rising h.homes _ _
      · intro l
        rw [e, homeLine_setHomeLine h.homes]
        split
        · exact hg ▸ hod
        · exact h.owners l
      · cases hoj : ownerOf s (j / 128) (j % 128 / 4) with
        | none => rw [homeByte_of_none (by rw [hown, if_neg ej, hoj]), homeByte_of_none hoj, hm]
        | some d => rw [homeByte_of_owner (c := d) (by rw [hown, if_neg ej, hoj]), homeByte_of_owner hoj, hm, hc]
      · intro l x hx hcalm d hd
        rw [hown, if_neg hx] at hd
        have : (revokeWord s line w).agenda = s.agenda := by rw [revokeWord_frame]
        unfold wbComing
        rw [hc, this]
        exact hcalm d hd

/-! ### Taking the words of a mask back -/

/-- THE WORDS OF A MASK TAKEN BACK: none has an owner; nothing else has changed in memory or in what the homes serve; and where the home could serve
a word, memory holds what it would have served. -/
theorem revokeWords_spec {s : State} (h : Ordered s) (line : Nat) (mask : W32) :
    Ordered (revokeWords s line mask) ∧
    (∀ l v, ownerOf (revokeWords s line mask) l v = if l = line ∧ bit mask v = true then none else ownerOf s l v) ∧
    (∀ j, ¬ (j / 128 = line ∧ bit mask (j % 128 / 4) = true) → readByte (revokeWords s line mask).mem j = readByte s.mem j ∧
      homeByte (revokeWords s line mask) j = homeByte s j) ∧
    (∀ j, j / 128 = line → bit mask (j % 128 / 4) = true → WordCalm s line (j % 128 / 4) →
      readByte (revokeWords s line mask).mem j = homeByte s j) ∧
    ∀ l v, ¬ (l = line ∧ bit mask v = true) → WordCalm s l v → WordCalm (revokeWords s line mask) l v := by
  have key : ∀ (ws : List Nat) (u : State), Ordered u → ws.Nodup → (∀ w ∈ ws, w < 32) →
      let t := ws.foldl (fun s w => if bit mask w then revokeWord s line w else s) u
      let taken (l v : Nat) : Prop := l = line ∧ v ∈ ws ∧ bit mask v = true
      Ordered t ∧
      (∀ l v, ownerOf t l v = if l = line ∧ v ∈ ws ∧ bit mask v = true then none else ownerOf u l v) ∧
      (∀ j, ¬ taken (j / 128) (j % 128 / 4) → readByte t.mem j = readByte u.mem j ∧ homeByte t j = homeByte u j) ∧
      (∀ j, taken (j / 128) (j % 128 / 4) → WordCalm u line (j % 128 / 4) → readByte t.mem j = homeByte u j) ∧
      ∀ l v, ¬ taken l v → WordCalm u l v → WordCalm t l v := by
    intro ws
    induction ws with
    | nil => intro u hu _ _; simp [hu]
    | cons w r ih =>
      intro u hu hn hws
      have hw : w < 32 := hws w List.mem_cons_self
      have hr : ∀ v ∈ r, v < 32 := fun v hv => hws v (List.mem_cons_of_mem _ hv)
      obtain ⟨hnw, hnr⟩ := List.nodup_cons.1 hn
      by_cases b : bit mask w = true
      · obtain ⟨o1, o2, o3, o4, o5⟩ := revokeWord_spec hu line hw
        obtain ⟨i1, i2, i3, i4, i5⟩ := ih (revokeWord u line w) o1 hnr hr
        simp only [List.foldl_cons, b, if_true]
        refine ⟨i1, fun l v => ?_, fun j hj => ?_, fun j hj hc => ?_, fun l v hv hc => ?_⟩
        · rw [i2, o2]
          by_cases e : v = w
          · subst e; by_cases el : l = line <;> simp [el, b]
          · simp [e]
        · have h1 : ¬ (j / 128 = line ∧ j % 128 / 4 = w) := fun x => hj ⟨x.1, by simp [x.2], by rw [x.2, b]⟩
          have h2 := i3 j (fun x => hj ⟨x.1, List.mem_cons_of_mem _ x.2.1, x.2.2⟩)
          exact ⟨h2.1.trans (o3 j h1).1, h2.2.trans (o3 j h1).2⟩
        · by_cases e : j % 128 / 4 = w
          · have h2 := i3 j (fun x => hnw (e ▸ x.2.1))
            exact h2.1.trans (o4 (e ▸ hc) j ⟨hj.1, e⟩)
          · have h1 : ¬ (line = line ∧ j % 128 / 4 = w) := fun x => e x.2
            have hm : j % 128 / 4 ∈ r := (List.mem_cons.1 hj.2.1).resolve_left e
            exact (i4 j ⟨hj.1, hm, hj.2.2⟩ (o5 line _ h1 hc)).trans (o3 j (fun x => e x.2)).2
        · refine i5 l v (fun x => hv ⟨x.1, List.mem_cons_of_mem _ x.2.1, x.2.2⟩) (o5 l v (fun x => hv ⟨x.1, by simp [x.2], by rw [x.2, b]⟩) hc)
      · obtain ⟨i1, i2, i3, i4, i5⟩ := ih u hu hnr hr
        simp only [List.foldl_cons, b, Bool.false_eq_true, if_false]
        have drop : ∀ {v}, v ∈ w :: r → bit mask v = true → v ∈ r := fun {v} hm hb =>
          (List.mem_cons.1 hm).resolve_left (fun e => b (e ▸ hb))
        refine ⟨i1, fun l v => ?_, fun j hj => i3 j (fun x => hj ⟨x.1, List.mem_cons_of_mem _ x.2.1, x.2.2⟩),
          fun j hj hc => i4 j ⟨hj.1, drop hj.2.1 hj.2.2, hj.2.2⟩ hc,
          fun l v hv hc => i5 l v (fun x => hv ⟨x.1, List.mem_cons_of_mem _ x.2.1, x.2.2⟩) hc⟩
        rw [i2]
        by_cases e : v = w
        · subst e; simp [b]
        · simp [e]
  obtain ⟨k1, k2, k3, k4, k5⟩ := key (List.range 32) s h List.nodup_range (fun w hw => List.mem_range.1 hw)
  have full : ∀ {v}, bit mask v = true → v ∈ List.range 32 := by
    intro v hb
    by_cases hv : v < 32
    · exact List.mem_range.2 hv
    · rw [show bit mask v = false from BitVec.getLsbD_of_ge _ _ (by omega)] at hb
      exact absurd hb (by decide)
  refine ⟨k1, fun l v => (k2 l v).trans ?_, fun j hj => k3 j (fun x => hj ⟨x.1, x.2.2⟩), fun j hl hb hc => k4 j ⟨hl, full hb, hb⟩ hc,
    fun l v hv hc => k5 l v (fun x => hv ⟨x.1, x.2.2⟩) hc⟩
  by_cases hb : bit mask v = true
  · simp [hb, full hb]
  · simp [hb]

/-- The words of a mask taken back change memory and its errors, the homes and the L1s, and nothing else. -/
theorem revokeWords_frame (s : State) (line : Nat) (mask : W32) : revokeWords s line mask =
    { s with mem := (revokeWords s line mask).mem, badLines := (revokeWords s line mask).badLines, homes := (revokeWords s line mask).homes,
             regOrder := (revokeWords s line mask).regOrder, cores := (revokeWords s line mask).cores } := by
  have key : ∀ (ws : List Nat) (u : State),
      let t := ws.foldl (fun s w => if bit mask w then revokeWord s line w else s) u
      t = { u with mem := t.mem, badLines := t.badLines, homes := t.homes, regOrder := t.regOrder, cores := t.cores } := by
    intro ws
    induction ws with
    | nil => intro u; rfl
    | cons w r ih =>
      intro u
      simp only [List.foldl_cons]
      split
      · refine (ih _).trans ?_
        rw [revokeWord_frame]
      · exact ih u
  exact key _ s

/-- Of a core they change at most the lines of its L1, and which of its reads under way fill nothing. -/
theorem revokeWords_core (s : State) (line : Nat) (mask : W32) (c : Nat) :
    coreOf (revokeWords s line mask) c =
      { coreOf s c with l1 := (coreOf (revokeWords s line mask) c).l1, readsStale := (coreOf (revokeWords s line mask) c).readsStale } := by
  have key : ∀ (ws : List Nat) (u : State),
      let t := ws.foldl (fun s w => if bit mask w then revokeWord s line w else s) u
      coreOf t c = { coreOf u c with l1 := (coreOf t c).l1, readsStale := (coreOf t c).readsStale } := by
    intro ws
    induction ws with
    | nil => intro u; rfl
    | cons w r ih =>
      intro u
      simp only [List.foldl_cons]
      split
      · refine (ih _).trans ?_
        rw [revokeWord_core]
      · exact ih u
  exact key _ s

/-! ### A write performed at its home -/

/-- The words of a line that some bytes touch. -/
theorem bit_wordsIn (line pa n w : Nat) :
    bit (wordsIn line pa n) w = decide (w < 32 ∧ 0 < n ∧ pa < 128 * line + 4 * w + 4 ∧ 128 * line + 4 * w < pa + n) := by
  by_cases h : w < 32
  · unfold wordsIn
    rw [bit_wordsOf _ _ h, Bool.eq_iff_iff]
    simp only [Bool.and_eq_true, decide_eq_true_eq]
    omega
  · rw [show bit (wordsIn line pa n) w = false from BitVec.getLsbD_of_ge _ _ (by omega)]
    simp [h]

/-- A line with a touched word is one of the lines touched. -/
theorem mem_linesOf {line pa n w : Nat} (h : bit (wordsIn line pa n) w = true) : line ∈ linesOf pa n := by
  rw [bit_wordsIn, decide_eq_true_eq] at h
  unfold linesOf
  rw [if_neg (by omega)]
  exact List.mem_map.2 ⟨line - pa / 128, List.mem_range.2 (by omega), by omega⟩

/-- What a byte's home serves rests on the homes, the L1s and that byte of memory. -/
theorem homeByte_congr {s t : State} (j : Nat) (hh : t.homes = s.homes) (hc : t.cores = s.cores)
    (hm : readByte t.mem j = readByte s.mem j) : homeByte t j = homeByte s j := by
  have h1 : ownerAt t j = ownerAt s j := by unfold ownerAt homeLine; rw [hh]
  have h2 : ∀ c, coreOf t c = coreOf s c := fun c => by unfold coreOf; rw [hc]
  unfold homeByte
  rw [h1]
  simp only [h2, hm]

/-- A waiter's wake and the queue monitor change tasks and the global scheduler's records, and nothing else. -/
theorem lineTouched_frame (s : State) (line : Nat) :
    lineTouched s line = { s with sites := (lineTouched s line).sites, glob := (lineTouched s line).glob } := by
  have key : ∀ (qs : List Nat) (u : State), ∃ g, qs.foldl stampQueue u = { u with glob := g } := by
    intro qs
    induction qs with
    | nil => intro u; exact ⟨u.glob, rfl⟩
    | cons q r ih =>
      intro u
      obtain ⟨x, hx⟩ : ∃ x, stampQueue u q = { u with glob := x } := by unfold stampQueue; exact ⟨_, rfl⟩
      rw [List.foldl_cons, hx]
      exact ih _
  have out : ∃ a g, lineTouched s line = { s with sites := a, glob := g } := by
    obtain ⟨g, hg⟩ := key (queuesOfLine (wakeWaita s line) line) (wakeWaita s line)
    unfold lineTouched
    simp only
    rw [hg]
    generalize (queuesOfLine (wakeWaita s line) line) = qs
    unfold setEvents wakeWaita
    split
    · exact ⟨_, _, rfl⟩
    · exact ⟨_, _, rfl⟩
  obtain ⟨a, g, e⟩ := out
  rw [e]

/-- So for several lines. -/
theorem linesTouched_frame (ls : List Nat) (s : State) :
    ls.foldl lineTouched s = { s with sites := (ls.foldl lineTouched s).sites, glob := (ls.foldl lineTouched s).glob } := by
  induction ls generalizing s with
  | nil => rfl
  | cons l r ih =>
    rw [List.foldl_cons]
    refine (ih _).trans ?_
    rw [lineTouched_frame]

/-- The first half of a write at its home: the words that it touches are taken back. -/
def takeForWrite (pa n : Nat) (s : State) : State := (linesOf pa n).foldl (fun s l => revokeWords s l (wordsIn l pa n)) s

/-- The second half begins so: write-backs still to come of the lines do not undo the write. -/
def coverForWrite (pa n : Nat) (ls : List Nat) (s : State) : State :=
  ls.foldl (fun s l => if (homeLine s l).revoking.isEmpty then s else setHomeLine s l (HomeLine.cover (homeLine s l) (bytesIn l pa n))) s

theorem homeWrite_eq (s : State) (pa : Nat) (bs : List Byte) :
    homeWrite s pa bs =
      let u := coverForWrite pa bs.length (linesOf pa bs.length) (takeForWrite pa bs.length s)
      (linesOf pa bs.length).foldl lineTouched
        { u with mem := writeBytes u.mem pa bs,
                 badLines := (linesOf pa bs.length).foldl (fun t l => struck t l (bytesIn l pa bs.length)) u.badLines } := rfl

/-- The words that a write touches, taken back: none has an owner, nothing else has changed, and where their homes could serve them memory holds what
they would have served. -/
theorem takeForWrite_spec {s : State} (h : Ordered s) (pa n : Nat) :
    let t := takeForWrite pa n s
    Ordered t ∧
    (∀ l v, ownerOf t l v = if bit (wordsIn l pa n) v = true then none else ownerOf s l v) ∧
    (∀ j, bit (wordsIn (j / 128) pa n) (j % 128 / 4) = false → readByte t.mem j = readByte s.mem j ∧ homeByte t j = homeByte s j) ∧
    ∀ j, bit (wordsIn (j / 128) pa n) (j % 128 / 4) = true → WordCalm s (j / 128) (j % 128 / 4) → readByte t.mem j = homeByte s j := by
  have key : ∀ (ls : List Nat) (u : State), Ordered u → ls.Nodup →
      let t := ls.foldl (fun s l => revokeWords s l (wordsIn l pa n)) u
      let taken (l v : Nat) : Prop := l ∈ ls ∧ bit (wordsIn l pa n) v = true
      Ordered t ∧
      (∀ l v, ownerOf t l v = if l ∈ ls ∧ bit (wordsIn l pa n) v = true then none else ownerOf u l v) ∧
      (∀ j, ¬ taken (j / 128) (j % 128 / 4) → readByte t.mem j = readByte u.mem j ∧ homeByte t j = homeByte u j) ∧
      ∀ j, taken (j / 128) (j % 128 / 4) → WordCalm u (j / 128) (j % 128 / 4) → readByte t.mem j = homeByte u j := by
    intro ls
    induction ls with
    | nil => intro u hu _; simp [hu]
    | cons a r ih =>
      intro u hu hn
      obtain ⟨hna, hnr⟩ := List.nodup_cons.1 hn
      obtain ⟨o1, o2, o3, o4, o5⟩ := revokeWords_spec hu a (wordsIn a pa n)
      obtain ⟨i1, i2, i3, i4⟩ := ih _ o1 hnr
      simp only [List.foldl_cons]
      refine ⟨i1, fun l v => ?_, fun j hj => ?_, fun j hj hc => ?_⟩
      · rw [i2, o2]
        by_cases e : l = a
        · subst e; by_cases b : bit (wordsIn l pa n) v = true <;> simp [b]
        · simp [e]
      · have h1 := o3 j (fun x => hj ⟨by simp [x.1], x.1 ▸ x.2⟩)
        have h2 := i3 j (fun x => hj ⟨List.mem_cons_of_mem _ x.1, x.2⟩)
        exact ⟨h2.1.trans h1.1, h2.2.trans h1.2⟩
      · by_cases e : j / 128 = a
        · have h2 := i3 j (fun x => hna (e ▸ x.1))
          exact h2.1.trans (o4 j e (e ▸ hj.2) (e ▸ hc))
        · have hm : j / 128 ∈ r := (List.mem_cons.1 hj.1).resolve_left e
          exact (i4 j ⟨hm, hj.2⟩ (o5 _ _ (fun x => e x.1) hc)).trans (o3 j (fun x => e x.1)).2
  have nd : (linesOf pa n).Nodup := by
    unfold linesOf
    split
    · exact List.nodup_nil
    · exact List.pairwise_map.2 (List.Pairwise.imp (fun x => by omega) List.nodup_range)
  obtain ⟨k1, k2, k3, k4⟩ := key (linesOf pa n) s h nd
  refine ⟨k1, fun l v => (k2 l v).trans ?_, fun j hj => k3 j (fun x => by simp [hj] at x), fun j hj hc => k4 j ⟨mem_linesOf hj, hj⟩ hc⟩
  by_cases b : bit (wordsIn l pa n) v = true
  · rw [if_pos b, if_pos ⟨mem_linesOf b, b⟩]
  · rw [if_neg b, if_neg (fun c => b c.2)]

/-- The covering changes no owner, no byte and no L1. -/
theorem coverForWrite_spec (pa n : Nat) (ls : List Nat) {s : State} (h : Rising s.homes) :
    let t := coverForWrite pa n ls s
    Rising t.homes ∧ (∀ l, (homeLine t l).owners = (homeLine s l).owners) ∧ t.mem = s.mem ∧ t.cores = s.cores := by
  unfold coverForWrite
  induction ls generalizing s with
  | nil => exact ⟨h, fun _ => rfl, rfl, rfl⟩
  | cons a r ih =>
    rw [List.foldl_cons]
    split
    · exact ih h
    · obtain ⟨i1, i2, i3, i4⟩ := ih (setHomeLine_rising h a (HomeLine.cover (homeLine s a) (bytesIn a pa n)))
      refine ⟨i1, fun l => (i2 l).trans ?_, i3.trans (setHomeLine_mem _ _ _), i4.trans (setHomeLine_cores _ _ _)⟩
      rw [homeLine_setHomeLine h]
      split
      · next e => rw [e, cover_owners]
      · rfl

/-- A write at its home (R199, R212): the bytes are written; no byte of another word changes, nor what its home serves; the other bytes of the words
touched are as their homes served them, where these could serve them; the words touched have no owner any more, and every other word keeps its owner. -/
theorem homeWrite_spec {s : State} (h : Ordered s) (pa : Nat) (bs : List Byte) :
    let t := homeWrite s pa bs
    let touched (j : Nat) : Bool := bit (wordsIn (j / 128) pa bs.length) (j % 128 / 4)
    Ordered t ∧
    (∀ l v, ownerOf t l v = if bit (wordsIn l pa bs.length) v = true then none else ownerOf s l v) ∧
    (∀ j, pa ≤ j → j < pa + bs.length → readByte t.mem j = (bs)[j - pa]?.getD 0 ∧ homeByte t j = (bs)[j - pa]?.getD 0) ∧
    (∀ j, touched j = false → readByte t.mem j = readByte s.mem j ∧ homeByte t j = homeByte s j) ∧
    ∀ j, j < pa ∨ pa + bs.length ≤ j → touched j = true → WordCalm s (j / 128) (j % 128 / 4) →
      readByte t.mem j = homeByte s j ∧ homeByte t j = homeByte s j := by
  obtain ⟨t1, t2, t3, t4⟩ := takeForWrite_spec h pa bs.length
  obtain ⟨c1, c2, c3, c4⟩ := coverForWrite_spec pa bs.length (linesOf pa bs.length) t1.homes
  rw [homeWrite_eq]
  simp only at t1 t2 t3 t4 c1 c2 c3 c4 ⊢
  generalize takeForWrite pa bs.length s = u at t1 t2 t3 t4 c1 c2 c3 c4
  generalize coverForWrite pa bs.length (linesOf pa bs.length) u = v at c1 c2 c3 c4
  rw [linesTouched_frame]
  simp only
  have hcore : ∀ c, coreOf v c = coreOf u c := fun c => by unfold coreOf; rw [c4]
  have ow : ∀ l w, ownerOf v l w = if bit (wordsIn l pa bs.length) w = true then none else ownerOf s l w := fun l w => by
    refine Eq.trans ?_ (t2 l w); unfold ownerOf; rw [c2]
  have hb : ∀ j, homeByte v j = homeByte u j := fun j => by
    unfold homeByte ownerAt
    rw [c2, c3]
    simp only [hcore]
  have hw : ∀ j, readByte (writeBytes v.mem pa bs) j = if pa ≤ j ∧ j < pa + bs.length then (bs)[j - pa]?.getD 0 else readByte u.mem j := by
    intro j
    rw [c3]
    split
    · next x =>
      have hi : j - pa < bs.length := by omega
      have := readByte_writeBytes_same (a := pa) t1.mem hi
      rw [show pa + (j - pa) = j by omega] at this
      rw [this, List.getElem?_eq_getElem hi]
      rfl
    · exact readByte_writeBytes_other t1.mem (by omega)
  have inner : ∀ j, pa ≤ j → j < pa + bs.length → bit (wordsIn (j / 128) pa bs.length) (j % 128 / 4) = true := by
    intro j h1 h2
    rw [bit_wordsIn, decide_eq_true_eq]; omega
  have free : ∀ {j}, bit (wordsIn (j / 128) pa bs.length) (j % 128 / 4) = true → ownerOf v (j / 128) (j % 128 / 4) = none := by
    intro j x
    rw [ow, if_pos x]
  refine ⟨⟨writeBytes_wf pa bs (c3 ▸ t1.mem), c1, fun l => ?_, fun c => ?_⟩, ow, fun j h1 h2 => ⟨?_, ?_⟩, fun j ht => ⟨?_, ?_⟩,
    fun j ho ht hc => ⟨?_, ?_⟩⟩
  · exact (c2 l) ▸ t1.owners l
  · exact (hcore c) ▸ t1.l1 c
  · exact (hw j).trans (if_pos ⟨h1, h2⟩)
  · refine (homeByte_of_none ?_).trans ((hw j).trans (if_pos ⟨h1, h2⟩))
    exact free (inner j h1 h2)
  · have hn : ¬ (pa ≤ j ∧ j < pa + bs.length) := fun x => by rw [inner j x.1 x.2] at ht; exact absurd ht (by decide)
    exact (hw j).trans ((if_neg hn).trans (t3 j ht).1)
  · have hn : ¬ (pa ≤ j ∧ j < pa + bs.length) := fun x => by rw [inner j x.1 x.2] at ht; exact absurd ht (by decide)
    refine Eq.trans ?_ ((hb j).trans (t3 j ht).2)
    refine homeByte_congr j rfl rfl ((hw j).trans ((if_neg hn).trans ?_))
    rw [c3]
  · exact (hw j).trans ((if_neg (by omega)).trans (t4 j ht hc))
  · refine (homeByte_of_none ?_).trans ((hw j).trans ((if_neg (by omega)).trans (t4 j ht hc)))
    exact free ht

/-- It changes memory and its errors, the homes and the L1s, tasks that wait for a line and the queue monitor, and nothing else. -/
theorem homeWrite_frame (s : State) (pa : Nat) (bs : List Byte) : homeWrite s pa bs =
    { s with mem := (homeWrite s pa bs).mem, badLines := (homeWrite s pa bs).badLines, homes := (homeWrite s pa bs).homes, regOrder := (homeWrite s pa bs).regOrder,
             cores := (homeWrite s pa bs).cores, sites := (homeWrite s pa bs).sites, glob := (homeWrite s pa bs).glob } := by
  have take : ∀ (ls : List Nat) (u : State),
      let t := ls.foldl (fun s l => revokeWords s l (wordsIn l pa bs.length)) u
      t = { u with mem := t.mem, badLines := t.badLines, homes := t.homes, regOrder := t.regOrder, cores := t.cores } := by
    intro ls
    induction ls with
    | nil => intro u; rfl
    | cons l r ih =>
      intro u
      rw [List.foldl_cons]
      refine (ih _).trans ?_
      rw [revokeWords_frame]
  have cover : ∀ (ls : List Nat) (u : State),
      coverForWrite pa bs.length ls u = { u with homes := (coverForWrite pa bs.length ls u).homes,
                                                 regOrder := (coverForWrite pa bs.length ls u).regOrder } := by
    intro ls
    unfold coverForWrite
    induction ls with
    | nil => intro u; rfl
    | cons l r ih =>
      intro u
      rw [List.foldl_cons]
      refine (ih _).trans ?_
      split
      · rfl
      · rw [setHomeLine_frame]
  rw [homeWrite_eq]
  simp only
  rw [linesTouched_frame, cover]
  unfold takeForWrite
  rw [take]

end Sys2Proof.Machine
end

