-- ==== Sys2Proof/Laws/Retire.lean ====
section
/-! SUPPORT. What the shared operations of a retiring instruction can do: consuming tokens, writing a destination, and retiring. -/

namespace Sys2Proof.Safety

open Sys2Proof.Machine

/-! ### Nothing elsewhere changes -/

theorem curSite_of_cur {s t : State} (h : t.cur = s.cur) : curSite t = curSite s := by simp [curSite, h]

theorem Elsewhere.refl (s : State) : Elsewhere s s where
  cur := rfl
  clock := rfl
  time := rfl
  memory _ := rfl
  homes := rfl
  regOrder := rfl
  badLines := rfl
  refusals := rfl
  reads := rfl
  nextReq := rfl
  dies := rfl
  launches := rfl
  dbg := rfl
  glob := rfl
  cores _ := rfl
  sites _ := rfl
  otherSites _ _ := rfl
  otherTasks _ _ := rfl
  otherStreams _ _ := rfl
  task _ _ := rfl

theorem Elsewhere.trans {s t u : State} (h : Elsewhere s t) (g : Elsewhere t u) : Elsewhere s u where
  cur := g.cur.trans h.cur
  clock := g.clock.trans h.clock
  time := g.time.trans h.time
  memory a := (g.memory a).trans (h.memory a)
  homes := g.homes.trans h.homes
  regOrder := g.regOrder.trans h.regOrder
  badLines := g.badLines.trans h.badLines
  refusals := g.refusals.trans h.refusals
  reads := g.reads.trans h.reads
  nextReq := g.nextReq.trans h.nextReq
  dies := g.dies.trans h.dies
  launches := g.launches.trans h.launches
  dbg := g.dbg.trans h.dbg
  glob := g.glob.trans h.glob
  cores c := (g.cores c).trans (h.cores c)
  sites k := (g.sites k).trans (h.sites k)
  otherSites k hk := (g.otherSites k (by rwa [curSite_of_cur h.cur])).trans (h.otherSites k hk)
  otherTasks k hk := (g.otherTasks k (by rwa [h.cur])).trans (h.otherTasks k hk)
  otherStreams a ha := (g.otherStreams a (by rwa [h.cur])).trans (h.otherStreams a ha)
  task k hk := (g.task k (by rwa [h.cur])).trans (h.task k hk)

/-- The agenda has no part in it. -/
theorem Elsewhere.push (s : State) (e : Instr) : Elsewhere s (push s e) where
  cur := rfl
  clock := rfl
  time := rfl
  memory _ := rfl
  homes := rfl
  regOrder := rfl
  badLines := rfl
  refusals := rfl
  reads := rfl
  nextReq := rfl
  dies := rfl
  launches := rfl
  dbg := rfl
  glob := rfl
  cores _ := rfl
  sites _ := rfl
  otherSites _ _ := rfl
  otherTasks _ _ := rfl
  otherStreams a _ := by cases a <;> rfl
  task _ _ := rfl

theorem siteRest_setTask (x : Site) (n : Nat) (t : Task) : siteRest (Site.setTask x n t) = siteRest x := rfl

/-- A replaced stream of the executing agent changes nothing elsewhere. -/
theorem Elsewhere.withThread (s : State) (x : Thread) : Elsewhere s (withThread s x) := by
  unfold Machine.withThread
  cases hc : s.cur with
  | task k =>
    refine { cur := ?_, clock := rfl, time := rfl, memory := fun _ => rfl, homes := rfl, badLines := rfl, regOrder := rfl, refusals := rfl,
             reads := rfl, nextReq := rfl, dies := rfl, launches := rfl, dbg := rfl, glob := rfl, cores := fun _ => rfl,
             sites := ?_, otherSites := ?_, otherTasks := ?_, otherStreams := ?_, task := ?_ }
    · simp [hc]
    · intro k'
      by_cases e : siteKeyNat k' = siteKeyNat (TaskKey.siteKey k)
      · rw [siteOf_congr _ e, siteOf_congr s e]; simp [setThread, setTask, siteRest_setTask]
      · simp [setThread, setTask, siteOf_setSite_other _ _ e]
    · intro k' h
      have e := h (TaskKey.siteKey k) (by simp [curSite, hc])
      simp [setThread, setTask, siteOf_setSite_other _ _ e]
    · intro k' h
      rw [hc] at h
      simp only [setThread]; exact taskOf_setTask_other s _ h
    · intro a h; rw [hc] at h; exact threadOf_setThread_apart s x h
    · intro k' h; rw [hc] at h; cases h; simp [setThread, taskRest]
  | leaf c =>
    refine { cur := ?_, clock := rfl, time := rfl, memory := fun _ => rfl, homes := rfl, badLines := rfl, regOrder := rfl, refusals := rfl,
             reads := rfl, nextReq := rfl, dies := rfl, launches := rfl, dbg := rfl, glob := rfl, cores := ?_,
             sites := fun _ => rfl, otherSites := fun _ _ => rfl, otherTasks := fun _ _ => rfl, otherStreams := ?_,
             task := fun _ _ => rfl }
    · simp [hc]
    · intro c'
      by_cases e : c' = c
      · subst e; simp [setThread, coreRest]
      · simp [setThread, coreOf_setCore_other s _ e]
    · intro a h; rw [hc] at h; exact threadOf_setThread_apart s x h
  | global =>
    refine { cur := ?_, clock := rfl, time := rfl, memory := fun _ => rfl, homes := rfl, badLines := rfl, regOrder := rfl, refusals := rfl,
             reads := rfl, nextReq := rfl, dies := rfl, launches := rfl, dbg := rfl, glob := rfl, cores := fun _ => rfl,
             sites := fun _ => rfl, otherSites := fun _ _ => rfl, otherTasks := fun _ _ => rfl, otherStreams := ?_,
             task := fun _ _ => rfl }
    · simp [hc]
    · intro a h; rw [hc] at h; exact threadOf_setThread_apart s x h

/-- A change of the channels of the executing agent's site changes nothing elsewhere. -/
theorem Elsewhere.setSite {s : State} {k : TaskKey} (hc : s.cur = .task k) (x : Site)
    (hr : siteRest x = siteRest (siteOf s (TaskKey.siteKey k))) (ht : x.tasks = (siteOf s (TaskKey.siteKey k)).tasks) :
    Elsewhere s (setSite s (TaskKey.siteKey k) x) := by
  have tasks : ∀ k', taskOf (Machine.setSite s (TaskKey.siteKey k) x) k' = taskOf s k' := by
    intro k'
    by_cases e : siteKeyNat (TaskKey.siteKey k') = siteKeyNat (TaskKey.siteKey k)
    · simp only [taskOf]; rw [siteOf_congr _ e, siteOf_congr s e, siteOf_setSite, ht]
    · simp only [taskOf, siteOf_setSite_other _ _ e]
  refine { cur := rfl, clock := rfl, time := rfl, memory := fun _ => rfl, homes := rfl, badLines := rfl, regOrder := rfl, refusals := rfl,
           reads := rfl, nextReq := rfl, dies := rfl, launches := rfl, dbg := rfl, glob := rfl, cores := fun _ => rfl,
           sites := ?_, otherSites := ?_, otherTasks := fun k' _ => tasks k', otherStreams := ?_, task := ?_ }
  · intro k'
    by_cases e : siteKeyNat k' = siteKeyNat (TaskKey.siteKey k)
    · rw [siteOf_congr _ e, siteOf_congr s e, siteOf_setSite, hr]
    · simp [siteOf_setSite_other _ _ e]
  · intro k' h
    exact siteOf_setSite_other s x (h (TaskKey.siteKey k) (by simp [curSite, hc]))
  · intro a h
    cases a with
    | task k' => simp only [threadOf, tasks]
    | _ => rfl
  · intro k' _; rw [tasks]

/-- A change of the executing task within its stream and its record of the last token changes nothing elsewhere. -/
theorem Elsewhere.setTask {s : State} {k : TaskKey} (hc : s.cur = .task k) (x : Task) (hr : taskRest x = taskRest (taskOf s k)) :
    Elsewhere s (setTask s k x) := by
  refine { cur := rfl, clock := rfl, time := rfl, memory := fun _ => rfl, homes := rfl, badLines := rfl, regOrder := rfl, refusals := rfl,
           reads := rfl, nextReq := rfl, dies := rfl, launches := rfl, dbg := rfl, glob := rfl, cores := fun _ => rfl,
           sites := ?_, otherSites := ?_, otherTasks := ?_, otherStreams := ?_, task := ?_ }
  · intro k'
    by_cases e : siteKeyNat k' = siteKeyNat (TaskKey.siteKey k)
    · rw [siteOf_congr _ e, siteOf_congr s e]; simp [Machine.setTask, siteRest_setTask]
    · simp [Machine.setTask, siteOf_setSite_other _ _ e]
  · intro k' h
    have e := h (TaskKey.siteKey k) (by simp [curSite, hc])
    simp [Machine.setTask, siteOf_setSite_other _ _ e]
  · intro k' h; rw [hc] at h; exact taskOf_setTask_other s _ h
  · intro a h
    rw [hc] at h
    cases a with
    | task k' => simp only [threadOf]; rw [taskOf_setTask_other s _ h]
    | _ => rfl
  · intro k' h; rw [hc] at h; cases h; rw [taskOf_setTask, hr]

end Sys2Proof.Safety

namespace Sys2Proof.Machine

open Sys2Proof.Safety

/-! ### Vectors -/

@[simp] theorem Vector.get_set_same {α : Type} {n : Nat} (v : Vector α n) (i : Fin n) (x : α) : (v.set i x).get i = x := by
  simp only [Vector.get]
  exact Vector.getElem_set_self i.2
theorem Vector.get_set_other {α : Type} {n : Nat} (v : Vector α n) {i j : Fin n} (x : α) (h : j ≠ i) : (v.set i x).get j = v.get j := by
  have : (i : Nat) ≠ j := fun e => h (Fin.ext e.symm)
  simp only [Vector.get]
  exact Vector.getElem_set_ne i.2 j.2 this

theorem Vector.get_ofFn' {α : Type} {n : Nat} (f : Fin n → α) (i : Fin n) : (Vector.ofFn f).get i = f i := by
  simp only [Vector.get]
  exact Vector.getElem_ofFn i.2

/-! ### Registers written -/

@[simp] theorem writeS_get (r : Regs) (i : Fin 64) (x : Scalar) : (Regs.writeS r i x).s.get i = { val := x, full := true } :=
  Vector.get_set_same _ _ _
@[simp] theorem writeV_get (r : Regs) (i : Fin 32) (x : Vector Lane 64) : (Regs.writeV r i x).v.get i = { lanes := x, full := true } :=
  Vector.get_set_same _ _ _
@[simp] theorem writeQ_get (r : Regs) (i : Fin 8) (x : W64) : (Regs.writeQ r i x).q.get i = { val := x, full := true } :=
  Vector.get_set_same _ _ _

/-! ### Consuming tokens (R96) -/

theorem consumeOne_elsewhere (s : State) (c : Fin 32) : Elsewhere s (consumeOne s c) := by
  unfold consumeOne
  split
  · rename_i k hc
    refine Elsewhere.trans (Elsewhere.setSite hc _ ?_ ?_) (Elsewhere.setTask (by simpa using hc) _ ?_) <;> rfl
  · exact Elsewhere.refl s

@[simp] theorem consumeOne_agenda (s : State) (c : Fin 32) : (consumeOne s c).agenda = s.agenda := by
  unfold consumeOne; split <;> simp

@[simp] theorem consumeOne_cur (s : State) (c : Fin 32) : (consumeOne s c).cur = s.cur := (consumeOne_elsewhere s c).cur

@[simp] theorem consumeOne_thread (s : State) (c : Fin 32) : thread (consumeOne s c) = thread s := by
  unfold thread; rw [consumeOne_cur]; unfold consumeOne
  split
  · rename_i k hc
    simp only [hc, threadOf, taskOf_setTask]
    simp [taskOf]
  · rfl

theorem consumeOne_outs (s : State) (c : Fin 32) (o : Fin 16) : outOf (consumeOne s c) o = outOf s o := by
  simp only [outOf, curSite, consumeOne_cur]
  cases hc : s.cur with
  | task k => simp [consumeOne, hc]
  | _ => rfl

theorem consumeOne_chan (s : State) (c d : Fin 32) :
    chanOf (consumeOne s c) d = if d = c then (chanOf s d).drop 1 else chanOf s d := by
  simp only [chanOf, curSite, consumeOne_cur]
  cases hc : s.cur with
  | task k =>
    simp only [consumeOne, hc]
    by_cases e : d = c
    · subst e; simp
    · simp [e, Vector.get_set_other _ _ e]
  | _ => simp

theorem foldl_consumeOne (cs : List (Fin 32)) (s : State) (h : cs.Nodup) :
    Elsewhere s (cs.foldl consumeOne s) ∧ (cs.foldl consumeOne s).agenda = s.agenda ∧ thread (cs.foldl consumeOne s) = thread s ∧
    (∀ o, outOf (cs.foldl consumeOne s) o = outOf s o) ∧
    (∀ d, chanOf (cs.foldl consumeOne s) d = if cs.contains d then (chanOf s d).drop 1 else chanOf s d) := by
  induction cs generalizing s with
  | nil => exact ⟨Elsewhere.refl s, rfl, rfl, fun _ => rfl, fun _ => rfl⟩
  | cons c r ih =>
    have hn := List.nodup_cons.mp h
    obtain ⟨h1, h2, h3, h4, h5⟩ := ih (consumeOne s c) hn.2
    refine ⟨(consumeOne_elsewhere s c).trans h1, by simpa using h2, by simpa using h3, fun o => (h4 o).trans (consumeOne_outs s c o), ?_⟩
    intro d
    rw [List.foldl_cons, h5 d, consumeOne_chan]
    by_cases e : d = c
    · subst e
      have : r.contains d = false := by simpa using hn.1
      simp only [this]; simp
    · simp [e]

theorem List.nodup_eraseDups_fin (l : List (Fin 32)) : l.eraseDups.Nodup := by
  generalize hn : l.length = n
  induction n using Nat.strongRecOn generalizing l with
  | _ n ih =>
    cases l with
    | nil => simp
    | cons a as =>
      rw [List.eraseDups_cons]
      have hlt : (as.filter fun b => !b == a).length < n := by
        have := List.length_filter_le (fun b => !b == a) as
        simp at hn; omega
      refine List.nodup_cons.mpr ⟨?_, ih _ hlt _ rfl⟩
      intro hm
      have : a ∈ as.filter fun b => !b == a := List.mem_eraseDups.mp hm
      simp at this

/-- Everything that consuming the tokens of fields does. -/
theorem consume_spec (s : State) (fs : List Field) :
    Elsewhere s (consume s fs) ∧ (consume s fs).agenda = s.agenda ∧ thread (consume s fs) = thread s ∧
    (∀ o, outOf (consume s fs) o = outOf s o) ∧ Took fs s (consume s fs) :=
  foldl_consumeOne _ s (List.nodup_eraseDups_fin _)

@[simp] theorem consume_cur (s : State) (fs : List Field) : (consume s fs).cur = s.cur := (consume_spec s fs).1.cur
@[simp] theorem consume_thread (s : State) (fs : List Field) : thread (consume s fs) = thread s := (consume_spec s fs).2.2.1
@[simp] theorem consume_agenda (s : State) (fs : List Field) : (consume s fs).agenda = s.agenda := (consume_spec s fs).2.1

/-! ### Replacing the stream -/

theorem withThread_outs (s : State) (x : Thread) (o : Fin 16) : outOf (withThread s x) o = outOf s o := by
  simp only [outOf, curSite, withThread_cur]
  split <;> simp

theorem withThread_chan (s : State) (x : Thread) (c : Fin 32) : chanOf (withThread s x) c = chanOf s c := by
  simp only [chanOf, curSite, withThread_cur]
  split <;> simp

/-! ### Sending (R124, R178) -/

/-- Everything that sending a token does, on a site. -/
theorem sendToken_spec (s : State) (o : Fin 16) (fmt : Fmt) (pay : Payload) (seq : Option (BitVec 12)) (h : onSite s = true) :
    Elsewhere s (sendToken s o fmt pay seq) ∧ thread (sendToken s o fmt pay seq) = thread s ∧
    (∀ c, chanOf (sendToken s o fmt pay seq) c = chanOf s c) ∧ OutsBut (.o o) s (sendToken s o fmt pay seq) ∧
    Sent o fmt pay (seq.getD (outOf s o).nextSeq) s (sendToken s o fmt pay seq) := by
  unfold onSite at h
  cases hc : s.cur with
  | task k =>
    have e : ∀ x : State, x.cur = .task k → curSite x = some (TaskKey.siteKey k) := fun x hx => by simp [curSite, hx]
    simp only [sendToken, hc]
    refine ⟨Elsewhere.trans (Elsewhere.setSite hc _ ?_ ?_) (Elsewhere.push _ _), ?_, ?_, ?_, ?_, ?_, ?_, ?_⟩
    · rfl
    · rfl
    · simp only [thread, push_cur, setSite_cur, hc, threadOf, taskOf, siteOf_push, siteOf_setSite]
    · intro c; simp [chanOf, curSite, hc]
    · intro o' ho
      have : o' ≠ o := fun hh => ho (by rw [hh])
      simp [outOf, curSite, hc, Vector.get_set_other _ _ this]
    · simp [outOf, curSite, hc]
    · simp [outOf, curSite, hc]
    · simp [outOf, curSite, hc]
    · exact ⟨_, e s hc, by simp [push]⟩
  | _ => simp [hc] at h

/-! ### Retiring (R101) -/

theorem RegsBut.refl (d : Dst) (r : Regs) : RegsBut d r r := ⟨fun _ _ => rfl, fun _ _ => rfl, fun _ _ => rfl, fun _ _ => rfl⟩

/-- Retiring after an effect that leaves the stream alone but for its registers. -/
theorem retire_spec {s u : State} {fs : List Field} {d : Dst} (he : Elsewhere s u) (hk : Took fs s u) (ho : OutsBut d s u)
    (hr : RegsBut d (thread s).regs (thread u).regs) (ht : thread u = { thread s with regs := (thread u).regs }) :
    Retires s (retire u) fs d where
  elsewhere := he.trans (Elsewhere.withThread u _)
  tokens c := by rw [retire, withThread_chan]; exact hk c
  outs o h := by rw [retire, withThread_outs]; exact ho o h
  regs := by simpa [Thread.next] using hr
  special := by
    simp only [retire_thread, SpecialKept, Thread.next]
    rw [ht]; exact ⟨rfl, rfl, rfl, rfl, rfl, rfl, rfl⟩
  advanced := by
    simp only [retire_thread, Advanced, Thread.next]
    rw [ht]; exact ⟨rfl, rfl⟩

theorem retire_regs (s : State) : (thread (retire s)).regs = (thread s).regs := by simp [Thread.next]
theorem retire_outs (s : State) (o : Fin 16) : outOf (retire s) o = outOf s o := withThread_outs s _ o

/-- Retiring with no effect. -/
theorem retire_noEffect (s : State) : NoEffect s (retire s) :=
  ⟨retire_spec (Elsewhere.refl s) (fun c => by simp [chansOf]) (fun _ _ => rfl) (RegsBut.refl _ _) rfl, retire_agenda s⟩

/-- Registers changed after the tokens of fields are consumed, and the instruction retires. -/
theorem mapRegs_retires (s : State) (fs : List Field) (d : Dst) (f : Regs → Regs) (hr : RegsBut d (thread s).regs (f (thread s).regs)) :
    Retires s (retire (mapRegs (consume s fs) f)) fs d ∧ (retire (mapRegs (consume s fs) f)).agenda = s.agenda ∧
    (thread (retire (mapRegs (consume s fs) f))).regs = f (thread s).regs := by
  obtain ⟨h1, h2, h3, h4, h5⟩ := consume_spec s fs
  refine ⟨retire_spec (h1.trans (Elsewhere.withThread _ _)) ?_ ?_ ?_ ?_, ?_, ?_⟩
  · intro c; rw [mapRegs, withThread_chan]; exact h5 c
  · intro o _; rw [mapRegs, withThread_outs]; exact h4 o
  · simpa using hr
  · simp
  · rw [retire_agenda, mapRegs, withThread_agenda, h2]
  · rw [retire_regs, mapRegs_thread, h3]

/-- The tokens of fields consumed, and the instruction retires. -/
theorem consume_retires (s : State) (fs : List Field) (d : Dst) :
    Retires s (retire (consume s fs)) fs d ∧ (retire (consume s fs)).agenda = s.agenda := by
  obtain ⟨h1, h2, h3, h4, h5⟩ := consume_spec s fs
  exact ⟨retire_spec h1 h5 (fun o _ => h4 o) (by rw [h3]; exact RegsBut.refl _ _) (by rw [h3]), by rw [retire_agenda, h2]⟩

/-- A token sent after the tokens of fields are consumed, and the instruction retires. -/
theorem send_retires (s : State) (fs : List Field) (o : Fin 16) (fmt : Fmt) (pay : Payload) (seq : Option (BitVec 12))
    (h : onSite s = true) :
    Retires s (retire (sendToken (consume s fs) o fmt pay seq)) fs (.o o) ∧
    Sent o fmt pay (seq.getD (outOf s o).nextSeq) s (retire (sendToken (consume s fs) o fmt pay seq)) := by
  obtain ⟨h1, h2, h3, h4, h5⟩ := consume_spec s fs
  have h' : onSite (consume s fs) = true := by simpa [onSite] using h
  obtain ⟨g1, g2, g3, g4, g5⟩ := sendToken_spec (consume s fs) o fmt pay seq h'
  refine ⟨retire_spec (h1.trans g1) (fun c => (g3 c).trans (h5 c)) (fun o' ho => (g4 o' ho).trans (h4 o')) ?_ ?_, ?_⟩
  · rw [g2, h3]; exact RegsBut.refl _ _
  · rw [g2, h3]
  · rw [h4] at g5
    obtain ⟨e1, e2, e3, k, e4, e5⟩ := g5
    refine ⟨?_, ?_, ?_, k, ?_, ?_⟩
    · rw [retire_outs, e1, h4]
    · rw [retire_outs, e2, h4]
    · rw [retire_outs, e3]
    · rw [← curSite_of_cur h1.cur]; exact e4
    · rw [retire_agenda, e5, h2]

/-! ### Destinations -/

theorem RegsBut.writeS (r : Regs) (i : Fin 64) (x : Scalar) : RegsBut (.s i) r (Regs.writeS r i x) :=
  ⟨fun j h => Vector.get_set_other _ _ (fun e => h (by rw [e])), fun _ _ => rfl, fun _ _ => rfl, fun _ _ => rfl⟩
theorem RegsBut.writeV (r : Regs) (i : Fin 32) (x : Vector Lane 64) : RegsBut (.v i) r (Regs.writeV r i x) :=
  ⟨fun _ _ => rfl, fun j h => Vector.get_set_other _ _ (fun e => h (by rw [e])), fun _ _ => rfl, fun _ _ => rfl⟩
theorem RegsBut.writeP (r : Regs) (i : Fin 8) (x : W64) : RegsBut (.p i) r (Regs.writeP r i x) := by
  unfold Regs.writeP
  split
  · exact RegsBut.refl _ _
  · exact ⟨fun _ _ => rfl, fun _ _ => rfl, fun j h => Vector.get_set_other _ _ (fun e => h (by rw [e])), fun _ _ => rfl⟩
theorem RegsBut.writeQ (r : Regs) (i : Fin 8) (x : W64) : RegsBut (.q i) r (Regs.writeQ r i x) :=
  ⟨fun _ _ => rfl, fun _ _ => rfl, fun _ _ => rfl, fun j h => Vector.get_set_other _ _ (fun e => h (by rw [e]))⟩

theorem onSite_of_admitted {p : Places} {s : State} {o : Operands} (h : Admitted p s o) {i : Fin 16} (hd : o.dst = .o i) :
    onSite s = true := by
  rcases h.2 with h | h
  · exact h
  · simp [Operands.ctlOk, hd] at h

/-- A scalar result written after the tokens are consumed, and the instruction retires. -/
theorem writeScalar_retires (s : State) (fs : List Field) (d : Dst) (fmt : Fmt) (x : Scalar) (h : ∀ i, d = .o i → onSite s = true) :
    Retires s (retire (writeScalar (consume s fs) d fmt x)) fs d ∧
    ScalarAt d fmt x s (retire (writeScalar (consume s fs) d fmt x)) := by
  cases d with
  | s i =>
    obtain ⟨h1, h2, h3⟩ := mapRegs_retires s fs (.s i) (fun r => Regs.writeS r i x) (RegsBut.writeS _ _ _)
    exact ⟨h1, by simp only [writeScalar, h3, writeS_get], h2⟩
  | o i => exact send_retires s fs i fmt _ none (h i rfl)
  | _ => exact consume_retires s fs _

theorem readP_writeP (r : Regs) (i : Fin 8) (x : W64) :
    Regs.readP (Regs.writeP r i x) i = if i = 0 then BitVec.allOnes 64 else x := by
  unfold Regs.readP Regs.writeP
  split
  · rfl
  · simp

/-- A predicate result written after the tokens are consumed, and the instruction retires. -/
theorem writePred_retires (s : State) (fs : List Field) (d : Dst) (mask value : W64) :
    Retires s (retire (writePred (consume s fs) d mask value)) fs d ∧
    PredAt d mask value s (retire (writePred (consume s fs) d mask value)) := by
  cases d with
  | p i =>
    obtain ⟨h1, h2, h3⟩ := mapRegs_retires s fs (.p i)
      (fun r' => Regs.writeP r' i ((Regs.readP (thread s).regs i &&& ~~~mask) ||| (value &&& mask))) (RegsBut.writeP _ _ _)
    simp only [writePred, consume_thread]
    exact ⟨h1, h2, by simp only [h3, readP_writeP]⟩
  | q i =>
    obtain ⟨h1, h2, h3⟩ := mapRegs_retires s fs (.q i)
      (fun r' => Regs.writeQ r' i ((Regs.readQ (thread s).regs i &&& ~~~mask) ||| (value &&& mask))) (RegsBut.writeQ _ _ _)
    simp only [writePred, consume_thread]
    exact ⟨h1, h2, by simp only [h3, writeQ_get]⟩
  | _ => exact ⟨(consume_retires s fs _).1, (consume_retires s fs .none).2, trivial⟩

/-- A vector result written after the tokens are consumed, and the instruction retires. -/
theorem writeVector_retires (s : State) (fs : List Field) (d : Dst) (fmt : Fmt) (written : W64) (ls : Vector Lane 64)
    (h : ∀ i, d = .o i → onSite s = true) :
    Retires s (retire (writeVector (consume s fs) d fmt written ls)) fs d ∧
    VectorAt d fmt written ls s (retire (writeVector (consume s fs) d fmt written ls)) := by
  cases d with
  | v i =>
    obtain ⟨h1, h2, h3⟩ := mapRegs_retires s fs (.v i)
      (fun r => Regs.writeV r i (Vector.ofFn fun j => if bit written j then ls.get j else ((thread s).regs.v.get i).lanes.get j))
      (RegsBut.writeV _ _ _)
    simp only [writeVector, consume_thread]
    exact ⟨h1, by simp only [h3, writeV_get], h2, fun j => by simp only [h3, writeV_get, Vector.get_ofFn']⟩
  | o i =>
    obtain ⟨h1, h2⟩ := send_retires s fs i fmt (.vector (Vector.ofFn fun j => if bit written j then ls.get j else .null)) none (h i rfl)
    exact ⟨h1, _, fun j => Vector.get_ofFn' _ j, h2⟩
  | _ => exact consume_retires s fs _

/-! ### Issuing -/

/-- The sources and the destination of a supplied instruction are ready. -/
theorem available_of_full {s : State} {fs : List (Nat × Field)} (h : ∀ f ∈ fs, emptyOn s f.2 = none) : available s fs = .ok () := by
  have h1 : (fs.find? fun x => (emptyOn s x.2).isSome && Field.fet x.2) = none := by
    rw [List.find?_eq_none]; intro x hx; simp [h x hx]
  have h2 : (fs.findSome? fun x => emptyOn s x.2) = none := by
    rw [List.findSome?_eq_none_iff]; intro x hx; exact h x hx
  simp only [available]
  simp [h1, h2]

theorem dstFaults_of_room {s : State} {d : Dst} (h : Room s d) : dstFaults s d = .ok () := by
  cases d <;> simp_all [dstFaults, Room, routeOk]

theorem dstReady_of_room {s : State} {d : Dst} (h : Room s d) : dstReady s d = .ok () := by
  cases d <;> simp_all [dstReady, Room, sendRoom]

theorem ready_of_supplied {s : State} {o : Operands} (h : Supplied s o) : ready s o = .ok () := by
  have h1 : available s (fieldsABC o) = .ok () := available_of_full fun f hf => by
    simp only [fieldsABC, List.mem_cons, List.not_mem_nil, or_false] at hf
    rcases hf with rfl | rfl | rfl
    · exact h.1 o.a (by simp)
    · exact h.1 o.b (by simp)
    · exact h.1 o.c (by simp)
  simp [ready, dstFaults_of_room h.2, dstReady_of_room h.2, h1]
  rfl

/-- An instruction that its agent may execute executes. -/
theorem issue_of_admitted {p : Places} {s : State} {o : Operands} (h : Admitted p s o) (x : Exec) : issue p o s x = finish s x := by
  have : (Places.ok p s.cur && (onSite s || Operands.ctlOk o)) = true := by
    rcases h with ⟨h1, h2 | h2⟩ <;> simp [h1, h2]
  simp [issue, this]

end Sys2Proof.Machine
end

