-- ==== Sys2Proof/Laws/Scalar.lean ====
section
/-! SUPPORT. What a scalar instruction does when it executes (R143 to R146). -/

namespace Sys2Proof.Machine

open Sys2Proof.Safety

theorem scalar_isData_iff (x : Scalar) : Scalar.isData x = true ↔ x = .data (Scalar.pattern x) := by
  cases x <;> simp [Scalar.isData, Scalar.pattern]

theorem combine_of_all_data {xs : List Scalar} (h : xs.all Scalar.isData = true) (v : W64) : Scalar.combine xs v = .data v := by
  have h1 : Scalar.firstErr xs = none ∧ xs.any Scalar.isNull = false := by
    induction xs with
    | nil => exact ⟨rfl, rfl⟩
    | cons x r ih =>
      simp only [List.all_cons, Bool.and_eq_true] at h
      obtain ⟨i1, i2⟩ := ih h.2
      cases x <;> simp_all [Scalar.isData, Scalar.firstErr, Scalar.isNull]
  simp [Scalar.combine, h1.1, h1.2]

theorem combine_of_not_all_data {xs : List Scalar} (h : xs.all Scalar.isData = false) (v w : W64) :
    Scalar.combine xs v = Scalar.combine xs w := by
  have h1 : (Scalar.firstErr xs).isSome = true ∨ xs.any Scalar.isNull = true := by
    induction xs with
    | nil => simp at h
    | cons x r ih =>
      cases x with
      | data d =>
        simp only [List.all_cons, Scalar.isData, Bool.true_and] at h
        rcases ih h with i | i
        · exact .inl (by simpa [Scalar.firstErr] using i)
        · exact .inr (by simpa [Scalar.isNull] using i)
      | null => exact .inr (by simp [Scalar.isNull])
      | err c => exact .inl (by simp [Scalar.firstErr])
  unfold Scalar.combine
  split
  · rfl
  · rename_i e
    rcases h1 with i | i
    · simp [e] at i
    · simp [i]

/-- A predicated instruction whose predicate is false retires with no effect. -/
theorem predicated_false {p : Places} {s : State} {o : Operands} (ha : Admitted p s o) (hp : predicate s o = false) (x : Exec) :
    issue p o s (predicated s (Mod.pred o.mod) x) = .next (retire s) := by
  have : predHolds (thread s).regs (Mod.pred o.mod) = false := hp
  rw [issue_of_admitted ha]; simp [predicated, this, finish]

theorem predicated_true {p : Places} {s : State} {o : Operands} (ha : Admitted p s o) (hp : predicate s o = true) (x : Exec) :
    issue p o s (predicated s (Mod.pred o.mod) x) = finish s x := by
  have : predHolds (thread s).regs (Mod.pred o.mod) = true := hp
  rw [issue_of_admitted ha]; simp [predicated, this]

/-- A scalar instruction whose computation does not trap completes. -/
theorem scalarOp_completes {p : Places} {s : State} {o : Operands} (ha : Admitted p s o) (hp : predicate s o = true)
    (hs : Supplied s o) (srcs : List Field) (f : W64 → W64 → W64 → Except Stop W64) (v : W64)
    (hf : (srcs.map (scalarOf s)).all Scalar.isData = true → f (pattern s o.a) (pattern s o.b) (pattern s o.c) = .ok v) :
    ∃ t, issue p o s (scalarOp o s srcs f) = .next t ∧ Retires s t [o.a, o.b, o.c] o.dst ∧
      ScalarAt o.dst .int32 (Scalar.combine (srcs.map (scalarOf s)) v) s t := by
  refine ⟨_, ?_, writeScalar_retires s [o.a, o.b, o.c] o.dst .int32 _ (fun i hd => onSite_of_admitted ha hd)⟩
  unfold scalarOp
  rw [predicated_true ha hp]
  simp only [ready_of_supplied hs]
  cases hd : (srcs.map (scalarOf s)).all Scalar.isData with
  | true =>
    have := hf hd
    simp only [pattern] at this
    simp only [this, combine_of_all_data hd]
    rfl
  | false =>
    simp only [combine_of_not_all_data hd v 0]
    rfl

end Sys2Proof.Machine
end

