-- ==== Sys2Proof/Laws/Vector.lean ====
section
/-! SUPPORT. What a vector instruction does when it executes (R163 to R166). -/

namespace Sys2Proof.Machine

open Sys2Proof.Safety

theorem onSite_of_sites {s : State} {o : Operands} (ha : Admitted Places.sites s o) : onSite s = true := by
  have := ha.1
  unfold Places.ok Places.sites at this; unfold onSite
  split at this <;> simp_all

theorem badTag_of_tagged {s : State} {f : Field} {tags : List Fmt} (h : Tagged s f tags) : badTag s f tags = false := by
  simp only [badTag]
  cases hf : Field.chan f with
  | none => rfl
  | some c =>
    cases ht : headToken s c with
    | none => simp [ht]
    | some t =>
      have := h c t hf ht
      by_cases hk : Token.kind t = 0 ∨ Token.kind t = 3
      · simp [ht, this hk]
      · simp only [not_or] at hk; simp [ht, hk.1, hk.2]

theorem abandonedIn_of_none {s : State} {f : Field} {mask : W64} (h : NoneAbandoned s f mask) : abandonedIn mask (vectorOf s f) = false := by
  unfold abandonedIn
  rw [List.any_eq_false]
  intro i _ hh
  simp only [Bool.and_eq_true] at hh
  cases hl : (vectorOf s f).get i with
  | data w => rw [hl] at hh; simp_all [h i w hh.1 hl]
  | _ => rw [hl] at hh; simp at hh

/-- The sources and the destination of a supplied vector instruction are ready. -/
theorem vecReady_of_supplied {s : State} {o : Operands} {fs : List (Nat × Field)} {tags : Nat → List Fmt} {fp32 : Bool} {mask : W64}
     (h : VectorSupplied s o fs tags fp32 mask) : vecReady s o fs tags fp32 mask = .ok () := by
  have h1 : available s fs = .ok () := available_of_full (fun f hf => (h.1 f hf).1)
  have h2 : tagsOk s fs tags = .ok () := by
    unfold tagsOk
    have : (fs.find? fun x => badTag s x.2 (tags x.1)) = none := by
      rw [List.find?_eq_none]; intro x hx; simp [badTag_of_tagged (h.1 x hx).2.1]
    simp [this]
  have h3 : fp32 = true → abandonedOk s mask fs = .ok () := by
    intro hh
    unfold abandonedOk
    have : (fs.find? fun x => abandonedIn mask (vectorOf s x.2)) = none := by
      rw [List.find?_eq_none]; intro x hx; simp [abandonedIn_of_none ((h.1 x hx).2.2 hh)]
    simp [this]
  unfold vecReady
  simp only [dstFaults_of_room h.2, h1, h2, dstReady_of_room h.2]
  cases fp32
  · rfl
  · simp only [h3 rfl]; rfl

/-- A supplied lane-by-lane instruction completes. -/
theorem vecOp_completes {s : State} {o : Operands} {fs : List (Nat × Field)} {tags : Nat → List Fmt} {fp32 : Bool} {out : Fmt}
    {f : List W32 → Lane} (ha : Admitted Places.sites s o) (h : VectorSupplied s o fs tags fp32 (active s o)) :
    ∃ t ls, issue Places.sites o s (vecOp o s fs tags fp32 out f) = .next t ∧ Retires s t [o.a, o.b, o.c] o.dst ∧
      VectorAt o.dst out (active s o) ls s t ∧ ∀ i, ls.get i = Lane.combine (lanesAt s fs i) (f ((lanesAt s fs i).map Lane.pattern)) := by
  obtain ⟨h1, h2⟩ := writeVector_retires s [o.a, o.b, o.c] o.dst out (active s o) (lanesBy (fs.map fun x => vectorOf s x.2) f) (fun _ _ => onSite_of_sites ha)
  refine ⟨_, _, ?_, h1, h2, ?_⟩
  · rw [issue_of_admitted ha]
    have := vecReady_of_supplied h
    unfold active at this
    simp only [vecOp, this]; rfl
  · intro i
    unfold lanesBy lanesAt
    rw [Vector.get_ofFn']
    simp [List.map_map, Function.comp_def]

end Sys2Proof.Machine
end

