-- ==== Sys2Proof/Laws/Issue.lean ====
section
/-! SUPPORT. The issue of a memory access: an open gate lets it pass, and what is under way for the task after it. -/

namespace Sys2Proof.Machine

open Sys2Proof.Safety

/-- An access whose gate is open passes it (R220, R243, R245). -/
theorem memGate_ok {s : State} {ord : MemOrder} {scope : Scope} (h : GateOpen s ord scope) : memGate s ord scope = .ok () := by
  obtain ⟨hp, hk⟩ := h
  have h1 : acquiring s = false := by
    unfold acquiring
    rw [Bool.or_eq_false_iff]
    refine ⟨by rw [List.any_eq_false]; intro p hm; simp [hp p hm], ?_⟩
    cases hc : s.cur with
    | task k =>
      simp only [List.any_eq_false, Bool.and_eq_true, beq_iff_eq, not_and, Bool.not_eq_true]
      exact (hk k hc).1
    | _ => rfl
  unfold memGate
  rw [h1]
  cases hc : s.cur with
  | task k =>
    obtain ⟨-, h2, h4⟩ := hk k hc
    cases hr : MemOrder.releases ord with
    | true =>
      have h2 := h2 hr
      have h3 : (beyondCore s k scope && regLost s k) = false := by
        cases hb : beyondCore s k scope
        · rfl
        · simp only [released, hb, Bool.not_true, Bool.false_or, Bool.and_eq_true] at h2
          simp only [Bool.true_and, regLost, List.any_eq_false]
          intro o ho
          have := (List.all_eq_true.mp h2.2.1) o ho
          simp_all
      simp [h2, h3]
    | false =>
      cases ha : (MemOrder.acquires ord && Scope.far scope)
      · simp
      · rw [Bool.and_eq_true] at ha
        simp [h4 ha.1 hr ha.2]
  | _ => rfl

/-- A producer started for a destination: its register is empty until the result comes (R121). -/
theorem startProducer_thread (s : State) (d : Dst) (st : ProducerState) (acq : Option Scope) :
    thread (startProducer s d st acq) =
      { thread s with regs := Regs.markEmpty (thread s).regs d, nextProducer := (thread s).nextProducer + 1,
                      producers := (thread s).producers ++ [{ id := (thread s).nextProducer, state := st, acq := acq, held := false }] } := by
  unfold startProducer
  exact thread_withThread s _

/-- So an instruction that starts one and retires has issued it. -/
theorem issued_retire {s u : State} {d : Dst} {st : ProducerState} {acq : Option Scope} (h : thread u = thread s) :
    Issued (thread s) (thread (retire (startProducer u d st acq))) d st acq := by
  rw [retire_thread, startProducer_thread, h]
  constructor <;> first | rfl | exact ⟨rfl, rfl⟩

end Sys2Proof.Machine
end

