-- ==== Sys2Proof/Tests/Slice0.lean ====
section
/-! SUPPORT. The model's own tests: ill-formed terms refused, words that the manual writes out, single steps with results worked out from the manual, and for
each obligation with hypotheses a state that meets them. -/

namespace Sys2Proof.Tests

open Sys2Proof.Machine

/-! ### Helpers -/

/-- Scalar register `n` as a source. -/
def rs (n : Fin 64) : Field := .src { reg := .s n, fet := false, neg := false, abs := false, bc := false, lane := 0, pn := false, pi := 0 }
/-- Vector register `n` as a source. -/
def rv (n : Fin 32) : Field := .src { reg := .v n, fet := false, neg := false, abs := false, bc := false, lane := 0, pn := false, pi := 0 }
/-- Input channel `n` as a source. -/
def rc (n : Fin 32) : Field := .src { reg := .c n, fet := false, neg := false, abs := false, bc := false, lane := 0, pn := false, pi := 0 }
/-- A special register as a source. -/
def rx (x : Special) : Field := .src { reg := .x x, fet := false, neg := false, abs := false, bc := false, lane := 0, pn := false, pi := 0 }
/-- A source changed. -/
def changed (f : Src → Src) : Field → Field
  | .src x => .src (f x)
  | x => x
/-- FET set. -/
def withFet : Field → Field := changed fun x => { x with fet := true }
/-- NEG set. -/
def withNeg : Field → Field := changed fun x => { x with neg := true }
/-- BC set, with a lane. -/
def withBc (f : Field) (n : Fin 64) : Field := changed (fun x => { x with bc := true, lane := n }) f
/-- A lane. -/
def withLane (f : Field) (n : Fin 64) : Field := changed (fun x => { x with lane := n }) f
/-- A predicate. -/
def withPi (f : Field) (n : Fin 8) : Field := changed (fun x => { x with pi := n }) f
/-- p0, not negated. -/
def p0 : Pred := { neg := false, idx := 0 }
/-- Arithmetic MOD 0: round to nearest even, no saturation, p0. -/
def m0 : Mod := .arith .rne false p0
/-- The site of the tests. -/
def here : TaskKey := { core := 0, site := 0, slot := 0 }
/-- A task that executes, on site 0 of core 0, in launch 1: every register zero and full. -/
def onTask : State := { placeTask State.reset 0 with cur := .task here }
/-- The global core that executes. -/
def onGlobal : State := { placeController State.reset .global 0 with cur := .global }
/-- The leaf of core 0 that executes. -/
def onLeaf : State := { placeController State.reset (.leaf 0) 0 with cur := .leaf 0 }
/-- The state with scalar registers of the executing stream set. -/
def withS (s : State) (xs : List (Fin 64 × W64)) : State := mapRegs s fun r => xs.foldl (fun r (i, w) => Regs.writeS r i (.data w)) r
/-- A scalar register of the next state. -/
def sAfter (x : Host.Outcome State Fault Refusal) (i : Fin 64) : Option Scalar :=
  match x with
  | .next t => some ((thread t).regs.s.get i).val
  | _ => none
/-- The program counter of the next state. -/
def pcAfter (x : Host.Outcome State Fault Refusal) : Option Nat :=
  match x with
  | .next t => some (thread t).pc
  | _ => none

theorem test_add : sAfter (exec (.add { dst := .s 1, mod := m0, a := rs 2, b := rs 3, c := .unread }) (withS onTask [(2, 5), (3, 7)])) 1 =
    some (.data 12) := by decide

/-! ### Ill-formed terms (R90 to R99, R104, R108) -/

/-- add s1, s2, s3, which is well formed. -/
def addOps : Operands := { dst := .s 1, mod := m0, a := rs 2, b := rs 3, c := .unread }

theorem test_wf_add : Instr.wf (.add addOps) = true := by decide
/-- A MOD of another class (R98). -/
theorem test_wf_modClass : Instr.wf (.add { addOps with mod := .plain p0 }) = false := by decide
/-- A rounding where the instruction does not round (R99). -/
theorem test_wf_modValue : Instr.wf (.add { addOps with mod := .arith .rup false p0 }) = false := by decide
/-- SAT where the instruction defines no saturation (R99). -/
theorem test_wf_sat : Instr.wf (.and { addOps with mod := .arith .rne true p0 }) = false := by decide
/-- A destination class that the major does not accept (R90, R104). -/
theorem test_wf_destination : Instr.wf (.add { addOps with dst := .v 1 }) = false := by decide
/-- p0 as a destination (R90). -/
theorem test_wf_p0 : Instr.wf (.pmov { dst := .p 0, mod := .plain p0, a := rs 2, b := .unread, c := .unread }) = false := by decide
/-- A field that is read but not given (R92). -/
theorem test_wf_missing : Instr.wf (.add { addOps with b := .unread }) = false := by decide
/-- A field that the instruction does not read (R92). -/
theorem test_wf_unread : Instr.wf (.add { addOps with c := rs 4 }) = false := by decide
/-- A vector register in a scalar instruction (R142). -/
theorem test_wf_space : Instr.wf (.add { addOps with a := rv 2 }) = false := by decide
/-- NEG on a source that has no sign (R92). -/
theorem test_wf_neg :
    Instr.wf (.and { addOps with a := withNeg (rs 2) }) =
      false := by decide
/-- BC on a scalar source (R92). -/
theorem test_wf_bc :
    Instr.wf (.vadd .f32 { dst := .v 1, mod := m0, a := rv 2, b := withBc (rs 3) 0, c := .unread }) = false := by decide
/-- LANE without BC (R92). -/
theorem test_wf_lane :
    Instr.wf (.vadd .f32 { dst := .v 1, mod := m0, a := rv 2, b := withLane (rv 3) 5, c := .unread }) = false := by decide
/-- A predicate in a field of an arithmetic instruction (R92). -/
theorem test_wf_predicate :
    Instr.wf (.add { addOps with a := withPi (rs 2) 3 }) =
      false := by decide
/-- FET on a special register (R92). -/
theorem test_wf_fet :
    Instr.wf (.add { addOps with a := withFet (rx .time) }) =
      false := by decide
/-- Two literals (R94). -/
theorem test_wf_literals : Instr.wf (.add { addOps with a := .lit 1, b := .lit 2 }) = false := by decide
/-- A part beyond the last in VCVT from FP32 to E4M3, which has four (R171). -/
theorem test_wf_part : Instr.wf (.vcvt .e4m3 .fp32 { dst := .v 6, mod := m0, a := rv 2, b := .lit 4, c := .unread }) = false := by decide
/-- A pair of formats that VCVT does not convert (R70, R106). -/
theorem test_wf_pair : Instr.wf (.vcvt .hxf4 .fp32 { dst := .v 6, mod := m0, a := rv 2, b := .unread, c := .unread }) = false := by decide
/-- A type without the function (R105). -/
theorem test_wf_type : Instr.wf (.vdiv .i32 { dst := .v 1, mod := m0, a := rv 2, b := rv 3, c := .unread }) = false := by decide
/-- A reserved bit of a control word (R178). -/
theorem test_wf_control : Instr.wf (.send { dst := .none, mod := .plain p0, a := rs 2, b := .unread, c := .word 0x400 }) = false := by decide
/-- XJ with two exits (R149). -/
theorem test_wf_exits : Instr.wf (.xj { dst := .none, mod := .exit 1, a := .unread, b := .unread, c := .unread }) = false := by decide

/-! ### Words of the manual, one or more for each family -/

/-- R99: add s1, s2, s3. -/
theorem test_decode_add : decode 0x01000100000000000300000002000000 = .ok (.add addOps) := by rfl
/-- R101: xidx s3 with five exits. -/
theorem test_decode_xidx : decode 0x000CFF04000000000000000003000000 =
    .ok (.xidx { dst := .none, mod := .exit 4, a := rs 3, b := .unread, c := .unread }) := by rfl
/-- The first word of the example of R150: xsel c?; field A is special register 50, p2. -/
theorem test_decode_xsel : decode 0x0008FF020000000004000000F2000000 =
    .ok (.xsel { dst := .none, mod := .exit 2, a := rx (.p 2), b := rs 4, c := .unread }) := by rfl
/-- R155: tbind #37. -/
theorem test_decode_tbind : decode 0x0025FF00000000000000000000000025 =
    .ok (.tbind { dst := .none, mod := .plain p0, a := .lit 37, b := .unread, c := .unread }) := by rfl
/-- The examples of R160: bfx, add.sat and div with ABS on field A. -/
theorem test_decode_bfx : decode 0x016E06000000000000000C0401000000 =
    .ok (.bfx { dst := .s 6, mod := m0, a := rs 1, b := .lit 0xC04, c := .unread }) := by rfl
theorem test_decode_addSat : decode 0x01020910000000000000000109000000 =
    .ok (.add { dst := .s 9, mod := .arith .rne true p0, a := rs 9, b := .lit 1, c := .unread }) := by rfl
theorem test_decode_div : decode 0x01140400000000000200000001400000 =
    .ok (.div { dst := .s 4, mod := m0, a := withNeg (rs 1), b := rs 2, c := .unread }) := by rfl
/-- The examples of R162: cmp.lt, pcmp.geu under !p4, and pand of a tile predicate. -/
theorem test_decode_cmp : decode 0x02000520000000000300000002000000 =
    .ok (.cmp { dst := .s 5, mod := .cmp .lt p0, a := rs 2, b := rs 3, c := .unread }) := by rfl
theorem test_decode_pcmp : decode 0x0206829C000000000000006407000000 =
    .ok (.pcmp { dst := .p 2, mod := .cmp .geu { neg := true, idx := 4 }, a := rs 7, b := .lit 100, c := .unread }) := by rfl
theorem test_decode_pand : decode 0x0208910000000000F3000000FA000000 =
    .ok (.pand { dst := .q 1, mod := .plain p0, a := rx (.q 2), b := rx (.p 3), c := .unread }) := by rfl
/-- R106: vfma.f32.rdn with NEG on field B's broadcast lane 7. -/
theorem test_decode_vfma : decode 0x200C4460430000004251C00041800000 =
    .ok (.vfma .f32 { dst := .v 4, mod := .arith .rdn false p0, a := withFet (rv 1), b := withNeg (withBc (rv 2) 7), c := rv 3 }) := by rfl
/-- R170: vcmp.f32.lt p3, v1, v2. -/
theorem test_decode_vcmp : decode 0x20208320000000004200000041000000 =
    .ok (.vcmp .f32 { dst := .p 3, mod := .cmp .lt p0, a := rv 1, b := rv 2, c := .unread }) := by rfl
/-- R169: vdot4 with saturation. -/
theorem test_decode_vdot4 : decode 0x23304910490000004200000041000000 =
    .ok (.vdot4 .i8 { dst := .v 9, mod := .arith .rne true p0, a := rv 1, b := rv 2, c := rv 9 }) := by rfl
/-- R172: vcvt to E4M3 from FP32, saturating, part 1. -/
theorem test_decode_vcvt : decode 0x24664610000000000000000142000000 =
    .ok (.vcvt .e4m3 .fp32 { dst := .v 6, mod := .arith .rne true p0, a := rv 2, b := .lit 1, c := .unread }) := by rfl
/-- R181: sende of the literal count 64. -/
theorem test_decode_sende : decode 0x2609FF00000000100000000000000040 =
    .ok (.sende { dst := .none, mod := .plain p0, a := .lit 64, b := .unread, c := .word 0x10 }) := by rfl
/-- R106: ldv.f32.acq.core.e3. -/
theorem test_decode_ldv : decode 0x4102455B000000010000004004000000 =
    .ok (.ldv { dst := .v 5, mod := .mem .acq .core 3, a := rs 4, b := .lit 64, c := .word 1 }) := by rfl
/-- R235: fence.rel.die. -/
theorem test_decode_fence : decode 0x441CFFA3000000000000000000000000 =
    .ok (.fence { dst := .none, mod := .mem .rel .die 3, a := .unread, b := .unread, c := .unread }) := by rfl
/-- R251: waita.geu.acq.sys s5, [s2], #2. -/
theorem test_decode_waita : decode 0x4422057B000000090000000202000000 =
    .ok (.waita { dst := .s 5, mod := .mem .acq .system 3, a := rs 2, b := .lit 2, c := .word 9 }) := by rfl
/-- R243: baraw.acqrel.region s2, #2. -/
theorem test_decode_baraw : decode 0x450902D3000000000000000000000002 =
    .ok (.baraw { dst := .s 2, mod := .mem .acqrel .region 3, a := .lit 2, b := .unread, c := .unread }) := by rfl
/-- R321: mma under the tile predicate that TQ names. -/
theorem test_decode_mma : decode 0x600C0C07000000000000000048024400 =
    .ok (.mma { dst := .s 12, mod := .eng true true true, a := withLane (withPi (rv 8) 1) 9, b := .unread, c := .unread }) := by rfl
/-- R351: cphead of a descriptor in v1; R355: gthr of v3 with indices from c1. -/
theorem test_decode_cphead : decode 0x7000FF00000000000000000041000000 =
    .ok (.cphead { dst := .none, mod := .eng false false false, a := rv 1, b := .unread, c := .unread }) := by rfl
theorem test_decode_gthr : decode 0x70200700000000008100000043000000 =
    .ok (.gthr { dst := .s 7, mod := .eng false false false, a := rv 3, b := rc 1, c := .unread }) := by rfl
/-- R385: wmdel with a firing handle. -/
theorem test_decode_wmdel : decode 0x7808FF01140000000A00000016000000 =
    .ok (.wmdel { dst := .none, mod := .eng false false true, a := rs 22, b := rs 10, c := rs 20 }) := by rfl
/-- The words that the manual gives no example of, written out from R88, R104 and the rows of their majors: peek s1, c4; qtest p1, s2, s3; stw s4 to [s2 + s3];
amoadd s1; bkadd s1; vvrd v1, s2, s3; sysrd s1, s2; vext s1, v2, s3. -/
theorem test_decode_peek : decode 0x260C0100000000000000000084000000 =
    .ok (.peek { dst := .s 1, mod := .plain p0, a := rc 4, b := .unread, c := .unread }) := by rfl
theorem test_decode_qtest : decode 0x27088100000000000300000002000000 =
    .ok (.qtest { dst := .p 1, mod := .plain p0, a := rs 2, b := rs 3, c := .unread }) := by rfl
theorem test_decode_stw : decode 0x4024FF03040000000300000002000000 =
    .ok (.stw { dst := .none, mod := .mem .rlx .task 3, a := rs 2, b := rs 3, c := rs 4 }) := by rfl
theorem test_decode_amoadd : decode 0x4200010B040000000300000002000000 =
    .ok (.amoadd { dst := .s 1, mod := .mem .rlx .site 3, a := rs 2, b := rs 3, c := rs 4 }) := by rfl
theorem test_decode_bkadd : decode 0x43000103040000000300000002000000 =
    .ok (.bkadd { dst := .s 1, mod := .mem .rlx .task 3, a := rs 2, b := rs 3, c := rs 4 }) := by rfl
theorem test_decode_sysrd : decode 0x80080100000000000000000002000000 =
    .ok (.sysrd { dst := .s 1, mod := .plain p0, a := rs 2, b := .unread, c := .unread }) := by rfl
theorem test_decode_vext : decode 0x250C0100000000000300000042000000 =
    .ok (.vext { dst := .s 1, mod := m0, a := rv 2, b := rs 3, c := .unread }) := by rfl
/-- A zero word is no instruction (R120); an exit table's word is none (R102); reserved and illegal encodings are refused by name (R108). -/
theorem test_decode_zero : decode 0 = .error .operands := by rfl
theorem test_decode_table : decode 0x0000000B0000000700000003FFFFFFFA = .error .field := by rfl
theorem test_decode_major : decode 0x03000100000000000300000002000000 = .error .opcode := by rfl
theorem test_decode_function : decode 0x01780100000000000300000002000000 = .error .opcode := by rfl
theorem test_decode_rounding : decode 0x010001A0000000000300000002000000 = .error .mod := by rfl
theorem test_decode_index : decode 0x01006000000000000300000002000000 = .error .destination := by rfl
theorem test_decode_reserved : decode 0x01000100000000000300000102000000 = .error .field := by rfl

/-! ### States for the witnesses -/

/-- Checks of `Safety.Admitted` as a Bool. -/
theorem adm {p : Places} {s : State} {o : Operands} (h : (Places.ok p s.cur && (onSite s || Operands.ctlOk o)) = true) : Safety.Admitted p s o := by
  simpa [Safety.Admitted] using h
/-- `Safety.Full` as a Bool. -/
theorem full {s : State} {fs : List Field} (h : (fs.all fun f => (emptyOn s f).isNone) = true) : Safety.Full s fs := by simpa [Safety.Full] using h
/-- `Safety.Room` as a Bool. -/
def roomB (s : State) : Dst → Bool
  | .o i => (outOf s i).route.isSome && decide ((outOf s i).send.length < 2)
  | d => Regs.dstFull (thread s).regs d
theorem room {s : State} {d : Dst} (h : roomB s d = true) : Safety.Room s d := by cases d <;> simpa [Safety.Room, roomB] using h
/-- `Safety.Supplied` as a Bool. -/
theorem sup {s : State} {o : Operands} (h : (([o.a, o.b, o.c].all fun f => (emptyOn s f).isNone) && roomB s o.dst) = true) : Safety.Supplied s o := by
  simp only [Bool.and_eq_true] at h; exact ⟨full h.1, room h.2⟩
/-- Admitted and supplied, as one Bool. -/
def readyB (p : Places) (s : State) (o : Operands) : Bool :=
  Places.ok p s.cur && (onSite s || Operands.ctlOk o) && ([o.a, o.b, o.c].all fun f => (emptyOn s f).isNone) && roomB s o.dst

/-- The predicate !p0, which holds in no lane. -/
def pn0 : Pred := { neg := true, idx := 0 }
/-- The task's site changed. -/
def onSiteOf (s : State) (f : Site → Site) : State := setSite s (TaskKey.siteKey here) (f (siteOf s (TaskKey.siteKey here)))
/-- The executing stream changed. -/
def withThread (s : State) (f : Thread → Thread) : State := setThread s s.cur (f (thread s))
/-- Output channel 0 of the task's site with a route, and `n` tokens in its send buffer. -/
def withOut (s : State) (n : Nat) : State :=
  onSiteOf s fun x => { x with outs := x.outs.set 0 { OutChan.empty with route := some 0x800, send := List.replicate n { route := 0, seq := 0, fmt := .int32, pay := .scalar .null } } }
/-- Input channel 0 of the task's site holding tokens. -/
def withTokens (s : State) (ts : List Token) : State := onSiteOf s fun x => { x with chans := x.chans.set 0 { slots := ts.map fun t => (t, 0) } }
/-- A scalar token. -/
def tok (fmt : Fmt) (w : W32) : Token := { route := 5, seq := 0, fmt := fmt, pay := .scalar (.data w) }
/-- A scalar register that a producer is to fill. -/
def withEmpty (s : State) (i : Fin 64) : State := mapRegs s fun r => Regs.markEmpty r (.s i)
/-- Vector register `i` set. -/
def withV (s : State) (i : Fin 32) (ls : Vector Lane 64) : State := mapRegs s fun r => Regs.writeV r i ls
/-- The word at index `i` of the task's store. -/
def withWord (s : State) (i : Nat) (w : W128) : State := onSiteOf s fun x => { x with istore := Tab.put x.istore i w }
/-- The task with an extent of 64 KiB at 0x10000, all of it present and writable at the page of physical address 64 KiB · `g`. -/
def withPage (s : State) (g : Nat) : State :=
  setTask s here { taskOf s here with extents :=
    [{ vbase := 0x10000, len := 0x10000, mode := 3, space := 0, granules := [(0, granuleWord (some (0x10000 * g, true)) 0)] }] }
/-- The same page, absent. -/
def withHole (s : State) : State :=
  setTask s here { taskOf s here with extents :=
    [{ vbase := 0x10000, len := 0x10000, mode := 3, space := 0, granules := [(0, granuleWord none 0)] }] }
/-- The operands of a memory instruction: a in s2, b in s3, c in s4, result in s1. -/
def memOps : Operands := { dst := .s 1, mod := .mem .rlx .task 0, a := rs 2, b := rs 3, c := rs 4 }
/-- The address of the local store with a byte offset in s2, zero in s3. -/
def atLocal (s : State) (off : Nat) : State := withS s [(2, 0xFFFF000000000000 + BitVec.ofNat 64 off)]
/-- An address in s2. -/
def atVa (s : State) (va : W64) : State := withS s [(2, va)]

/-! ### Hypotheses met: arithmetic, compares, predicates -/

theorem witness_IntegerArithmetic_skips :
    Safety.Admitted Places.all onTask { addOps with mod := .arith .rne false pn0 } ∧
      Safety.predicate onTask { addOps with mod := .arith .rne false pn0 } = false := ⟨adm (by decide), by decide⟩
theorem witness_IntegerArithmetic_task : Safety.Admitted Places.all onTask addOps ∧ Safety.predicate onTask addOps = true ∧
    Safety.Supplied onTask addOps := ⟨adm (by decide), by decide, sup (by decide)⟩
theorem witness_IntegerArithmetic_leaf : Safety.Admitted Places.all onLeaf addOps ∧ Safety.predicate onLeaf addOps = true ∧
    Safety.Supplied onLeaf addOps := ⟨adm (by decide), by decide, sup (by decide)⟩
theorem witness_IntegerArithmetic_channel :
    let s := withOut onTask 1
    let o := { addOps with dst := .o 0 }
    Safety.Admitted Places.all s o ∧ Safety.predicate s o = true ∧ Safety.Supplied s o := ⟨adm (by decide), by decide, sup (by decide)⟩
/-- A divisor that is zero, one that is not, and a zero divisor beside a null dividend. -/
theorem witness_DivisionAndDivzero :
    let s1 := withS onTask [(3, 1)]
    let s2 := mapRegs onTask fun r => Regs.writeS r 2 .null
    (readyB Places.all onTask addOps = true ∧ scalarOf onTask addOps.a = .data 0 ∧ scalarOf onTask addOps.b = .data 0) ∧
    (readyB Places.all s1 addOps = true ∧ scalarOf s1 addOps.b ≠ .data 0) ∧
    (readyB Places.all s2 addOps = true ∧ scalarOf s2 addOps.a = .null ∧ scalarOf s2 addOps.b = .data 0) := by decide
theorem witness_Compares :
    let o : Operands := { dst := .s 1, mod := .cmp .lt p0, a := rs 2, b := rs 3, c := .unread }
    let q : Operands := { o with dst := .p 1 }
    Safety.Admitted Places.all onTask o ∧ Safety.predicate onTask o = true ∧ Safety.Supplied onTask o ∧ Safety.Supplied onTask q ∧
      Safety.predicate onTask { o with mod := .cmp .lt pn0 } = false :=
  ⟨adm (by decide), by decide, sup (by decide), sup (by decide), by decide⟩
theorem witness_PredicateLogic :
    let o : Operands := { dst := .p 1, mod := .plain p0, a := rx (.p 2), b := rx (.q 3), c := .unread }
    Safety.Admitted Places.all onTask o ∧ Safety.active onTask o ≠ 0 ∧ Safety.Supplied onTask o ∧
      Safety.active onTask { o with mod := .plain pn0 } = 0 := ⟨adm (by decide), by decide, sup (by decide), by decide⟩
/-- A channel without a route; an empty field B with FET after a full field A; an empty field A without; a full send buffer; an empty destination. -/
theorem witness_EmptySources :
    let s := withEmpty onTask 3
    let o := { addOps with b := withFet (rs 3) }
    let c := { addOps with dst := .o 0 }
    Safety.Admitted Places.all onTask c ∧ Safety.predicate onTask c = true ∧ (outOf onTask 0).route = none ∧
    (emptyOn s o.a = none ∧ emptyOn s o.b ≠ none ∧ Field.fet o.b = true) ∧
    (emptyOn s addOps.b = some (.register (.s 3)) ∧ Field.fet addOps.b = false ∧ Safety.predicate s addOps = true) ∧
    (Safety.Full (withOut onTask 2) [c.a, c.b, c.c] ∧ (outOf (withOut onTask 2) 0).route ≠ none ∧ 2 ≤ (outOf (withOut onTask 2) 0).send.length) ∧
    (Safety.Full (withEmpty onTask 1) [addOps.a, addOps.b, addOps.c] ∧ ((thread (withEmpty onTask 1)).regs.s.get 1).full = false) :=
  ⟨adm (by decide), by decide, by decide, by decide, by decide, ⟨full (by decide), by decide, by decide⟩, full (by decide), by decide⟩

/-! ### Hypotheses met: vectors and tokens -/

/-- Three vector sources into v1. -/
def vecOps : Operands := { dst := .v 1, mod := m0, a := rv 2, b := rv 3, c := rv 4 }
/-- Registers carry no tag and, at zero, no abandoned pattern. -/
theorem witness_vectors (fs : List (Nat × Field)) (tags : Nat → List Fmt) (fp : Bool) (m : W64)
    (h : ∀ f ∈ fs, f.2 = vecOps.a ∨ f.2 = vecOps.b ∨ f.2 = vecOps.c) : Safety.Admitted Places.sites onTask vecOps ∧
      Safety.VectorSupplied onTask vecOps fs tags fp m := by
  refine ⟨adm (by decide), fun f hf => ?_, room (by decide)⟩
  have z : ∀ g, (g = vecOps.a ∨ g = vecOps.b ∨ g = vecOps.c) → emptyOn onTask g = none ∧ Field.chan g = none ∧
      ∀ i, (vectorOf onTask g).get i = .data 0 := by
    rintro g (rfl | rfl | rfl) <;> decide
  obtain ⟨e, c, v⟩ := z f.2 (h f hf)
  refine ⟨e, fun d t hd => by simp [c] at hd, fun _ i w _ hw => ?_⟩
  rw [v i] at hw
  cases hw
  decide
theorem witness_VectorArithmetic (ty : VType) (x : Safety.VectorClaim) (h : x ∈ Safety.vectorClaims ty vecOps) :
    Safety.Admitted Places.sites onTask vecOps ∧ Safety.VectorSupplied onTask vecOps x.fields x.tags x.fp32 (Safety.active onTask vecOps) := by
  apply witness_vectors
  simp only [Safety.vectorClaims, List.mem_cons, List.not_mem_nil, or_false] at h
  rcases h with rfl | rfl | rfl | rfl | rfl | rfl | rfl | rfl | rfl | rfl | rfl | rfl | rfl | rfl | rfl | rfl | rfl <;>
    simp [Safety.arithClaim, Safety.wordClaim]
theorem witness_VectorCompare (ty : VType) : Safety.Admitted Places.sites onTask { vecOps with dst := .p 1 } ∧
    Safety.VectorSupplied onTask { vecOps with dst := .p 1 } [(0, vecOps.a), (1, vecOps.b)] (fun _ => VType.tags ty) (ty == .f32)
      (Safety.active onTask { vecOps with dst := .p 1 }) :=
  ⟨adm (by decide), (witness_vectors [(0, vecOps.a), (1, vecOps.b)] (fun _ => VType.tags ty) (ty == .f32)
    (Safety.active onTask { vecOps with dst := .p 1 }) (by simp)).2.1, room (by decide)⟩
theorem witness_VectorConvert (fd fs : Fmt) : Safety.Admitted Places.sites onTask vecOps ∧
    Safety.VectorSupplied onTask vecOps [(0, vecOps.a)] (fun _ => [fs]) (fs == .fp32)
      (convActive fs fd (convPart vecOps.b) (Safety.active onTask vecOps)) := witness_vectors _ _ _ _ (by simp)
/-- A token of tag 110 as an FP32 source; an abandoned pattern in a lane that is active. -/
theorem witness_VectorChecks :
    let s := withTokens onTask [tok .int8 1]
    let t := withV onTask 2 (Vector.replicate 64 (.data 0x7FD00000))
    let o := { vecOps with a := rc 0 }
    Safety.Admitted Places.sites s o ∧ dstFaults s o.dst = .ok () ∧ ¬ Safety.Tagged s o.a (VType.tags .f32) ∧
      (∀ f ∈ [o.a, o.b], emptyOn s f = none) ∧ ¬ Safety.NoneAbandoned t vecOps.a (Safety.active t vecOps) := by
  refine ⟨adm (by decide), rfl, fun h => ?_, by decide, fun h => ?_⟩
  · exact absurd (h 0 (tok .int8 1) (by decide) (by decide) (.inl (by decide))) (by decide)
  · exact absurd (h 0 0x7FD00000 (by decide) (by decide)) (by decide)
theorem witness_LaneMoves : Safety.Admitted Places.sites onTask vecOps ∧ Safety.Supplied onTask vecOps := ⟨adm (by decide), sup (by decide)⟩
/-- VRED of FP32 sums, VEXT of lane 0, of an index beyond 63, and with a false predicate. -/
theorem witness_Reductions :
    let o := { vecOps with dst := .s 1, c := .word 1 }
    let s := withS onTask [(3, 64)]
    Safety.Admitted Places.sites onTask o ∧ Safety.ReduceSupplied onTask o ∧ Safety.predicate onTask o = true ∧ Safety.Supplied onTask o ∧
      (scalarOf s (rs 3) = .data 64 ∧ scalarOf onTask (rs 3) = .data 0) ∧ Safety.predicate onTask { o with mod := .arith .rne false pn0 } = false := by
  refine ⟨adm (by decide), ⟨?_, room (by decide)⟩, by decide, sup (by decide), by decide, by decide⟩
  exact (witness_vectors [(0, vecOps.a)] (fun _ => [ctlType 1]) (ctlType 1 == .fp32)
    (Safety.active onTask { vecOps with dst := .s 1, c := .word 1 }) (by simp)).2.1
/-- A send of field A on channel 0, with the sequence tag of field B and without. -/
theorem witness_Sending :
    let s := withOut onTask 1
    let o : Operands := { dst := .none, mod := .plain p0, a := rs 2, b := rs 3, c := .word 0x100 }
    Safety.Admitted Places.sites s o ∧ Safety.predicate s o = true ∧ Safety.Full s [o.a, o.b] ∧ Safety.Room s (.o (sendOut (Field.control o.c))) ∧
      Safety.predicate s { o with mod := .plain pn0 } = false := ⟨adm (by decide), by decide, full (by decide), room (by decide), by decide⟩
theorem witness_LookingAtChannels :
    let s := withTokens onTask [tok .int32 7]
    let o : Operands := { dst := .s 1, mod := .plain p0, a := rc 0, b := .unread, c := .unread }
    Safety.Admitted Places.sites s o ∧ Field.chan o.a = some 0 ∧ headToken s 0 = some (tok .int32 7) ∧ Safety.predicate s o = true ∧
      Safety.Supplied s o ∧ Safety.Supplied s { o with dst := .v 1 } ∧ Safety.predicate s { o with mod := .plain pn0 } = false :=
  ⟨adm (by decide), by decide, by decide, by decide, sup (by decide), sup (by decide), by decide⟩
theorem witness_TilePredicates :
    let o : Operands := { dst := .q 1, mod := .plain p0, a := rs 2, b := rs 3, c := .unread }
    Safety.Admitted Places.sites onTask o ∧ Safety.predicate onTask o = true ∧ Safety.Supplied onTask o ∧
      Safety.predicate onTask { o with mod := .plain pn0 } = false := ⟨adm (by decide), by decide, sup (by decide), by decide⟩

/-! ### Hypotheses met: exits, calls, traps of the table -/

/-- `xj` with an exit to word 1: the table is word 1 itself. -/
def exitOps (n : Fin 8) : Operands := { dst := .none, mod := .exit n, a := rs 2, b := .unread, c := .unread }
/-- A table of two exits, to words 0 and 1,023. -/
def withTable (s : State) : State := withWord s 1 (BitVec.ofNat 128 (1023 * 2 ^ 32))
/-- With a call stack of `n` entries. -/
def withCalls (n : Nat) : State := withThread (withTable onTask) fun t => { t with callStack := List.replicate n 5 }
theorem tableOk : Safety.TableOk (withCalls 7) 2 :=
  ⟨by decide, by decide, by decide, fun j hj hk =>
    (by decide : ∀ j, j < 4 → 2 ≤ j → bits (wordAt (withCalls 7) (withCalls 7).cur ((thread (withCalls 7)).pc + 1 + j / 4)) (32 * (j % 4)) 32 = 0) j hk hj⟩
/-- A table with a target of −1. -/
theorem tableBad : ¬ Safety.TableOk (withWord onTask 1 (BitVec.ofNat 128 0xFFFFFFFF)) 1 := fun h =>
  absurd (h.2.2.1 0 (by decide)).1 (by decide)
theorem witness_Exits :
    let s := withCalls 7
    Safety.Admitted Places.all s (exitOps 1) ∧ Mod.exits (exitOps 1).mod = 2 ∧ Safety.TableOk s 2 ∧ Safety.Supplied s (exitOps 1) ∧
      Mod.exits (exitOps 0).mod = 1 ∧ ¬ Safety.TableOk (withWord onTask 1 (BitVec.ofNat 128 0xFFFFFFFF)) 1 :=
  ⟨adm (by decide), by decide, tableOk, sup (by decide), by decide, tableBad⟩
theorem witness_Calls :
    Safety.Admitted Places.all (withCalls 7) (exitOps 1) ∧ (thread (withCalls 7)).callStack.length < 8 ∧ Safety.TableOk (withCalls 7) 2 ∧
      8 ≤ (thread (withCalls 8)).callStack.length ∧ (thread (withCalls 0)).callStack = [] ∧ (thread (withCalls 1)).callStack = 5 :: [] :=
  ⟨adm (by decide), by decide, tableOk, by decide, by decide, by decide⟩

/-! ### Hypotheses met: loads and stores -/

/-- A step that answers a next state in which the stream has gone on. -/
def advB (i : Instr) (s : State) : Bool :=
  match exec i s with
  | .next t => (thread t).pc == (thread s).pc + 1 && (thread t).blockCount == (thread s).blockCount + 1
  | _ => false
theorem adv {i : Instr} {s : State} (h : advB i s = true) : ∃ t, exec i s = .next t ∧ Safety.Advanced (thread s) (thread t) := by
  unfold advB at h
  split at h
  · rename_i t e; exact ⟨t, e, by simpa [Safety.Advanced] using h⟩
  · cases h
/-- A claim about the task `here` where it executes. -/
theorem onHere {s : State} {P : TaskKey → Prop} (hc : s.cur = .task here) (h : P here) : ∀ k, s.cur = .task k → P k := by
  intro k hk; rw [hc] at hk; cases hk; exact h
/-- The gate of an ordering as a Bool, in a core whose side log is empty. -/
def gateB (s : State) (m : MemOrder) (c : Scope) : Bool :=
  ((thread s).producers.all fun p => p.acq == none) &&
    match s.cur with
    | .task k => (coreOf s k.core).sideLog.isEmpty && (!MemOrder.releases m || released s k c) &&
        (!(MemOrder.acquires m && !MemOrder.releases m && Scope.far c) || farAcked s k)
    | _ => true
/-- The gate of an ordering. -/
theorem gate {s : State} {m : MemOrder} {c : Scope} (h : gateB s m c = true) : Safety.GateOpen s m c := by
  rw [gateB, Bool.and_eq_true] at h
  refine ⟨by simpa using h.1, fun k hk => ?_⟩
  have h' := h.2
  simp only [hk, Bool.and_eq_true, Bool.or_eq_true, Bool.not_eq_true', List.isEmpty_iff] at h'
  obtain ⟨⟨h1, h2⟩, h3⟩ := h'
  refine ⟨fun e he => ?_, fun hr => h2.resolve_left (by simp [hr]), fun ha hr hf => h3.resolve_left (by simp [ha, hr, hf])⟩
  rw [h1] at he; cases he
/-- A memory instruction with memOps' fields issues. -/
theorem memIssues {s : State} {p : Places} {o : Operands} (h : readyB p s o = true) (hp : predHolds (thread s).regs (Field.pred o.a) = true)
    (hg : gateB s (Mod.order o.mod) (Mod.scope o.mod) = true) : Safety.MemIssues p o s := by
  simp only [readyB, Bool.and_eq_true] at h
  exact ⟨adm (by simp [h.1.1.1, h.1.1.2]), hp, ⟨full h.1.2, room h.2⟩, gate hg⟩
/-- A load's operands. -/
def ldOps : Operands := { memOps with c := .unread }
/-- A vector load's operands. -/
def ldvOps : Operands := { memOps with dst := .v 1, c := .word 0 }

/-- The name of the task of the tests. -/
def me : TaskRef := { launch := 1, region := 0, x := 0, y := 0, slot := 0 }
/-- A load of the word at an address that is outstanding. -/
def withLoad (s : State) (va : W64) : State :=
  withThread s fun t => { t with producers := [{ id := 0, state := .load .discard [{ lane := 0, va := va, bytes := 4, got := none }] .task 0, acq := none, held := false }] }
/-- Window 0 of 1 GiB at 2^48, to node 0 of the fabric by port 0, which is up. -/
def withFabric (s : State) : State :=
  { s with mem := writeBytes [] 0 [1],
           glob := { s.glob with floholtUp := 1, windows := s.glob.windows.set 0 { base := 0x1000000000000, size := 1, tgt := 1, rbase := 0 } } }
/-- Window 0 of 1 GiB at 2^48, on the CXL port of die 0, which is up. -/
def withHost (s : State) : State :=
  { s with glob := { s.glob with cxlUp := 1, windows := s.glob.windows.set 0 { base := 0x1000000000000, size := 1, tgt := 3, rbase := 0 } } }

theorem witness_LoadsChangeNoMemory :
    (∃ t, exec (.ldw ldOps) (atLocal onTask 0xFFFC) = .next t ∧ Safety.Advanced (thread (atLocal onTask 0xFFFC)) (thread t)) ∧
    (∃ t, exec (.pref { memOps with dst := .none, c := .unread }) onTask = .next t ∧ Safety.Advanced (thread onTask) (thread t)) ∧
    predHolds (thread (atLocal onTask 0xFFFC)).regs (Field.pred ldOps.a) = true ∧ predBits (thread onTask).regs (Field.pred ldOps.a) ≠ 0 :=
  ⟨adv (by decide), adv (by decide), by decide, by decide⟩
/-- An `Except` that is a value. -/
def okB {ε α : Type} [DecidableEq α] (x : Except ε α) (a : α) : Bool :=
  match x with
  | .ok b => b == a
  | _ => false
theorem ok {ε α : Type} [DecidableEq α] {x : Except ε α} {a : α} (h : okB x a = true) : x = .ok a := by
  cases x with
  | ok b => rw [show b = a by simpa [okB] using h]
  | error e => cases h
/-- Every memory unit is up. -/
def withReady (s : State) : State := { s with dbg := { s.dbg with ready := BitVec.allOnes 64 } }
/-- An address whose translation is `t`. -/
def goesTo (s : State) (va : W64) (n : Nat) (rd wr : Bool) (t : Target) : Bool :=
  match translate s va n rd wr with
  | .ok u => u == t
  | _ => false
theorem goes {s : State} {va : W64} {n : Nat} {rd wr : Bool} {t : Target} (h : goesTo s va n rd wr t = true) :
    translate s va n rd wr = .ok t := by
  unfold goesTo at h
  split at h
  · rename_i u e; rw [e, show u = t by simpa using h]
  · cases h
/-- The last word of the local store; a word of memory, of a bank and of a host window that no port reaches; an absent page; an address of a leaf; a
misaligned address and one that is not canonical. -/
theorem witness_ScalarLoads :
    let s1 := atLocal onTask 0xFFFC
    let s2 := atVa (withPage onTask 1) 0x1FFFC
    let s3 := atVa (withPage onTask 0x8000000) 0x10000
    let s4 := atVa (withHost (withPage onTask 0x100000000)) 0x10000
    let s5 := atVa (withHole onTask) 0x10000
    let s6 := atVa onLeaf 0x80000000000
    Safety.MemIssues Places.all ldOps s1 ∧ Safety.MemIssues Places.all ldOps s2 ∧ Safety.MemIssues Places.all ldOps s6 ∧
    ((thread s1).producers.length < 16 ∧ scalarOf s1 ldOps.a = .data 0xFFFF00000000FFFC ∧ scalarOf s1 ldOps.b = .data 0) ∧
    translate s1 0xFFFF00000000FFFC 4 true false = .ok (.localStore 0xFFFC) ∧
    (translate s2 0x1FFFC 4 true false = .ok (.mem 0x1FFFC) ∧ performedAtIssue s2 0x1FFFC .task = false ∧ physKind 0x1FFFC ≠ .far) ∧
    (translate s3 0x10000 4 true false = .ok (.mem 0x80000000000) ∧ performedAtIssue s3 0x80000000000 .task = true) ∧
    (translate s4 0x10000 4 true false = .ok (.mem 0x1000000000000) ∧ performedAtIssue s4 0x1000000000000 .task = false ∧
      physKind 0x1000000000000 = .far) ∧
    (translate s5 0x10000 4 true false = .ok (.page false) ∧ faultKnown s5 (taskFault s5 here 0x10000 false .load 0xFFFFFFFF) = false) ∧
    (translate s6 0x80000000000 4 true false = .ok (.mem 0x80000000000) ∧ performedAtIssue s6 0x80000000000 .task = true) ∧
    ((0xFFFD : W64).toNat % 4 ≠ 0 ∧ canonical 0x0100000000000000 = false ∧ canonical 0x00FFFFFFFFFFFFFC = true) := by
  refine ⟨memIssues (by decide) (by decide) (by decide), memIssues (by decide) (by decide) (by decide),
    memIssues (by decide) (by decide) (by decide), by decide, goes (by decide), ⟨goes (by decide), by decide, by decide⟩,
    ⟨goes (by decide), by decide⟩, ⟨goes (by decide), by decide, by decide⟩, ⟨goes (by decide), by decide⟩, ⟨goes (by decide), by decide⟩, by decide⟩
/-- An uncorrectable error in a line. -/
def withBad (s : State) (line : Nat) : State := { s with badLines := [(line, BitVec.allOnes 128)] }
/-- Behind a load of the bytes; an error in the line; a bank that answers at once; a host window, by its port and by none; with 15 producers counted, and 16. -/
theorem witness_ScalarLoads_busy :
    let s2 := atVa (withPage onTask 1) 0x1FFFC
    let s3 := atVa (withReady (withPage onTask 0x8000000)) 0x10000
    let s4 := atVa (withPage onTask 0x100000000) 0x10000
    let out (n : Nat) := withThread onTask fun t => { t with producers := List.replicate n { id := 0, state := .performed (.scalar 1 .null), acq := none, held := false } }
    Safety.MayIssue s2 ∧ bytesBusy (withLoad s2 0x1FFFC) 0x1FFFC 4 = true ∧ bytesBusy s2 0x1FFFC 4 = false ∧
    (curLaunch (withBad s2 0x3FF) = some 1 ∧ l1Has (withBad s2 0x3FF) 0 0x1FFFC 4 = false ∧ lineBad (withBad s2 0x3FF) (0x1FFFC / 128) = true ∧
      bytesBusy (withBad s2 0x3FF) 0x1FFFC 4 = false) ∧
    (okB (readAtPlace s3 0x80000000000 4 (Scope.far .task)) [0, 0, 0, 0] = true ∧ bytesBusy s3 0x10000 4 = false) ∧
    (Safety.Unreachable s4 0x1000000000000 ∧ ¬ Safety.Unreachable (withHost s4) 0x1000000000000 ∧ (withHost s4).cur = .task here ∧
      (hostLoad (withHost s4) here 0x10000 0x1000000000000 4 0).toBool = false) ∧
    Safety.MayIssue (out 15) ∧ ¬ Safety.MayIssue (out 16) := by
  unfold Safety.MayIssue Safety.Unreachable
  decide
/-- The lanes' conditions of a contiguous access of all lanes from an address, where the whole span goes to one place. -/
theorem lanesIssue {s : State} {o : Operands} (h : readyB Places.sites s o = true) (hp : predBits (thread s).regs (Field.pred o.a) ≠ 0)
    (hg : gateB s (Mod.order o.mod) (Mod.scope o.mod) = true) : Safety.LanesIssue o s := by
  simp only [readyB, Bool.and_eq_true] at h
  exact ⟨adm (by simp [h.1.1.1, h.1.1.2]), hp, ⟨full h.1.2, room h.2⟩, gate hg⟩
/-- p1 with lanes 0 and 63, and the operands under it. -/
def twoLanes (s : State) : State := mapRegs s fun r => Regs.writeP r 1 0x8000000000000001
def underP1 (o : Operands) : Operands := { o with a := withPi o.a 1 }
/-- `LanesLegal` of a contiguous access whose addresses and span are given. -/
theorem legal {s : State} {m a b : W64} {idx : Vector Lane 64} {rd wr : Bool} {va : W64} {n : Nat} {t : Target}
    (h1 : ((Safety.laneAddresses .contig m a b idx).all fun x => x.2.toNat % 4 == 0) = true) (h2 : canonical (a + b) = true)
    (h3 : contigSpan (a + b) m = some (va, n)) (h4 : translate s va n rd wr = .ok t) : Safety.LanesLegal s .contig m a b idx rd wr := by
  refine ⟨by simpa using h1, by simpa using h2, fun _ x hx => ?_⟩
  rw [h3] at hx; cases hx
  exact ⟨t, h4⟩
theorem witness_VectorLoads :
    let s1 := twoLanes (atLocal onTask 0xFF00)
    let s2 := twoLanes (atVa (withPage onTask 1) 0x10000)
    let o := underP1 ldvOps
    let idx : Vector Lane 64 := Vector.replicate 64 .null
    (predBits (thread onTask).regs (Field.pred o.a) = 0 ∧ Safety.Admitted Places.sites onTask o) ∧
    Safety.LanesIssue o s1 ∧ Safety.LanesIssue o s2 ∧ (thread s1).producers.length < 16 ∧
    Safety.LaneSources s1 o .contig 0xFFFF00000000FF00 0 idx ∧
    Safety.LanesLegal s1 .contig 0x8000000000000001 0xFFFF00000000FF00 0 idx true false ∧
    (∀ l ∈ Safety.laneAddresses .contig 0x8000000000000001 0xFFFF00000000FF00 0 idx, ∃ off, translate s1 l.2 4 true false = .ok (.localStore off)) ∧
    Safety.LanesLegal s2 .contig 0x8000000000000001 0x10000 0 idx true false ∧
    (∀ l ∈ Safety.laneAddresses .contig 0x8000000000000001 0x10000 0 idx, ∃ pa, translate s2 l.2 4 true false = .ok (.mem pa) ∧
      performedAtIssue s2 pa .task = false ∧ physKind pa ≠ .far) := by
  refine ⟨⟨by decide, adm (by decide)⟩, lanesIssue (by decide) (by decide) (by decide),
    lanesIssue (by decide) (by decide) (by decide), by decide, ⟨by decide, by decide⟩,
    legal (by decide) (by decide) (va := 0xFFFF00000000FF00) (n := 256) (by decide) (goes (t := .localStore 0xFF00) (by decide)), ?_,
    legal (by decide) (by decide) (va := 0x10000) (n := 256) (by decide) (goes (t := .mem 0x10000) (by decide)), ?_⟩
  · rw [show Safety.laneAddresses .contig 0x8000000000000001 0xFFFF00000000FF00 0 (Vector.replicate 64 .null) =
      [(0, 0xFFFF00000000FF00), (63, 0xFFFF00000000FFFC)] by decide]
    rintro l hl
    simp only [List.mem_cons, List.not_mem_nil, or_false] at hl
    rcases hl with rfl | rfl
    · exact ⟨0xFF00, goes (by decide)⟩
    · exact ⟨0xFFFC, goes (by decide)⟩
  · rw [show Safety.laneAddresses .contig 0x8000000000000001 0x10000 0 (Vector.replicate 64 .null) = [(0, 0x10000), (63, 0x100FC)] by decide]
    rintro l hl
    simp only [List.mem_cons, List.not_mem_nil, or_false] at hl
    rcases hl with rfl | rfl
    · exact ⟨0x10000, goes (by decide), by decide, by decide⟩
    · exact ⟨0x100FC, goes (by decide), by decide, by decide⟩

/-- A home line's state. -/
def withHome (s : State) (line : Nat) (h : HomeLine) : State := setHomeLine s line h
/-- A line of the L1 of core 0 of which all words are owned and dirty. -/
def ownedLine : L1Line := { owned := 0xFFFFFFFF, clean := 0, dirty := BitVec.allOnes 128, valid := 0, content := 0, prio := 0, used := 0, lids := [] }
/-- Core 0 changed. -/
def onCore (s : State) (f : Core → Core) : State := setCore s 0 (f (coreOf s 0))
/-- The L1 of core 0 holds lines that it owns. -/
def withLines (s : State) (ls : List Nat) : State := onCore s fun x => { x with l1 := ls.map fun l => (l, ownedLine) }
/-- A store to a byte at address 0. -/
def logEntry (s : State) : LogEntry :=
  { id := 0, task := refOr s here, space := 0, gen := 0, va := 0, content := [some 0], maj := 0, fn := 0, operand := 0, comparand := 0, ord := .rlx, scope := .task, evict := 0, also := [] }
/-- The side log of core 0 with `n` such stores. -/
def withLog (s : State) (n : Nat) : State := onCore s fun x => { x with sideLog := List.replicate n (logEntry s) }
/-- A store's operands. -/
def stOps : Operands := { memOps with dst := .none }
set_option maxRecDepth 8000 in
/-- The last word of the local store; memory, with a free set of the L1 and with a full one; a bank; a leaf; an absent page with room in the side log and
with none; a misaligned address and one that is not canonical. -/
theorem witness_ScalarStores :
    let s1 := atLocal onTask 0xFFFC
    let s2 := atVa (withPage onTask 1) 0x1FFFC
    let s2' := withLines s2 ((List.range 12).map fun i => 1024 * i)
    let s3 := atVa (withPage onTask 0x8000000) 0x10000
    let s5 := atVa (withHole onTask) 0x10000
    let s6 := atVa (withReady onLeaf) 0x10000
    Safety.MemIssues Places.all stOps s1 ∧ Safety.MemIssues Places.all stOps s2 ∧ Safety.MemIssues Places.all stOps s6 ∧
    (scalarOf s2 stOps.a = .data 0x1FFFC ∧ scalarOf s2 stOps.b = .data 0 ∧ Memory.wf s2.mem = true ∧ Memory.wf (Safety.localMem s2) = true ∧
      loadOverlaps (thread s2).producers 0x1FFFC 4 = false) ∧
    translate s1 0xFFFF00000000FFFC 4 false true = .ok (.localStore 0xFFFC) ∧
    (translate s2 0x1FFFC 4 false true = .ok (.mem 0x1FFFC) ∧ performedAtIssue s2 0x1FFFC .task = false ∧ logOverlaps s2 here 0x1FFFC 4 = false ∧
      victim (coreOf s2 0) (0x1FFFC / 128) = none) ∧
    (translate s3 0x10000 4 false true = .ok (.mem 0x80000000000) ∧ physKind 0x80000000000 = .bank 0 0 ∧ logOverlaps s3 here 0x10000 4 = false) ∧
    (translate s6 0x10000 4 false true = .ok (.mem 0x10000) ∧ onSite s6 = false ∧ physKind 0x10000 = .hbm 0 ∧ homeBusy s6 0x10000 4 = false) ∧
    (translate s5 0x10000 4 false true = .ok (.page false) ∧ (coreOf (withLog s5 511) 0).sideLog.length < 512 ∧
      512 ≤ (coreOf (withLog s5 512) 0).sideLog.length) ∧
    (victim (coreOf s2' 0) 0 = none ∧ victim (coreOf s2' 0) 12288 = some 0 ∧ (l1Line (coreOf s2' 0) 0).owned ≠ 0) := by
  refine ⟨memIssues (by decide) (by decide) (by decide), memIssues (by decide) (by decide) (by decide),
    memIssues (by decide) (by decide) (by decide), by decide, goes (by decide), ⟨goes (by decide), by decide⟩,
    ⟨goes (by decide), by decide⟩, ⟨goes (by decide), by decide⟩, ⟨goes (by decide), by decide⟩, by decide⟩
set_option maxRecDepth 8000 in
/-- Behind a load and behind a logged store of the bytes; a bank and a home where no core owns the word; a window that nothing serves. -/
theorem witness_ScalarStores_held :
    let s2 := atVa (withPage onTask 1) 0x1FFFC
    let s3 := atVa (withPage onTask 0x8000000) 0x10000
    let s4 := atVa (withPage onTask 0x100000000) 0x10000
    let s6 := atVa (withReady onLeaf) 0x10000
    let log := onCore s2 fun x => { x with sideLog := [{ logEntry s2 with va := 0x1FFFE }] }
    (loadOverlaps (thread (withLoad s2 0x1FFFC)).producers 0x1FFFC 4 = true ∧ (log.cur = .task here ∧ logOverlaps log here 0x1FFFC 4 = true) ∧
      loadOverlaps (thread log).producers 0x1FFFC 4 = false) ∧
    (coreOwned s3 0x80000000000 4 = false ∧ coreOwned s6 0x10000 4 = false ∧ coreOwned (withHome s6 512 { HomeLine.unregistered with owners := [(0, 1)] }) 0x10000 4 = true) ∧
    (translate s4 0x10000 4 false true = .ok (.mem 0x1000000000000) ∧ Safety.Unreachable s4 0x1000000000000 ∧ ¬ Safety.Unreachable (withFabric s4) 0x1000000000000) := by
  refine ⟨by decide, by decide, goes (by decide), by unfold Safety.Unreachable; decide⟩
/-- A vector store's operands. -/
def stvOps : Operands := { memOps with dst := .none, c := rv 4 }
/-- Lanes 0 and 63 of a contiguous store into the last 256 bytes of the local store, and into memory. -/
theorem witness_VectorStores :
    let s1 := twoLanes (atLocal onTask 0xFF00)
    let s2 := twoLanes (atVa (withPage onTask 1) 0x10000)
    let o := underP1 stvOps
    let idx : Vector Lane 64 := Vector.replicate 64 .null
    let l1 := Safety.laneAddresses .contig 0x8000000000000001 0xFFFF00000000FF00 0 idx
    let l2 := Safety.laneAddresses .contig 0x8000000000000001 0x10000 0 idx
    (predBits (thread onTask).regs (Field.pred o.a) = 0 ∧ Safety.Admitted Places.sites onTask o) ∧
    Safety.LanesIssue o s1 ∧ Safety.LanesIssue o s2 ∧ Safety.LaneSources s1 o .contig 0xFFFF00000000FF00 0 idx ∧
    Safety.LanesLegal s1 .contig 0x8000000000000001 0xFFFF00000000FF00 0 idx false true ∧
    ([0xFF00, 0xFFFC].length = l1.length ∧ l1 = [(0, 0xFFFF00000000FF00), (63, 0xFFFF00000000FFFC)] ∧
      translate s1 0xFFFF00000000FF00 4 false true = .ok (.localStore 0xFF00) ∧ translate s1 0xFFFF00000000FFFC 4 false true = .ok (.localStore 0xFFFC)) ∧
    Safety.LanesLegal s2 .contig 0x8000000000000001 0x10000 0 idx false true ∧
    (l2 = [(0, 0x10000), (63, 0x100FC)] ∧ translate s2 0x10000 4 false true = .ok (.mem 0x10000) ∧ translate s2 0x100FC 4 false true = .ok (.mem 0x100FC) ∧
      performedAtIssue s2 0x10000 .task = false ∧ performedAtIssue s2 0x100FC .task = false ∧ logOverlaps s2 here 0x10000 4 = false ∧
      logOverlaps s2 here 0x100FC 4 = false) := by
  refine ⟨⟨by decide, adm (by decide)⟩, lanesIssue (by decide) (by decide) (by decide),
    lanesIssue (by decide) (by decide) (by decide), ⟨by decide, by decide⟩,
    legal (by decide) (by decide) (va := 0xFFFF00000000FF00) (n := 256) (by decide) (goes (t := .localStore 0xFF00) (by decide)),
    ⟨by decide, by decide, goes (by decide), goes (by decide)⟩,
    legal (by decide) (by decide) (va := 0x10000) (n := 256) (by decide) (goes (t := .mem 0x10000) (by decide)),
    by decide, goes (by decide), goes (by decide), by decide⟩
theorem witness_Prefetch :
    let o := { memOps with dst := .none, c := .unread }
    Safety.Admitted Places.sites onTask o ∧ predBits (thread onTask).regs (Field.pred o.a) ≠ 0 ∧ Safety.Supplied onTask o ∧
      predBits (thread onTask).regs (Field.pred (withPi o.a 1)) = 0 := ⟨adm (by decide), by decide, sup (by decide), by decide⟩

/-! ### Hypotheses met: atomics, sync instructions, barriers -/

set_option maxRecDepth 8000 in
/-- An update in the local store; in the task's L1, on a line that it owns and has whole, and on one that it does not hold; at its home for a die's
scope; in a bank; over the fabric; at an unreachable address; behind a load of its bytes; on an absent page; and data that is abandoned. -/
theorem witness_Atomics :
    let s1 := atLocal onTask 0xFFF8
    let s2 := withLines (atVa (withPage onTask 1) 0x10000) [512]
    let s3 := atVa (withPage onTask 0x8000000) 0x10000
    let s4 := atVa (withPage onTask 0x100000000) 0x10000
    let s5 := atVa (withHole onTask) 0x10000
    let o := { memOps with mod := .mem .rlx .die 0 }
    Safety.MemIssues Places.all memOps s1 ∧ Safety.MemIssues Places.all memOps s2 ∧ Safety.MemIssues Places.sites memOps s3 ∧
      Safety.MemIssues Places.all o s2 ∧
    (Safety.MayIssue s2 ∧ Memory.wf s2.mem = true ∧ Memory.wf (Safety.localMem s2) = true ∧ scalarOf s2 memOps.a = .data 0x10000 ∧
      scalarOf s2 memOps.b = .data 0) ∧
    (translate s1 0xFFFF00000000FFF8 8 true true = .ok (.localStore 0xFFF8) ∧ bytesBusy s1 0xFFFF00000000FFF8 8 = false) ∧
    (translate s2 0x10000 8 true true = .ok (.mem 0x10000) ∧ bytesBusy s2 0x10000 8 = false ∧ bytesBusy (withLoad s2 0x10004) 0x10000 8 = true ∧
      physKind 0x10000 = .hbm 0 ∧ halfReady s2 0x10000 true = true ∧ inL1 s2 .task = true ∧
      (l1Line (coreOf s2 0) 512).owned &&& wordsOf 0 8 = wordsOf 0 8 ∧ l1Has s2 0 0x10000 8 = true ∧ l1Has (withLines s2 []) 0 0x10000 8 = false ∧
      inL1 s2 .die = false ∧ homeBusy (withLines s2 []) 0x10000 8 = false ∧ coreOwned (withLines s2 []) 0x10000 8 = false ∧
      badIn s2 0x10000 8 = false ∧ lineBad s2 512 = false ∧ lineBad (withBad (withLines s2 []) 512) 512 = true ∧
      (∀ p ∈ (coreOf (withBad (withLines s2 []) 512) 0).readsOut, p.1 ≠ 512) ∧ curLaunch (withBad (withLines s2 []) 512) = some 1) ∧
    (translate s3 0x10000 8 true true = .ok (.mem 0x80000000000) ∧ physKind 0x80000000000 = .bank 0 0) ∧
    (translate s4 0x10000 8 true true = .ok (.mem 0x1000000000000) ∧ Safety.Unreachable s4 0x1000000000000 ∧
      farTarget (withFabric s4) (curDie s4) 0x1000000000000 = .fabric 0 ∧ farTarget (withHost s4) (curDie s4) 0x1000000000000 = .host 0) ∧
    (translate s5 0x10000 8 true true = .ok (.page false) ∧ (coreOf (withLog s5 511) 0).sideLog.length < 512) ∧
    (isAbandoned (bits (0x7FD00000 : W64) 0 32) = true ∧ isAbandoned (bits (0x7FC00000 : W64) 0 32) = false) ∧
    (0x10004 : W64).toNat % 8 ≠ 0 := by
  refine ⟨memIssues (by decide) (by decide) (by decide), memIssues (by decide) (by decide) (by decide),
    memIssues (by decide) (by decide) (by decide), memIssues (by decide) (by decide) (by decide), by unfold Safety.MayIssue; decide,
    ⟨goes (by decide), by decide⟩, ⟨goes (by decide), by decide⟩, ⟨goes (by decide), by decide⟩,
    ⟨goes (by decide), by unfold Safety.Unreachable; decide, by decide, by decide⟩, ⟨goes (by decide), by decide⟩, by decide, by decide⟩

/-- A sync instruction issues. -/
theorem syncIssues {s : State} {o : Operands} (h : readyB Places.all s o = true) (hp : predHolds (thread s).regs (Field.pred o.a) = true)
    (hg : gateB s .rlx .task = true) : Safety.SyncIssues o s := by
  simp only [readyB, Bool.and_eq_true] at h
  exact ⟨adm (by simp [h.1.1.1, h.1.1.2]), hp, ⟨full h.1.2, room h.2⟩, gate hg⟩
/-- A sync word in memory of a task. -/
theorem syncWord {s : State} {a : W64} {pa : Nat} (h1 : okB (syncPa s a) pa = true) (h2 : physKind pa = .hbm 0) (h3 : homeBusy s pa 16 = false)
    (h4 : okB (homeOrdered s a pa 16) () = true) (h5 : badIn s pa 16 = false := by decide) : Safety.SyncWord s a pa :=
  ⟨ok h1, ⟨by rw [h2]; decide, fun d i => by rw [h2]; simp⟩, h3, ok h4, .inl h5⟩
/-- The region table of launch 1. -/
def withRegions (s : State) (t : Table RegionEntry) : State := setLaunch s 1 { launchOf s 1 with table := t }
/-- A region entry that names the sync word at 0x10010. -/
def entry : RegionEntry := { base := 0x10100, len := 64, sync := 0x10010 }
set_option maxRecDepth 8000 in
/-- BIND of 2^32 − 1 bytes in a launch with free entries and in one with none; on a leaf; lengths 0 and 2^32; UNBIND of entries 256, 255 and 0. -/
theorem witness_RegionBinding :
    let s := withS (withPage onTask 1) [(2, 0x10010), (3, 0x20000), (4, 0xFFFFFFFF)]
    let f := withRegions s ((List.range 256).map fun i => (i, entry))
    let l := withS (withReady onLeaf) [(2, 0x10010), (3, 0x20000), (4, 1)]
    let u (n : W64) := withRegions (withS (withPage onTask 1) [(2, n)]) [(0, entry)]
    Safety.SyncIssues memOps s ∧ Safety.SyncIssues memOps l ∧
    (scalarOf s memOps.a = .data 0x10010 ∧ scalarOf s memOps.b = .data 0x20000 ∧ scalarOf s memOps.c = .data 0xFFFFFFFF ∧ Memory.wf s.mem = true ∧
      (thread s).producers.length < 16 ∧ inWindow 0x20000 = false ∧ canonical 0x20000 = true ∧ curLaunch s = some 1 ∧ curLaunch l = none ∧
      (freeEntries (launchOf s 1)).length = 256 ∧ freeEntries (launchOf f 1) = []) ∧
    Safety.SyncWord s 0x10010 0x10010 ∧ Safety.SyncWord l 0x10010 0x10010 ∧
    (scalarOf onTask memOps.c = .data 0 ∧ (0x100000000 : W64).toNat = 2 ^ 32) ∧
    (scalarOf (u 256) memOps.a = .data 256 ∧ scalarOf (u 255) memOps.a = .data 255 ∧ Tab.find? (launchOf (u 255) 1).table 255 = none ∧
      Tab.find? (launchOf (u 0) 1).table 0 = some entry ∧ homeBusy (u 0) 0x10018 4 = false) := by
  refine ⟨syncIssues (by decide) (by decide) (by decide), syncIssues (by decide) (by decide) (by decide), by decide,
    syncWord (by decide) (by decide) (by decide) (by decide), syncWord (by decide) (by decide) (by decide) (by decide), by decide, by decide⟩
/-- A page table in memory from 0x100000: space 0 with its level-4 table there, and one 64 KiB page at 0x10000 mapped to itself. -/
def tables (base : Nat) : Memory :=
  let put (m : Memory) (a w : Nat) : Memory := writeBytes m a (leBytes 8 w)
  put (put (put (put (put (put [] 0x1000 (base + 1)) base (base + 0x1000 + 1)) (base + 0x1000) (base + 0x2000 + 1)) (base + 0x2000) (base + 0x3000 + 1))
    (base + 0x3000) (base + 0x4000 + 1)) (base + 0x4008) (0x10000 + 3)
/-- The die's space table at 0x1000, and these page tables. -/
def withTables (s : State) : State := { setDie (withReady s) 0 { dieOf s 0 with sptBase := 0x1000 } with mem := tables 0x100000 }
set_option maxRecDepth 8000 in
theorem witness_RegionBinding_unbind :
    let s := withRegions (withTables (withPage onTask 1)) [(0, entry)]
    Memory.wf s.mem = true ∧ walkPa s 0 (launchOf s 1).space 0x10010 = some 0x10010 ∧ okB (homeOrdered s 0x10010 0x10010 16) () = true ∧
      physKind (0x10010 + 8) = .hbm 0 ∧ homeBusy s (0x10010 + 8) 4 = false ∧ coreOwned s (0x10010 + 8) 4 = false ∧ 0x10010 % 16 = 0 ∧
      coreOwned (withS (withPage onTask 1) [(2, 0x10010)]) 0x10010 16 = false ∧ badIn s (0x10010 + 8) 4 = false := by decide
/-- A sync word with LOST clear; with LOST set; a release that is ready, and one that waits for a load. -/
theorem witness_SyncAcquireRelease :
    let s := withS (withPage onTask 1) [(2, 0x10010)]
    let o := { memOps with c := .word 1 }
    let lost := { s with mem := writeBytes [] 0x1001C [1] }
    let busy := withThread s fun t => { t with producers := [{ id := 0, state := .load .discard [{ lane := 0, va := 0, bytes := 4, got := none }] .task 0, acq := none, held := false }] }
    Safety.SyncIssues o s ∧ Safety.SyncIssues o lost ∧ Safety.SyncIssues o busy ∧ scalarOf s o.a = .data 0x10010 ∧ Safety.SyncWord s 0x10010 0x10010 ∧
      Safety.SyncWord lost 0x10010 0x10010 ∧ bit (homeByte s 0x1001C) 0 = false ∧ bit (homeByte lost 0x1001C) 0 = true ∧
      relReady s here 0x10010 = true ∧ relReady busy here 0x10010 = false := by
  refine ⟨syncIssues (by decide) (by decide) (by decide), syncIssues (by decide) (by decide) (by decide), syncIssues (by decide) (by decide) (by decide),
    by decide, syncWord (by decide) (by decide) (by decide) (by decide), syncWord (by decide) (by decide) (by decide) (by decide), by decide, by decide, by decide, by decide⟩
set_option maxRecDepth 8000 in
/-- A sync word of which a core owns a word, and of which none does; a release whose registration in a bound region is under way, and one whose was lost. -/
theorem witness_SyncAcquireRelease_owned :
    let s := withS (withPage onTask 1) [(2, 0x10010)]
    let owned := withHome s 512 { HomeLine.unregistered with owners := [(4, 1)] }
    let bound := { withRegions (withTables s) [(0, { entry with base := 0x10100 })] with mem := writeBytes (withTables s).mem 0x10018 [0, 0, 0, 0] }
    let out (lost : Bool) := onCore bound fun x => { x with regsOut := [{ who := [.task me], line := 514, mask := 1, lost := lost }] }
    coreOwned s 0x10010 8 = false ∧ coreOwned owned 0x10010 8 = true ∧ (1, 0x10) ∈ ownersOf (homeLine owned (0x10010 / 128)) 16 ∧ (0x10 : W32) &&& wordsIn (0x10010 / 128) 0x10010 8 ≠ 0 ∧
      (∃ g ∈ boundRegs (out true) here 0x10010, g.lost = true) ∧ (∀ g ∈ boundRegs (out false) here 0x10010, g.lost = false) ∧ relReady (out false) here 0x10010 = false ∧
      relReady bound here 0x10010 = true := by decide
/-- Ranges of 1 and 2^32 − 1 bytes, with no line owned; of 0 and 2^32; on a leaf; a fence that acquires for a die with its loads performed. -/
theorem witness_CacheControl :
    let s := withS onTask [(2, 0x10000), (3, 1)]
    let o : Operands := { dst := .none, mod := .mem .rlx .task 0, a := rs 2, b := rs 3, c := .unread }
    let f : Operands := { dst := .none, mod := .mem .acq .die 0, a := .unread, b := .unread, c := .unread }
    Safety.SyncIssues o s ∧ Safety.SyncIssues o onLeaf ∧ scalarOf s o.a = .data 0x10000 ∧ scalarOf s o.b = .data 1 ∧ canonical 0x10000 = true ∧
      scalarOf onTask o.b = .data 0 ∧ (thread s).producers = [] ∧ inWindow 0x10000 = false ∧
      ((coreOf s 0).l1.map (·.1)).filter (fun l => ownedIn s 0 l [] ≠ 0) = [] ∧
      (Safety.Admitted Places.all onTask f ∧ Safety.GateOpen onTask (Mod.order f.mod) (Mod.scope f.mod) ∧ MemOrder.acquires (Mod.order f.mod) = true ∧
        beyondCore onTask here (Mod.scope f.mod) = true) :=
  ⟨syncIssues (by decide) (by decide) (by decide), syncIssues (by decide) (by decide) (by decide), by decide, by decide, by decide, by decide, by decide,
    by decide, by decide, adm (by decide), gate (by decide), by decide, by decide⟩
set_option maxRecDepth 8000 in
/-- WBR of a page that holds a line that the core owns. -/
theorem witness_CacheControl_owned :
    let s := withLines (withTables (withPage onTask 1)) [512]
    pieces s 0 (launchOf s (launchOfTask s here)).space 0x10000 1 = [(0x10000, 1)] ∧
      ((coreOf s 0).l1.map (·.1)).filter (fun l => ownedIn s 0 l [(0x10000, 1)] ≠ 0) ≠ [] := by decide
/-- The last doubleword and word of the local store, equal to the comparand and not; a misaligned address; a word of memory. -/
theorem witness_WaitOnAddress :
    let s := atLocal onTask 0xFFF8
    let m := atVa (withPage onTask 1) 0x1FFF8
    let w (c : W32) : Operands := { memOps with c := .word c }
    Safety.MemIssues Places.all (w 0) s ∧ Safety.MemIssues Places.all (w 0) m ∧ scalarOf s (w 0).a = .data 0xFFFF00000000FFF8 ∧
      translate s 0xFFFF00000000FFF8 8 true false = .ok (.localStore 0xFFF8) ∧
      (Cond.holds ((Cond.ofCode (field (Field.control (w 0).c) 0 4)).getD .eq) (BitVec.ofNat 64 (leNat (localRead s 0xFFF8 8))) (Safety.pattern s (w 0).b) = true ∧
        Cond.holds ((Cond.ofCode (field (Field.control (w 1).c) 0 4)).getD .eq) (BitVec.ofNat 64 (leNat (localRead s 0xFFF8 8))) (Safety.pattern s (w 1).b) = false) ∧
      translate m 0x1FFF8 8 true false = .ok (.mem 0x1FFF8) ∧ okB (homeOrdered m 0x1FFF8 0x1FFF8 8) () = true ∧
      (okB (readAtPlace m 0x1FFF8 8 (Scope.far .task)) (List.replicate 8 0) = true ∧ waitaHolds .eq false 0 0 = true) ∧
      (0xFFFC : W64).toNat % 8 ≠ 0 ∧ bit (Field.control (w 16).c) 4 = true :=
  ⟨memIssues (by decide) (by decide) (by decide), memIssues (by decide) (by decide) (by decide), by decide, goes (by decide),
    by decide, goes (by decide), by decide, by decide, by decide, by decide⟩
/-- Group 15 of the region with members and arrivals. -/
def withGroup (s : State) (ms as : List TaskRef) : State :=
  setLaunch s 1 { launchOf s 1 with groups := [(15, { Group.initial with members := ms, arrived := as, gen := 7 })] }
/-- Group 15: no member, a member that has not arrived, one that has; the generation's own number and the next one. -/
theorem witness_Barriers :
    let s (ms as : List TaskRef) (b : W64) := withS (withGroup onTask ms as) [(2, 15), (3, b)]
    let o : Operands := { dst := .s 1, mod := .mem .rlx .task 0, a := rs 2, b := rs 3, c := .unread }
    Safety.BarrierIssues o (s [me] [] 7) me { gang := false, idx := 15 } ∧
    ((groupOf (s [] [] 7) 1 { gang := false, idx := 15 }).members.contains me = false ∧
      (groupOf (s [me] [me] 7) 1 { gang := false, idx := 15 }).arrived.contains me = true ∧
      (groupOf (s [me] [] 7) 1 { gang := false, idx := 15 }).members.contains me = true ∧
      (groupOf (s [me] [] 7) 1 { gang := false, idx := 15 }).arrived.contains me = false ∧ (thread (s [me] [] 7)).producers.length < 16) ∧
    (scalarOf (s [me] [] 7) o.b = .data 7 ∧ (bits (7 : W64) 0 32 - (groupOf (s [me] [] 7) 1 { gang := false, idx := 15 }).gen).toInt ≤ 0 ∧
      scalarOf (s [me] [] 8) o.b = .data 8 ∧ 0 < (bits (8 : W64) 0 32 - (groupOf (s [me] [] 8) 1 { gang := false, idx := 15 }).gen).toInt) :=
  ⟨⟨adm (by decide), by decide, sup (by decide), gate (by decide), ⟨here, by decide, by decide⟩, ok (by decide)⟩, by decide, by decide⟩

/-! ### Hypotheses met: control and bindings -/

/-- A unit command of a kind over a descriptor, with indices and values. -/
def unitCmd (kind : UnitKind) (d : List W32) (index value : Option (Vector Lane 64)) (next : Nat) (out : List Token) : UnitCmd :=
  { kind := kind, issuer := me, lanes := d, index := index, value := value, fin := false, producer := none, next := next, gathered := [], done := 0, skipped := 0, unreach := false,
    out := out, result := .null, heldAt := none }
/-- A task with a token of a bound tag, with one of a tag that is not bound, with no producer, with one. -/
theorem witness_WaitingAndEnding :
    let o : Operands := { dst := .none, mod := .plain p0, a := .unread, b := .unread, c := .unread }
    let t := withTokens onTask [tok .int32 1]
    let b := onSiteOf t fun x => { x with bindings := [(5, 0)] }
    let u := setDie onTask 0 { dieOf onTask 0 with units := [(5, unitCmd .gather [] none none 0 [])] }
    Safety.Admitted Places.all onTask o ∧ Safety.predicate onTask o = true ∧ Safety.predicate onTask { o with mod := .plain pn0 } = false ∧
      (∃ c, ∃ q ∈ ((siteOf b (TaskKey.siteKey here)).chans.get c).slots, (q.1.route, here.slot) ∈ (siteOf b (TaskKey.siteKey here)).bindings) ∧
      (∀ c, ∀ q ∈ ((siteOf t (TaskKey.siteKey here)).chans.get c).slots, (q.1.route, here.slot) ∉ (siteOf t (TaskKey.siteKey here)).bindings) ∧
      ((thread onTask).producers = [] ∧ ∀ d ∈ onTask.dies, ∀ u ∈ d.2.units, u.2.issuer ≠ refOr onTask here) ∧
      (∃ d ∈ u.dies, ∃ c ∈ d.2.units, c.2.issuer = refOr u here) ∧
      (thread (withThread onTask fun t => { t with producers := [{ id := 0, state := .engine (.s 1), acq := none, held := false }] })).producers ≠ [] :=
  ⟨adm (by decide), by decide, by decide, ⟨0, by decide⟩, by decide, by decide, by decide⟩
/-- Tag 1,022 with no holder and seven, and eight, bindings of the task; tag 1,022 held by the task and by another; tag 1,023. -/
theorem witness_TagBindings :
    let o : Operands := { dst := .none, mod := .plain p0, a := .lit 1022, b := .unread, c := .unread }
    let bs (n : Nat) : List (BitVec 10 × Nat) := (List.range n).map fun i => (BitVec.ofNat 10 i, 0)
    Safety.Admitted Places.sites onTask o ∧ onTask.cur = .task here ∧ Safety.predicate onTask o = true ∧ Safety.Supplied onTask o ∧
      scalarOf onTask o.a = .data 1022 ∧ ((bs 7).filter fun b => b.2 == 0).length < 8 ∧ 8 ≤ ((bs 8).filter fun b => b.2 == 0).length ∧
      (∀ b ∈ bs 8, b.1 ≠ (1022 : BitVec 10)) ∧ (∀ b ∈ [((1022 : BitVec 10), 0)], b.1 = 1022 → b.2 = here.slot) ∧
      (∃ b ∈ [((1022 : BitVec 10), 1)], b.1 = 1022) ∧ (∀ b ∈ [((1022 : BitVec 10), 1)], b.1 = 1022 → b.2 ≠ here.slot) ∧
      Safety.predicate onTask { o with mod := .plain pn0 } = false ∧
      ∀ w, scalarOf onTask (.lit 1023) = .data w → 1022 < w.toNat :=
  ⟨adm (by decide), by decide, by decide, sup (by decide), by decide, by decide, by decide, by decide, by decide, by decide, by decide, by decide,
    fun w h => by cases h; decide⟩

/-! ### Hypotheses met: engines -/

/-- The region of the task with one node of each kind: slab 0, accumulator 1, top-k node 2, copy channel 3, match engine 15. -/
def withNodes (s : State) : State :=
  setLaunch s 1 { launchOf s 1 with regions := [{ probeRegion with nodes := [(0, { kind := .slab, home := 0, idx := 0 }),
    (1, { kind := .acc, home := 0, idx := 0 }), (2, { kind := .topk, home := 0, idx := 0 }), (3, { kind := .copych, home := 0, idx := 0 }),
    (15, { kind := .match_, home := 0, idx := 0 })] }] }
/-- The task with its nodes. -/
def onNodes : State := withNodes onTask
/-- A vector of data lanes, zero after the last given. -/
def vecOf (d : List W32) : Vector Lane 64 := Vector.ofFn fun i => .data (d[i.val]?.getD 0)
theorem desc {d : List W32} (h : d.length = 16) : Safety.DescriptorIs (vecOf d) d := by
  refine ⟨h, fun i w hw => ?_, fun i hi => ?_⟩
  · show (Vector.ofFn fun i => Lane.data (d[i.val]?.getD 0))[i.val] = _
    simp [hw]
  · refine .inl (show (Vector.ofFn fun i => Lane.data (d[i.val]?.getD 0))[i.val] = _ from ?_)
    simp [List.getElem?_eq_none (show d.length ≤ i.val by omega)]
/-- A descriptor of sixteen lanes. -/
def lanes (d : List W32) : List W32 := d ++ List.replicate (16 - d.length) 0
/-- Engine operands: A in v2 or a node id, B in s3, C in s4, result in s1. -/
def engOps : Operands := { dst := .s 1, mod := .eng false false false, a := rv 2, b := rs 3, c := rs 4 }
/-- A slab with `n` commands in its queue. -/
def withQueue (s : State) (n : Nat) : State := setSlab s 0 0 { slabOf s 0 0 with queue := List.replicate n (.mcfg 0 0) }
/-- A BF16 product of M = N = 1 and K = 16 at slab 0 and accumulator 1. -/
def tileD : List W32 := lanes [0x10, 0x1200, 16, 0x10000, 0, 0, 0x20000]
/-- Legal; a reserved bit; a base of 2 modulo 4; a base that is not canonical; a format pair that no row has; a queue of three and of four; a slab in
another mode; a predicate that is false. -/
theorem witness_TileCommands :
    let o := { engOps with b := .unread, c := .unread }
    let s := withV (withQueue onNodes 3) 2 (vecOf tileD)
    let cmd (d : List W32) (f : TileForm) := tileOf f o.mod d (Regs.readQ (thread s).regs) (refOr s here) false
    let legal (c : TileCmd) : Bool := TileCmd.reservedOk c && TileCmd.rangesOk c && TileCmd.nodesOk c s
    (Safety.Admitted Places.sites s o ∧ s.cur = .task here ∧ tilePredicate s o = true ∧ Safety.Supplied s o ∧
      tilePredicate s { o with a := withPi o.a 1 } = false ∧ vectorOf s o.a = vecOf tileD ∧ Safety.DescriptorIs (vecOf tileD) tileD) ∧
    (legal (cmd tileD .mma) = true ∧ TileCmd.alignOk (cmd tileD .mma) = true ∧ TileCmd.basesOk (cmd tileD .mma) = true ∧
      TileCmd.formatsOk (cmd tileD .mma) = true ∧ Safety.GateOpen s .rel .core ∧ (thread s).producers.length < 16 ∧
      nodeAt s (refOr s here) (TileCmd.slabId (cmd tileD .mma)) = some { kind := .slab, home := 0, idx := 0 } ∧
      Slab.entries (slabOf s 0 0) < 4 ∧ (coreOf s 0).cards.length < 64 ∧ acceptOk s (slabOf s 0 0) (cmd tileD .mma) = true) ∧
    ¬ Slab.entries (slabOf (withQueue onNodes 4) 0 0) < 4 ∧
    legal (cmd (lanes [0x00800010, 0x1200, 16, 0x10000, 0, 0, 0x20000]) .mma) = false ∧
    (legal (cmd (lanes [0x10, 0x1200, 16, 0x10002, 0, 0, 0x20000]) .mma) = true ∧
      TileCmd.alignOk (cmd (lanes [0x10, 0x1200, 16, 0x10002, 0, 0, 0x20000]) .mma) = false) ∧
    TileCmd.basesOk (cmd (lanes [0x10, 0x1200, 16, 0x10000, 0x01000000, 0, 0x20000]) .mma) = false ∧
    TileCmd.formatsOk (cmd (lanes [0x10, 0x1000, 16, 0x10000, 0, 0, 0x20000]) .mma) = false ∧
    acceptOk s (slabOf s 0 0) (cmd (lanes [0x10, 0x1200, 64, 0x10000, 0, 0, 0x20000]) .mmas) = false ∧
    ∀ d, ¬ Safety.DescriptorIs (Vector.replicate 64 .null) d := by
  refine ⟨⟨adm (by decide), by decide, by decide, sup (by decide), by decide, by decide, desc (by decide)⟩,
    ⟨by decide, by decide, by decide, by decide, gate (by decide), by decide, by decide, by decide, by decide, by decide⟩,
    by decide, by decide, by decide, by decide, by decide, by decide, fun d h => ?_⟩
  have hl := h.1
  have h0 : d[0]? = some (d[0]'(by omega)) := List.getElem?_eq_getElem _
  exact absurd (h.2.1 0 _ h0) (by rw [show (Vector.replicate 64 Lane.null).get 0 = .null from rfl]; intro e; cases e)
/-- An engine instruction issues. -/
theorem engineIssues {s : State} {o : Operands} (h : readyB Places.sites s o = true) (hp : predHolds (thread s).regs (Field.pred o.a) = true)
    (hc : s.cur = .task here) : Safety.EngineIssues o s here := by
  simp only [readyB, Bool.and_eq_true] at h
  exact ⟨adm (by simp [h.1.1.1, h.1.1.2]), hp, ⟨full h.1.2, room h.2⟩, hc⟩
/-- Field A names a node with a literal. -/
def atNode (n : W32) (o : Operands) : Operands := { o with a := .lit n }
theorem names {s : State} {f : Field} {ks : List NodeKind} {n : NodeRef} (id : W64) (h : scalarOf s f = .data id) (h' : id.toNat < 16)
    (h2 : nodeAt s (refOr s here) id.toNat = some n) (h3 : n.kind ∈ ks) : Safety.Names s here f ks n := ⟨id, h, h', h2, h3⟩
theorem namesNone {s : State} {f : Field} {ks : List NodeKind} (id : W64) (h : scalarOf s f = .data id)
    (h2 : (nodeAt s (refOr s here) id.toNat).all (fun n => !ks.contains n.kind) = true) : Safety.NamesNone s here f ks := by
  rintro n ⟨i, hi, _, hn, hk⟩
  rw [h] at hi; cases hi
  rw [hn] at h2
  simp [hk] at h2
/-- A queue of three and of four; words 4 and 16 of MCFG, mode 3, D without mode 1; words 0, 1, 2 and 3 of MVCFG, with θ zero, NaN and unread. -/
theorem witness_SlabConfiguration :
    let s := withS (withQueue onNodes 3) [(4, 0)]
    let o := atNode 0 { engOps with dst := .none }
    let w (n : W64) := withS s [(3, n)]
    (Safety.EngineIssues o s here ∧ Safety.Names s here o.a [.slab] { kind := .slab, home := 0, idx := 0 } ∧
      Safety.NamesNone s here (Field.lit 14) [.slab] ∧ Safety.NamesNone s here (Field.lit 0) [.acc] ∧
      Safety.Names s here (Field.lit 1) [.acc] { kind := .acc, home := 0, idx := 0 } ∧ Safety.NamesNone s here o.b [.topk] ∧
      Safety.Names (w 2) here o.b [.topk] { kind := .topk, home := 0, idx := 0 }) ∧
    (Slab.entries (slabOf s 0 0) < 4 ∧ 4 ≤ Slab.entries (slabOf (withQueue onNodes 4) 0 0)) ∧
    (∀ n : Fin 4, scalarOf (w (BitVec.ofNat 64 n.val)) o.b = .data (BitVec.ofNat 64 n.val)) ∧
    (field (3 : W64) 0 2 = 3 ∧ 16 ≤ (16 : W64).toNat ∧ field (4 : W64) 2 2 ≠ 0 ∧ field (4 : W64) 0 2 ≠ 1 ∧ field (5 : W64) 0 2 = 1 ∧ (15 : W64).toNat < 16) ∧
    (Field.zero o.c = false ∧ Field.zero Field.unread = true ∧ scalarOf s o.c = .data 0 ∧ (f32Val 0).isNan = false ∧ (f32Val 0x7FC00000).isNan = true) ∧
    scalarOf (mapRegs s fun r => Regs.writeS r 3 .null) o.b = .null := by
  refine ⟨⟨engineIssues (by decide) (by decide) (by decide), names 0 (by decide) (by decide) (by decide) (by decide), namesNone 14 (by decide) (by decide),
    namesNone 0 (by decide) (by decide), names 1 (by decide) (by decide) (by decide) (by decide), namesNone 0 (by decide) (by decide),
    names 2 (by decide) (by decide) (by decide) (by decide)⟩, by decide, by decide, by decide, by decide, by decide⟩
/-- A threshold of −∞ at a fresh node: equal, higher and NaN; and a node of θ = 1: lower. -/
theorem witness_ThresholdsAndQueries :
    let s := withS onNodes [(3, 0xFF800000)]
    let o := atNode 2 engOps
    let x := setTopk s 0 0 { topkOf s 0 0 with floor := 0x3F800000, slabs := [(0, 0)] }
    Safety.EngineIssues o s here ∧ Safety.Names s here o.a [.topk] { kind := .topk, home := 0, idx := 0 } ∧
      Safety.Names s here (Field.lit 0) [.slab] { kind := .slab, home := 0, idx := 0 } ∧ Safety.NamesNone s here (Field.lit 1) [.topk] ∧
      Safety.NamesNone s here (Field.lit 3) [.slab, .acc, .topk] ∧ scalarOf s o.b = .data 0xFF800000 ∧ (thread s).producers.length < 16 ∧
      Val.holds .eq (f32Val 0xFF800000) (f32Val (TopK.theta (topkOf s 0 0))) = true ∧ Val.holds .gt (f32Val 0) (f32Val (TopK.theta (topkOf s 0 0))) = true ∧
      Val.holds .lt (f32Val 0) (f32Val (TopK.theta (topkOf x 0 0))) = true ∧ (topkOf x 0 0).slabs ≠ [] ∧ Slab.entries (slabOf s 0 0) < 8 ∧
      (topkOf s 0 0).held.length ≤ 64 :=
  ⟨engineIssues (by decide) (by decide) (by decide), names 2 (by decide) (by decide) (by decide) (by decide),
    names 0 (by decide) (by decide) (by decide) (by decide), namesNone 1 (by decide) (by decide), namesNone 3 (by decide) (by decide), by decide⟩
/-- PRED 0, 1, 2 and 3 in field B; θ zero, NaN and unread; a token that is not FP32. -/
theorem witness_ReadingVerdicts :
    let o : Operands := { dst := .p 1, mod := .plain p0, a := rv 2, b := rs 3, c := rs 4 }
    let s (n : W64) := withS onTask [(3, n)]
    Safety.Admitted Places.sites onTask o ∧ Safety.Full onTask [o.a, o.b, o.c] ∧ dstFaults onTask o.dst = .ok () ∧ Safety.Room onTask o.dst ∧
      (scalarOf (s 1) o.b = .data 1 ∧ scalarOf (s 3) o.b = .data 3 ∧ scalarOf (s 2) o.b = .data 2 ∧ scalarOf onTask o.c = .data 0 ∧ (f32Val 0).isNan = false) ∧
      (Field.zero o.c = false ∧ Field.zero Field.unread = true) ∧ Safety.StrictlyTagged onTask o.a [.fp32] ∧
      ¬ Safety.StrictlyTagged (withTokens onTask [tok .int32 0]) (rc 0) [.fp32] :=
  ⟨adm (by decide), full (by decide), rfl, room (by decide), by decide, by decide, (fun c t h => by cases h),
    fun h => absurd (h 0 (tok .int32 0) (by decide) (by decide)) (by decide)⟩
/-- A Gr of 2^24 − 1 and of 2^24; tokens that field A, and field B, do not accept; abandoned patterns. -/
theorem witness_RankingAndWidth :
    let o : Operands := { dst := .v 1, mod := .plain p0, a := rv 2, b := rv 3, c := rs 4 }
    let s := withS onTask [(4, 0xFFFFFF)]
    let b := withTokens onTask [tok .int8 0]
    Safety.Admitted Places.sites s o ∧ Safety.Supplied s o ∧ scalarOf s o.c = .data 0xFFFFFF ∧ (0x1000000 : W64).toNat = 2 ^ 24 ∧
      Safety.StrictlyTagged s o.a [.fp32] ∧ Safety.StrictlyTagged s o.b [.fp32, .int32, .idx] ∧ ¬ Safety.StrictlyTagged b (rc 0) [.fp32, .int32, .idx] ∧
      Safety.NoneAbandoned s o.a (Safety.active s o) ∧ ¬ Safety.NoneAbandoned (withV s 2 (Vector.replicate 64 (.data 0x7FD00000))) o.a (Safety.active s o) := by
  refine ⟨adm (by decide), sup (by decide), by decide, by decide, (fun c t h => by cases h), (fun c t h => by cases h),
    fun h => absurd (h 0 (tok .int8 0) (by decide) (by decide)) (by decide), fun i w _ hw => ?_, fun h => absurd (h 0 0x7FD00000 (by decide) (by decide)) (by decide)⟩
  rw [(by decide : ∀ i, (vectorOf (withS onTask [(4, 0xFFFFFF)]) (rv 2)).get i = .data 0) i] at hw
  cases hw; decide

/-! ### Hypotheses met: traps, registers, controllers -/

/-- A system instruction issues. -/
theorem systemIssues {s : State} {p : Places} {o : Operands} (h : readyB p s o = true) (hp : Safety.predicate s o = true) : Safety.SystemIssues p o s := by
  simp only [readyB, Bool.and_eq_true] at h
  exact ⟨adm (by simp [h.1.1.1, h.1.1.2]), hp, ⟨full h.1.2, room h.2⟩⟩
/-- The operands of TRAP, ERET and the like: A in s2, B in s3, result in s1. -/
def sysOps : Operands := { dst := .s 1, mod := .plain p0, a := rs 2, b := rs 3, c := .unread }
/-- The stream in its handler, after a trap at word `pc` whose word is `w`. -/
def inHandler (s : State) (w : W128) : State :=
  withThread s fun t => { t with handler := true, trap := { t.trap with word := w, addr := 9, count := 4 } }
/-- A task with a handler and one without; a task, a leaf, the active and the standby global core in their handlers; returns with 0 and 1, from an instruction
that closes its block and from one that does not. -/
theorem witness_TrapsAndReturns :
    let h := setTask onTask here { taskOf onTask here with hv := true, handlerAt := 5 }
    let g2 := inHandler { onGlobal with glob := { onGlobal.glob with active := 2 } } 0
    let add : W128 := 0x01000100000000000300000002000000
    let done : W128 := 0x0020FF00000000000000000000000000
    ((thread h).handler = false ∧ (taskOf h here).hv = true ∧ (taskOf onTask here).hv = false) ∧
    ((launchOf onTask (refOr onTask here).launch).killed = false ∧ (launchOf onTask (refOr onTask here).launch).state ≠ .complete ∧
      (thread (inHandler onTask 0)).handler = true ∧ (launchOf (inHandler onTask 0) 1).killed = false) ∧
    ((inHandler onLeaf 0).cur = .leaf 0 ∧ (thread (inHandler onLeaf 0)).handler = true ∧ (thread onLeaf).handler = false) ∧
    ((inHandler onGlobal 0).cur = .global ∧ (thread (inHandler onGlobal 0)).handler = true ∧ onGlobal.glob.active = 0 ∧ g2.glob.active ≠ 0) ∧
    (Safety.SystemIssues Places.all sysOps onTask ∧ Safety.predicate onTask { sysOps with mod := .plain pn0 } = false ∧
      scalarOf onTask sysOps.a = .data 0 ∧ scalarOf (withS onTask [(2, 1)]) sysOps.a = .data 1 ∧ scalarOf (withS onTask [(2, 2)]) sysOps.a = .data 2) ∧
    ((thread (inHandler onTask add)).trap.addr < storeWords (inHandler onTask add).cur ∧ (thread (inHandler onTask add)).trap.count < 256) ∧
    (decode done = .ok (.done { dst := .none, mod := .plain p0, a := .unread, b := .unread, c := .unread }) ∧ decode add = .ok (.add addOps)) :=
  ⟨by decide, by decide, by decide, by decide, ⟨systemIssues (by decide) (by decide), by decide⟩, by decide, by rfl, by rfl⟩
/-- An RW register; EVENTS, which is W1C; a register that is read-only; RESETCTL; a register that a debug feature not in force denies; no register. -/
theorem witness_SystemRegisters :
    let s (a : W64) := withS onGlobal [(2, a), (3, 3)]
    let off := { s 0x18000608 with dbg := { onGlobal.dbg with dbgEn := 0 } }
    Safety.SystemIssues Places.controllers sysOps (s 0) ∧ Safety.predicate onGlobal { sysOps with mod := .plain pn0 } = false ∧
      Safety.NamesReg (s 0xC000000) sysOps.a .qtBase ∧ Safety.rwBits .qtBase = some (6, 51) ∧ denied (s 0xC000000) .qtBase true = false ∧
      Safety.NamesReg (s 0xC000028) sysOps.a .events ∧ Safety.NamesReg (s 0x18000508) sysOps.a .temp ∧ Safety.readOnly .temp = true ∧
      denied (s 0x18000508) .temp true = false ∧ Safety.NamesReg (s 0x18000038) sysOps.a .resetCtl ∧ (bit (3 : W64) 1 = true ∧ bit (1 : W64) 1 = false ∧ bit (1 : W64) 0 = true) ∧
      Safety.NamesReg off sysOps.a (.brkLid 0) ∧ denied off (.brkLid 0) true = true ∧ off.dbg.deny ≠ BitVec.allOnes 64 ∧
      scalarOf (s 0xC000000) sysOps.b = .data 3 ∧ (∀ r, ¬ Safety.NamesReg (s 0xC000004) sysOps.a r) := by
  refine ⟨systemIssues (by decide) (by decide), by decide, ⟨0xC000000, by decide⟩, by decide, by decide, ⟨0xC000028, by decide⟩, ⟨0x18000508, by decide⟩,
    by decide, by decide, ⟨0x18000038, by decide⟩, by decide, ⟨0x18000608, by decide⟩, by decide, by decide, by decide, ?_⟩
  rintro r ⟨w, h, _, hr⟩
  rw [show scalarOf (withS onGlobal [(2, 0xC000004), (3, 3)]) sysOps.a = .data 0xC000004 by decide] at h
  cases h
  rw [show regAt (bits (0xC000004 : W64) 0 32) = none by decide] at hr
  cases hr
theorem witness_HaltAndIdle :
    let e := { onGlobal with glob := { onGlobal.glob with events := 1 } }
    Safety.SystemIssues Places.controllers sysOps onGlobal ∧ Safety.SystemIssues Places.controllers sysOps onLeaf ∧ onGlobal.glob.events = 0 ∧
      Safety.SystemIssues Places.controllers sysOps e ∧ e.glob.events ≠ 0 ∧ onGlobal.dbg.rasDrop ≠ BitVec.allOnes 64 :=
  ⟨systemIssues (by decide) (by decide), systemIssues (by decide) (by decide), by decide, systemIssues (by decide) (by decide), by decide, by decide⟩
/-- A launch packet of R407: one site, its signal at address 8. -/
def packetD : List W32 := lanes [1, 0x0101, 0, 0, 0, 0, 8]
/-- Queue 0 at 0x2000 with two slots at 0x3000: VALID and TASKQ, of space 0, its counts as given. -/
def withQcb (s : State) (head tail resv : Nat) : State :=
  { s with glob := { s.glob with qtBase := 0x2000, qtSize := 1 },
           mem := writeBytes [] 0x2000 (leBytes 8 0x3000 ++ [1, 0, 0, 0] ++ leBytes 4 3 ++ leBytes 8 head ++ leBytes 8 tail ++ leBytes 8 resv) }
/-- A queue with a slot, with none, with a reservation that TAIL has not reached; queue number 1, which there is not; a launch of 65,535 children; a
packet of no type. -/
theorem witness_ChildLaunches :
    let o : Operands := { sysOps with a := rv 2 }
    let s (h t r : Nat) := withV (withQcb onTask h t r) 2 (vecOf packetD)
    let l (n : Nat) := setLaunch onTask 1 { launchOf onTask 1 with childrenLive := n }
    Safety.SystemIssues Places.sites o (s 5 6 6) ∧ (s 5 6 6).cur = .task here ∧ Safety.DescriptorIs (vecOf packetD) packetD ∧ vectorOf (s 5 6 6) o.a = vecOf packetD ∧
      scalarOf (s 5 6 6) o.b = .data 0 ∧ packetOk (packetD.flatMap fun w => Safety.storedBytes 4 (w.setWidth 64)) false = true ∧
      packetOk ((lanes []).flatMap fun w => Safety.storedBytes 4 (w.setWidth 64)) false = false ∧ refOf (s 5 6 6) here ≠ none ∧
      ((0 : W64).toNat < (s 5 6 6).glob.qtSize.toNat ∧ (s 5 6 6).glob.qtSize.toNat ≤ (1 : W64).toNat) ∧ okB (placeReady (s 5 6 6) 0x2000 64 true true) () = true ∧
      (bit (qcbOf (s 5 6 6) 0).flags 0 = true ∧ bit (qcbOf (s 5 6 6) 0).flags 1 = true ∧ (qcbOf (s 5 6 6) 0).space = (launchOf (s 5 6 6) 1).space) ∧
      ((launchOf (s 5 6 6) 1).childrenLive < 65535 ∧ 65535 ≤ (launchOf (l 65535) 1).childrenLive ∧ (launchOf (l 65534) 1).childrenLive < 65535) ∧
      ((qcbOf (s 5 6 6) 0).resv - (qcbOf (s 5 6 6) 0).head).toNat < 2 ^ min (qcbOf (s 5 6 6) 0).log2n 16 ∧
      2 ^ min (qcbOf (s 5 7 7) 0).log2n 16 ≤ ((qcbOf (s 5 7 7) 0).resv - (qcbOf (s 5 7 7) 0).head).toNat ∧
      (qcbOf (s 5 6 6) 0).tail = (qcbOf (s 5 6 6) 0).resv ∧ (qcbOf (s 5 5 6) 0).tail ≠ (qcbOf (s 5 5 6) 0).resv ∧ Safety.GateOpen (s 5 6 6) .rel .system ∧
      Memory.wf (s 5 6 6).mem = true ∧ okB (placeReady (s 5 6 6) 0x3000 64 true true) () = true ∧ physKind 0x3000 = .hbm 0 :=
  ⟨systemIssues (by decide) (by decide), by decide, desc (by decide), by decide, by decide, by decide, by decide, by decide, by decide, by decide, by decide, by decide,
    by decide, by decide, by decide, by decide, gate (by decide), by decide, by decide, by decide⟩
/-- A region handle of core 0 whose rectangle is the whole die, or one site. -/
def withHandle (s : State) (h : Nat) (pos : W64) : State :=
  setCore s 0 { coreOf s 0 with block := { (coreOf s 0).block with regions := [(h, { pos := pos, node := 0, lid := 1, save := 0 })] } }
/-- Spaces 65,535 and 65,536; a launch that is not resident, one whose region is placed, unplaced and retired; handles that are known, unknown and not rectangles;
a launch that is killed; a site that is owned. -/
theorem witness_SpacesAndPlacement :
    let s (a b : W64) := withS onGlobal [(2, a), (3, b)]
    let f (a b : W64) := withS (withHandle onLeaf 63 0x10000) [(2, a), (3, b)]
    let launch (placed retired : Bool) : State :=
      setLaunch onGlobal 1 { Launch.none with state := .running, w := 1, h := 1, regions := [{ probeRegion with placed := placed, retired := retired }] }
    let killed := setLaunch (f 64 63) 1 { Launch.none with state := .running, killed := true }
    let owned := setSite (f 64 63) (TaskKey.siteKey here) { Site.gated with owner := some { launch := 7, region := 0, x := 0, y := 0 } }
    (Safety.SystemIssues Safety.onGlobalOnly sysOps (s 65535 0) ∧ Memory.wf (s 65535 0).mem = true ∧ scalarOf (s 65535 0) sysOps.a = .data 65535 ∧
      65536 ≤ (65536 : W64).toNat ∧ ∀ d, d < 4 → (dieOf (s 0 0) d).sptBase = 0) ∧
    (Safety.SystemIssues Places.controllers sysOps (s 1 0) ∧ Tab.find? (s 1 0).launches 1 = none ∧
      ((Tab.find? (launch true false).launches 1).map (·.regions) = some [{ probeRegion with placed := true, retired := false }]) ∧
      ((Tab.find? (launch false false).launches 1).map (·.regions) = some [{ probeRegion with placed := false, retired := false }]) ∧
      ((Tab.find? (launch true true).launches 1).map (·.regions) = some [{ probeRegion with placed := true, retired := true }])) ∧
    (Safety.SystemIssues Safety.onLeavesOnly sysOps (f 64 63) ∧ (f 64 63).cur = .leaf 0 ∧ scalarOf (f 64 63) sysOps.a = .data 64 ∧
      Tab.find? (coreOf (f 64 63) 0).block.regions 63 = some { pos := 0x10000, node := 0, lid := 1, save := 0 } ∧
      Tab.find? (coreOf (f 64 63) 0).block.regions 62 = none ∧ (bit (0x10000 : W64) 16 = true ∧ (64 : W64).toNat % 64 = 0 ∧ rectangleOk 0 0 1 1 = true) ∧
      rectangleOk 15 0 2 1 = false ∧ rectangleOk 7 0 2 1 = false ∧ (launchOf (f 64 63) 1).killed = false ∧ (launchOf killed 1).killed = true ∧
      (siteOf (f 64 63) (TaskKey.siteKey here)).owner = none ∧ (siteOf owned (TaskKey.siteKey here)).owner ≠ none) ∧
    (let r : RegionRegs := { pos := 0x10000, node := 1, lid := 1, save := 0 }
     let asks := setCore (f 64 63) 0 { coreOf (f 64 63) 0 with block := { (coreOf (f 64 63) 0).block with regions := [(63, r)] } }
     let taken := setLaunch asks 7 { Launch.none with state := .running, regions := [{ probeRegion with assigned := [{ kind := .slab, home := 0, idx := 0 }] }] }
     let free := setLaunch (f 64 63) 1 { Launch.none with state := .pending, regions := [Region.unplaced 1 1 0 0] }
     handleFree free 0 63 r = true ∧ gangsFit (placeRegion free 0 63 r 64 none) = true ∧ handleFree taken 0 63 r = false) :=
  ⟨⟨systemIssues (by decide) (by decide), by decide, by decide, by decide, by decide⟩,
    ⟨systemIssues (by decide) (by decide), by decide, by decide, by decide, by decide⟩,
    ⟨systemIssues (by decide) (by decide), by decide, by decide, by decide, by decide, by decide, by decide, by decide, by decide, by decide, by decide, by decide⟩, by decide⟩

/-! ### Hypotheses met: channels, barriers, units, the match engine -/

/-- A chain's head register. -/
def head0 : Head := { addr := 0x10000, issuer := me, tiles := Vector.replicate 8 0 }
/-- Copy channel 0 in a state, with a head register. -/
def withChan (s : State) (c : ChanState) (h : Option Head) : State := setCopy s 0 0 { copyOf s 0 0 with state := c, head := h }
/-- CPHEAD of record 0x10080 at node 3, of node 14, 16, of a misaligned record, of one that is not canonical and one in the window; a channel idle, busy with and
without a head, and stopped. -/
theorem witness_CopyChannels :
    let o := { engOps with b := .unread, c := .unread, dst := .none }
    let d : List W32 := lanes [3, 0x10080]
    let s := withV onNodes 2 (vecOf d)
    let q := atNode 3 { engOps with b := .unread, c := .unread }
    (Safety.EngineIssues o s here ∧ vectorOf s o.a = vecOf d ∧ Safety.DescriptorIs (vecOf d) d ∧ (dlane d 0).toNat < 16 ∧
      nodeAt s (refOr s here) 3 = some { kind := .copych, home := 0, idx := 0 } ∧ nodeAt s (refOr s here) 14 = none ∧ (daddr d 1).toNat % 128 = 0 ∧
      canonical (daddr d 1) = true ∧ inWindow (daddr d 1) = false ∧ Safety.GateOpen s .rel .core) ∧
    (16 ≤ (dlane (lanes [16]) 0).toNat ∧ dlane (lanes [3, 0x10080, 0, 1]) 3 ≠ 0 ∧ (daddr (lanes [3, 0x10040]) 1).toNat % 128 ≠ 0 ∧
      canonical (daddr (lanes [3, 0, 0x01000000]) 1) = false ∧ (inWindow (daddr (lanes [3, 0, 0xFFFF0001]) 1) = true ∧ inStore (daddr (lanes [3, 0, 0xFFFF0001]) 1) = false)) ∧
    ((copyOf s 0 0).state = .idle ∧ (copyOf (withChan s .stopped none) 0 0).state = .stopped ∧ (copyOf (withChan s .copy none) 0 0).head = none ∧
      (copyOf (withChan s .copy none) 0 0).state = .copy ∧ (copyOf (withChan s .finish (some head0)) 0 0).head ≠ none) ∧
    (Safety.EngineIssues q s here ∧ Safety.Names s here q.a [.copych] { kind := .copych, home := 0, idx := 0 } ∧ Safety.NamesNone s here (Field.lit 0) [.copych] ∧
      (thread s).producers.length < 16) :=
  ⟨⟨engineIssues (by decide) (by decide) (by decide), by decide, desc (by decide), by decide, by decide, by decide, by decide, by decide, by decide,
    gate (by decide)⟩, by decide, by decide,
    engineIssues (by decide) (by decide) (by decide), names 3 (by decide) (by decide) (by decide) (by decide), namesNone 0 (by decide) (by decide), by decide⟩
/-- XBINIT of the counts 1 and 2^32 − 1 in the local store and in memory; count 0; a bank; a misaligned address; XBWAIT and XBTEST of b = 0, 1 and 2. -/
theorem witness_TransactionBarriers :
    let o : Operands := { engOps with a := rs 2, dst := .s 1, c := .unread }
    let s1 := withS (atLocal onTask 0xFFF0) [(3, 1)]
    let s2 := withS (atVa (withPage onTask 1) 0x10000) [(3, 0xFFFFFFFF)]
    let s3 := atVa (withPage onTask 0x8000000) 0x10000
    Safety.EngineIssues o s1 here ∧ Safety.EngineIssues o s2 here ∧ (Memory.wf s1.mem = true ∧ Memory.wf (Safety.localMem s1) = true) ∧
      scalarOf s1 o.a = .data 0xFFFF00000000FFF0 ∧ Safety.CountIs s1 o.b 1 (2 ^ 32 - 1) 1 ∧ Safety.CountIs s2 o.b 1 (2 ^ 32 - 1) (2 ^ 32 - 1) ∧
      (∀ n, ¬ Safety.CountIs s3 o.b 1 (2 ^ 32 - 1) n) ∧ translate s1 0xFFFF00000000FFF0 16 true true = .ok (.localStore 0xFFF0) ∧
      (translate s2 0x10000 16 true true = .ok (.mem 0x10000) ∧ isDram 0x10000 = true ∧ okB (homeOrdered s2 0x10000 0x10000 16) () = true ∧
        homeBusy s2 0x10000 16 = false ∧ badIn s2 0x10000 16 = false) ∧
      (translate s3 0x10000 16 true true = .ok (.mem 0x80000000000) ∧ isDram 0x80000000000 = false) ∧
      (Safety.GateOpen s2 .rel .region ∧ Safety.GateOpen s2 .rlx .task ∧ scalarOf s3 o.b = .data 0 ∧ scalarOf s1 o.b = .data 1) ∧
      (translate s2 0x10000 16 true false = .ok (.mem 0x10000) ∧ translate s1 0xFFFF00000000FFF0 16 true false = .ok (.localStore 0xFFF0)) := by
  refine ⟨engineIssues (by decide) (by decide) (by decide), engineIssues (by decide) (by decide) (by decide), by decide, by decide,
    ⟨by decide, by decide, 1, by decide, by decide⟩, ⟨by decide, by decide, 0xFFFFFFFF, by decide, by decide⟩, ?_, goes (by decide), ⟨goes (by decide), by decide⟩,
    ⟨goes (by decide), by decide⟩, ⟨gate (by decide), gate (by decide), by decide, by decide⟩,
    goes (by decide), goes (by decide)⟩
  rintro n ⟨hn, _, w, hw, e⟩
  have hw : scalarOf (atVa (withPage onTask 0x8000000) 0x10000) (rs 3) = .data w := hw
  rw [show scalarOf (atVa (withPage onTask 0x8000000) 0x10000) (rs 3) = .data 0 by decide] at hw
  cases hw
  simp at e
  omega
/-- Lanes beyond a descriptor's sixteen. -/
theorem dlane_end {d : List W32} {i : Nat} (h : d.length = 16) (hi : ¬ i < 16) : dlane d i = 0 := by
  simp [dlane, List.getElem?_eq_none (by omega : d.length ≤ i)]
/-- A gather of one word, with its index in memory and from v3; an intersection; descriptors with N = 0, misaligned, and in the window; an index of another tag. -/
theorem witness_GatherScatterIntersect :
    let o := { engOps with b := .unread, c := .unread }
    let ov := { engOps with b := rv 3, c := .unread }
    let s := onTask
    let d : List W32 := lanes [0, 0, 1, 0x10000, 0, 0x20000]
    let dv : List W32 := lanes [0, 0x80, 64, 0, 0, 0x20000]
    let di : List W32 := lanes [0, 0x10000, 0, 0x20000]
    (Safety.Admitted Places.sites s o ∧ s.cur = .task here ∧ predHolds (thread s).regs (Field.pred o.a) = true ∧ Safety.Full s [o.a, o.b, o.c] ∧
      predHolds (thread s).regs (Field.pred (withPi (rv 2) 1)) = false ∧ Safety.DescriptorIs (vecOf d) d ∧ vectorOf (withV s 2 (vecOf d)) o.a = vecOf d) ∧
    (unitRanges d false = true ∧ unitSrc d = false ∧ Field.zero o.b = true ∧ okB (routeOrIllop s (refOr s here) (dlane d 0)) () = true ∧
      (dlane d 3).toNat % 4 = 0 ∧ (dlane d 5).toNat % unitSize d = 0 ∧ unitReach (daddr d 3) = true ∧ unitReach (daddr d 5) = true) ∧
    (unitRanges dv false = true ∧ unitSrc dv = true ∧ Field.isVC ov.b = true ∧ Safety.IndexField s ov.b) ∧
    (unitRanges d true = true ∧ unitRanges (lanes [0, 0, 65, 0x10000, 0, 0x20000]) true = false ∧ unitRanges (lanes [0, 0, 0, 0x10000, 0, 0x20000]) false = false ∧
      (dlane (lanes [0, 0, 1, 0x10002]) 3).toNat % 4 ≠ 0 ∧ unitReach (daddr (lanes [0, 0, 1, 0, 0xFFFF0000]) 3) = false) ∧
    ((∀ i, 8 ≤ i → dlane di i = 0) ∧ field (dlane di 7) 12 20 = 0 ∧ (dlane di 1).toNat % 8 = 0 ∧ (dlane di 3).toNat % 8 = 0 ∧ unitReach (daddr di 1) = true) ∧
    (Regs.dstFull (thread s).regs o.dst = true ∧ (∀ i, o.dst ≠ .o i) ∧ Safety.GateOpen s .rel .package ∧ (thread s).producers.length < 16) ∧
    ¬ Safety.StrictlyTagged (withTokens onTask [tok .fp32 0]) (rc 0) [.int32, .idx] := by
  refine ⟨⟨adm (by decide), by decide, by decide, full (by decide), by decide, desc (by decide), by decide⟩, by decide,
    ⟨by decide, by decide, by decide, by decide, fun c t h => by cases h⟩, by decide, ⟨fun i hi => ?_, by decide⟩,
    ⟨by decide, (fun i h => by cases h), gate (by decide), by decide⟩, fun h => absurd (h 0 (tok .fp32 0) (by decide) (by decide)) (by decide)⟩
  by_cases h : i < 16
  · exact (by decide : ∀ i, i < 16 → 8 ≤ i → dlane (lanes [0, 0x10000, 0, 0x20000]) i = 0) i h hi
  · exact dlane_end (by decide) h
/-- The match engine of core 0 changed. -/
def withMatch (s : State) (f : Match → Match) : State := setMatch s 0 (f (matchOf s 0))
/-- A command that names the match engine issues. -/
theorem matchIssues {s : State} {o : Operands} {c : Scope} (h : readyB Places.sites s o = true) (hp : predHolds (thread s).regs (Field.pred o.a) = true)
    (hc : s.cur = .task here) (hn : scalarOf s o.b = .data 15) (hk : nodeAt s (refOr s here) 15 = some { kind := .match_, home := 0, idx := 0 })
    (hg : gateB s .rel c = true) (hh : (matchOf s 0).halted = false ∧ (matchOf s 0).taken (refOr s here) = false) : Safety.MatchIssues o s here { kind := .match_, home := 0, idx := 0 } c :=
  ⟨engineIssues h hp hc, ⟨15, hn, by decide, hk, by decide⟩, gate hg, hh⟩
/-- An engine with a capacity of two ids, class 7 of one attribute declared, element 1 of it live, and an open firing of rule 3 on element 1, which may add class 7,
delete and modify its element. -/
def engine0 (m : Match) : Match :=
  { m with wmCap := 2, classes := [(7, 1)], nextId := 2, freed := [0], elems := [(1, { cls := 7, uflags := 0, ts := 0, attrs := [5], live := true })],
           net := [{ rule := 3, salience := 0, del := [1], mod := [1], adds := [7], items := [] }], roundExists := true, firingRound := 0,
           firings := [{ inst := { rule := 3, elems := [1] }, taken := true, closed := false, deltas := [] }] }
/-- The task with that engine, its node id in s3. -/
def onEngine : State := withS (withMatch onNodes engine0) [(3, 15)]
/-- The handle of the firing. -/
def handle0 : W64 := 0x30001
/-- WMCLASS of classes 1, 4,095 and 4,096; WMADD and WMUPD of a descriptor of class 7, with and without a firing; ids below and at the capacity; words 0, 15, 16
and 17 of WMGET. -/
theorem witness_WorkingMemory :
    let o := { engOps with dst := .s 1 }
    let f := { o with mod := .eng false false true }
    let n : NodeRef := { kind := .match_, home := 0, idx := 0 }
    let m := Safety.engineAt onEngine n
    let add : List W32 := lanes [7, 0, 9]
    let upd : List W32 := lanes [7, 1, 9]
    (Safety.MatchIssues o onEngine here n .core ∧ scalarOf onEngine (rs 2) = .data 0 ∧ scalarOf (withS onEngine [(2, 4095)]) (rs 2) = .data 4095 ∧
      Tab.find? m.classes 7 = some 1 ∧ Tab.find? m.classes 4095 = none) ∧
    (Safety.DescriptorIs (vecOf add) add ∧ Safety.DescriptorIs (vecOf upd) upd ∧ Safety.FiringIs onEngine o m none ∧
      Safety.FiringIs (withS onEngine [(4, handle0)]) f m (some (0, { inst := { rule := 3, elems := [1] }, taken := true, closed := false, deltas := [] })) ∧
      (∀ g, ¬ Safety.FiringIs onEngine f m g)) ∧
    (Safety.ElementIs m add 7 0 ((add.drop 2).take 14) ∧ dlane add 1 = 0 ∧ dlane upd 1 = 1 ∧ m.nextId = m.wmCap ∧ m.freed = [0] ∧ Match.idle m = true) ∧
    (Safety.Declared m (some (0, { inst := { rule := 3, elems := [1] }, taken := true, closed := false, deltas := [] })) (fun r _ => 7 ∈ r.adds) ∧
      Safety.Declared m (some (0, { inst := { rule := 3, elems := [1] }, taken := true, closed := false, deltas := [] })) (fun r p => 1 ∈ Firing.at p r.mod)) ∧
    (Safety.Live m 1 ∧ ¬ Safety.Live m 0 ∧ (1 : W64).toNat < m.wmCap ∧ m.wmCap ≤ (2 : W64).toNat) ∧
    (scalarOf onEngine o.c = .data 0 ∧ scalarOf (withS onEngine [(4, 16)]) o.c = .data 16 ∧ 16 < (17 : W64).toNat) := by
  refine ⟨⟨matchIssues (by decide) (by decide) (by decide) (by decide) (by decide) (by decide) (by decide), by decide⟩,
    ⟨desc (by decide), desc (by decide), rfl, ⟨handle0, _, by decide, by decide, rfl⟩, ?_⟩, ⟨⟨by decide, by decide, by decide, rfl, 1, by decide, fun i hi => ?_⟩, by decide⟩,
    ⟨fun i g e => ?_, fun i g e => ?_⟩, ⟨⟨_, rfl, by decide⟩, ?_, by decide⟩, by decide⟩
  · rintro g ⟨h, p, hh, hp, _⟩
    have hh : scalarOf onEngine (rs 4) = .data h := hh
    rw [show scalarOf onEngine (rs 4) = .data 0 by decide] at hh
    cases hh
    rw [show Match.openFiring (Safety.engineAt onEngine { kind := .match_, home := 0, idx := 0 }) 0 = none by decide] at hp
    cases hp
  · by_cases h : i < 16
    · exact (by decide : ∀ i, i < 16 → 3 ≤ i → dlane (lanes [7, 0, 9]) i = 0) i h hi
    · exact dlane_end (by decide) h
  · cases e; exact ⟨_, rfl, by decide⟩
  · cases e; exact ⟨_, rfl, by decide⟩
  · rintro ⟨e, h, _⟩
    rw [show Tab.find? (Safety.engineAt onEngine { kind := .match_, home := 0, idx := 0 }).elems 0 = none by decide] at h
    cases h
/-- AGRND of 1 and 32 firings and of 33; AGNEXT into s48 and s49, with every firing taken and with one left; AGDONE of an open firing and of none; NETLD with a firing open and with
none; a score key of one id, with its entry VALID, DEAD, PENDING and absent. -/
theorem witness_RoundsAndScores :
    let o := { engOps with dst := .s 48 }
    let n : NodeRef := { kind := .match_, home := 0, idx := 0 }
    let m := Safety.engineAt onEngine n
    let d : List W32 := lanes [15, 32]
    let s := withV onEngine 2 (vecOf d)
    let entry (st : EntryState) (m : Match) : Match :=
      { m with scoreEntries := 4, scores := (List.range 4).map fun i => (i, { scorer := 9, ids := [1], state := st, sent := true, theta := 0 }) }
    let key : List W32 := lanes [9, 1, 0xFFFFFFFF, 0xFFFFFFFF, 0xFFFFFFFF]
    (Safety.EngineIssues o s here ∧ Safety.DescriptorIs (vecOf d) d ∧ vectorOf s o.a = vecOf d ∧ (dlane d 0).toNat < 16 ∧ 1 ≤ (dlane d 1).toNat ∧ (dlane d 1).toNat ≤ 32 ∧
      nodeAt s (refOr s here) 15 = some n ∧ Safety.GateOpen s .rel .core ∧ (matchOf s 0).halted = false) ∧
    (Safety.MatchIssues o onEngine here n .region ∧ (Match.openFiring m handle0).isSome = true ∧ Match.openFiring m 0 = none) ∧
    (Safety.MatchIssues o onEngine here n .core ∧ (48 : Fin 64).val ≤ 48 ∧ 48 < (49 : Fin 64).val ∧
      (∀ j : Fin 64, 48 ≤ j.val → j.val < 64 → ((thread onEngine).regs.s.get j).full = true) ∧ (∀ f ∈ m.firings, f.taken = true) ∧
      (∃ f ∈ m.firings, f.taken = true ∧ f.closed = false) ∧ ¬ ∃ f ∈ (Safety.engineAt onNodes n).firings, f.taken = true ∧ f.closed = false) ∧
    (canonical 0x10000 = true ∧ (Safety.engineAt onNodes n).rounds = [] ∧ Match.idle (Safety.engineAt onNodes n) = true ∧ (0x10004 : W64).toNat % 8 ≠ 0) ∧
    (Safety.DescriptorIs (vecOf key) key ∧ Safety.KeyIs (entry .valid m) key 9 [1] ∧ Match.settled m = true) := by
  refine ⟨⟨engineIssues (by decide) (by decide) (by decide), desc (by decide), by decide, by decide, by decide, by decide, by decide,
      gate (by decide), by decide⟩,
    ⟨matchIssues (by decide) (by decide) (by decide) (by decide) (by decide) (by decide) (by decide), by decide, by decide⟩,
    ⟨matchIssues (by decide) (by decide) (by decide) (by decide) (by decide) (by decide) (by decide), by decide, by decide, by decide, by decide,
      by decide, by decide⟩, by decide, desc (by decide), ⟨by decide, by decide, by decide, by decide, by decide, ?_, ?_, fun i hi => ?_⟩, by decide⟩
  · rintro i hi
    have : i = 0 := by simpa using hi
    subst this; decide
  · exact fun i h1 h2 => (by decide : ∀ i, i < 4 → 1 ≤ i → dlane (lanes [9, 1, 0xFFFFFFFF, 0xFFFFFFFF, 0xFFFFFFFF]) (1 + i) = 0xFFFFFFFF) i h2 h1
  · by_cases h : i < 16
    · exact (by decide : ∀ i, i < 16 → 5 ≤ i → dlane (lanes [9, 1, 0xFFFFFFFF, 0xFFFFFFFF, 0xFFFFFFFF]) i = 0) i h hi
    · exact dlane_end (by decide) h

/-! ### Hypotheses met: the homes, tokens in flight -/

/-- `Safety.Ordered` as a Bool. -/
def orderedB (s : State) : Bool :=
  Memory.wf s.mem && decide ((s.homes.map (·.1)).Pairwise (· < ·)) && s.homes.all (fun p => decide ((p.2.owners.map (·.1)).Pairwise (· < ·))) && s.cores.all (fun p => decide ((p.2.l1.map (·.1)).Pairwise (· < ·)))
theorem find_mem {α : Type} {t : Table α} {i : Nat} {x : α} (h : Tab.find? t i = some x) : (i, x) ∈ t := by
  induction t with
  | nil => cases h
  | cons p r ih =>
    obtain ⟨j, y⟩ := p
    simp only [Tab.find?] at h
    split at h
    · cases h; subst_vars; exact List.mem_cons_self
    · split at h
      · cases h
      · exact List.mem_cons_of_mem _ (ih h)
theorem get_all {α : Type} {d : α} {t : Table α} {p : α → Prop} (h : ∀ x ∈ t, p x.2) (hd : p d) (i : Nat) : p (Tab.get d t i) := by
  unfold Tab.get
  cases e : Tab.find? t i with
  | none => exact hd
  | some x => exact h _ (find_mem e)
theorem ordered {s : State} (h : orderedB s = true) : Safety.Ordered s := by
  simp only [orderedB, Bool.and_eq_true, decide_eq_true_eq, List.all_eq_true] at h
  exact ⟨h.1.1.1, h.1.1.2, fun l => get_all (p := fun y : HomeLine => Safety.Rising y.owners) h.1.2 (by simp [HomeLine.unregistered, Safety.Rising]) l,
    fun c => get_all (p := fun x : Core => Safety.Rising x.l1) h.2 (by simp [Core.reset, Safety.Rising]) c⟩
/-- The lines of the tests: 0 in the package's memory, one of an unmapped window. -/
def farLine : Nat := 0x0001_0000_0000_0000 / 128
/-- The task, core 1 the owner of words 0 and 31 of line 0 at the home. -/
def onHome : State := withHome onTask 0 { HomeLine.unregistered with owners := [(0, 1), (31, 1)] }
/-- Core 1 with words 0 and 31 of line 0, their bytes 0 and 127 dirty. -/
def onOwner : State := setCore onHome 1 { coreOf onHome 1 with l1 := [(0, { L1Line.empty with owned := 0x80000001, dirty := 0x80000000000000000000000000000001 })] }
/-- A device that owns none of some words of a line. -/
theorem deviceFree {s : State} {line : Nat} {mask : W32}
    (h : ((homeLine s line).owners.all (fun p => decide (16 ≤ p.2)) && (homeLine s line).revoking.isEmpty) = true) : Safety.DeviceFree s line mask := by
  simp only [Bool.and_eq_true, List.all_eq_true, decide_eq_true_eq, List.isEmpty_iff] at h
  exact ⟨fun w _ c hc => h.1 _ (find_mem hc), fun r hr => by rw [h.2] at hr; cases hr⟩
/-- Core 1 with a registration that a task waits for, a write-back and a read under way, and a DATA that a store has overtaken. -/
def onMessages : State :=
  setCore onOwner 1 { coreOf onOwner 1 with regsOut := [{ who := [.task me], line := 0, mask := 1, lost := false }, { who := [.task me], line := farLine, mask := 1, lost := false }],
                                            wbOut := [(0, 1, [(0, 1)])], readsOut := [(0, 2), (3, 1)], readsStale := [3] }
/-- A home whose order of entries names line 17, which has an owner, `n` times. -/
def crowded (n : Nat) : State := { withHome onTask 17 { HomeLine.unregistered with owners := [(0, 1)] } with regOrder := List.replicate n 17 }
theorem crowded_clears {n : Nat} (hn : 8192 ≤ n) (owner : Nat) : mustClear (crowded n) owner 0 = some 17 := by
  have h : (homeNo (crowded n) 17 == homeNo (crowded n) 0) = true := by rfl
  have h' : HomeLine.inArray (homeLine (crowded n) 17) = true := by rfl
  have h0 : HomeLine.inArray (homeLine (crowded n) 0) = false := by rfl
  have e : homeLines (crowded n) 0 HomeLine.inArray = List.replicate n 17 := by
    show (List.replicate n 17).filter _ = _
    rw [List.filter_replicate_of_pos (by simp [h, h'])]
  have hn0 : n ≠ 0 := by omega
  simp [mustClear, h0, e, List.head?_replicate, hn, hn0]
/-- A home whose array has no room. -/
def fullArray : State := crowded 8192
theorem fullArray_clears (owner : Nat) : mustClear fullArray owner 0 = some 17 := crowded_clears (Nat.le_refl _) owner
/-- The host's window, its line with a half as given, for which the home waits to have it for writing or not. -/
def withHalf (x : Half) (w : Bool) : State := withHome (withHost onTask) farLine { HomeLine.unregistered with half0 := x, waiting0 := w }
/-- A line that is not lost, ready for a registration, and one whose words the host owns; a home without room; a lost line with a registration that a task waits for; messages under way; a
read with no other owner, one with an owner, one that waits for the host and for a write-back; a half that is held while the other is not; an overtaken DATA and one that is not; owned,
unowned and dirty words of a FWD and a REVOKE; the last answer; a host's answer for writing and for reading; halves that a waiting read uses, that a device owner holds, and that are free. -/
theorem witness_CoherenceMessages :
    let host := withHome onTask 0 { HomeLine.unregistered with owners := [(0, 16), (31, 16)] }
    let waits := withHome onTask 0 { HomeLine.unregistered with revoking := [{ core := 1, words := 1, late := 0 }] }
    let r (started : Bool) : HomeRead := { req := 0, line := 0, requester := 2, need := 1, started := started, asked := [(1, 1)] }
    let reading (b : Bool) : State := { onOwner with reads := [r b], nextReq := 1 }
    (Safety.Ordered onTask ∧ Safety.Ordered onMessages ∧ Safety.Ordered host ∧ Safety.Ordered waits ∧ Safety.Ordered (reading true) ∧ Safety.Ordered (withHalf .shared true)) ∧
    (lineLost onHome 0 = false ∧ regReady onHome 0 0x80000001 = true ∧ mustClear onHome 2 0 = none ∧ (1, 0x80000001) ∈ ownersOf (homeLine onHome 0) 0 ∧
      regReady host 0 0x80000000 = false ∧ regReady host 0 2 = true) ∧
    (Safety.Ordered fullArray ∧ lineLost fullArray 0 = false ∧ regReady fullArray 0 1 = true ∧ mustClear fullArray 2 0 = some 17 ∧
      (1, 1) ∈ ownersOf (homeLine fullArray 17) 16) ∧
    (lineLost onMessages farLine = true ∧ (coreOf onMessages 1).regsOut = [{ who := [.task me], line := 0, mask := 1, lost := false }] ++
      { who := [.task me], line := farLine, mask := 1, lost := false } :: []) ∧
    (((coreOf onMessages 1).regsOut = [] ++ { who := [.task me], line := 0, mask := 1, lost := false } :: [{ who := [.task me], line := farLine, mask := 1, lost := false }]) ∧
      (coreOf onMessages 1).wbOut = [] ++ (0, 1, [(0, 1)]) :: []) ∧
    ((∀ x ∈ onHome.reads, x.line ≠ 0 ∧ x.req ≠ onHome.nextReq) ∧ ownersOf (homeLine onTask 0) 0 = [] ∧ ownersOf (homeLine onHome 0) 0 ≠ [] ∧
      (homeLine onHome 0).revoking = [] ∧ (homeLine waits 0).revoking ≠ [] ∧ servedWords onHome 0 = 0xFFFFFFFF ∧ servedWords host 0 = 0 ∧
      servedWords (withHalf .shared false) farLine = 0xFFFF) ∧
    (0 ∉ (coreOf onMessages 1).readsStale ∧ (coreOf onMessages 1).readsOut = [] ++ (0, 2) :: [(3, 1)] ∧ 3 ∈ (coreOf onMessages 1).readsStale) ∧
    ((∀ w, w < 32 → bit (0x80000001 : W32) w = true → Safety.ownerOf onOwner 0 w = some 1) ∧ (l1Line (coreOf onOwner 1) 0).owned &&& 0x80000000 ≠ 0 ∧
      (l1Line (coreOf onOwner 1) 0).owned &&& 2 = 0) ∧
    Safety.LastAnswer (reading true) 0 1 1 0 [] [] 2 ∧
    (physKind (64 * (2 * farLine)) = .far ∧ lineLost (withHalf .shared true) farLine = false ∧ (homeLine (withHalf .shared true) farLine).waiting0 = true ∧
      (homeLine (withHalf .shared false) farLine).waiting0 = false ∧ halfState (homeLine (withHalf .shared false) farLine) (64 * (2 * farLine)) = .shared) ∧
    (((homeLine (reading false) 0).dropping &&& halfWords 0 = 0 ∧ ∃ x ∈ (reading false).reads, x.line = 0 ∧ x.need &&& halfWords 0 ≠ 0) ∧ onHome.reads = []) ∧
    (Safety.DeviceFree host 0 (halfWords 0) ∧ ¬ Safety.DeviceFree onHome 0 (halfWords 1) ∧ mustClear host 16 0 = none ∧
      Safety.DeviceFree fullArray 0 (halfWords 0) ∧ mustClear fullArray 16 0 = some 17) ∧
    (linesOf 0 4 = [0] ∧ Safety.DeviceFree host 0 (wordsIn 0 0 4) ∧ ¬ Safety.DeviceFree onHome 0 (wordsIn 0 0 4)) ∧
    (Safety.Rising (withBad onTask 0).badLines ∧ lineBad (withBad onTask 0) 0 = true ∧ linesOf 0 128 = [0] ∧
      Safety.DeviceFree (withBad onTask 0) 0 (wordsIn 0 0 128)) := by
  refine ⟨⟨ordered (by decide), ordered (by decide), ordered (by decide), ordered (by decide), ordered (by decide), ordered (by decide)⟩, by decide,
    ⟨ordered (by decide), by decide, by decide, fullArray_clears 2, by decide⟩, ⟨by decide, rfl⟩, ⟨rfl, rfl⟩, by decide, by decide, by decide,
    ⟨1, rfl, by simp⟩, by decide, by decide,
    ⟨deviceFree (by decide), fun h => ?_, by decide, deviceFree (by decide), fullArray_clears 16⟩, ⟨by decide, deviceFree (by decide), fun h => ?_⟩,
    by simp [Safety.Rising, withBad], by decide, by decide, deviceFree (by decide)⟩
  · exact absurd (h.1 31 (by decide) 1 (by decide)) (by decide)
  · exact absurd (h.1 0 (by decide) 1 (by decide)) (by decide)

/-- The site's key, and a site whose token node and first input channels are given. -/
def siteHere : SiteKey := TaskKey.siteKey here
def withNode (n : TokenNode) (x0 x1 : List Token) : State :=
  onSiteOf (withOut onTask 1) fun x => { x with node := some n, mergeArrivals := [0], chans := (x.chans.set 0 { slots := x0.map fun t => (t, 0) }).set 1 { slots := x1.map fun t => (t, 0) } }
/-- Stream program 0 of die 0. -/
def withStream (f : Stream → Stream) : State := setStream (withReady (withPage onTask 1)) 0 0 (f Stream.init)
/-- A sender with no token, and one with a token for a channel with none, three and four tokens; the seventh refusal and the eighth; steer and merge nodes with their tokens, room and none;
a diverted token; stream programs that wait, start, and end. -/
theorem witness_TokensInFlight :
    let src : Sender := .chan siteHere 0
    let s := withOut onTask 1
    let q : Outgoing := { token := { route := 0, seq := 0, fmt := .int32, pay := .scalar .null }, route := 0x800, owner := { launch := 1, region := 0, x := 0, y := 0 } }
    let holds (n : Nat) : State := onSiteOf s fun x => { x with chans := x.chans.set 2 { slots := List.replicate n (tok .int32 1, 0) } }
    let waiting : State := setTask s here { taskOf s here with slot := .waiting (.channel 2) }
    let refused (n : Nat) : State := setRefusals s src n
    let steer := withNode (.steer 0 1 0 2) [tok .int32 7] [tok .int32 1]
    let steer0 := withNode (.steer 0 1 0 0) [tok .int32 7] [{ tok .int32 1 with pay := .scalar .null }]
    let merge (b : Bool) := withNode (.merge [0, 1] b 0) [tok .int32 7] []
    let contested (granted : Nat) := onSiteOf s fun x => { x with blocked := [(2, .chan siteHere 1)], granted := [(2, granted)], outs := x.outs.set 1 (x.outs.get 0) }
    let spent := onSiteOf s fun x => { x with outs := x.outs.set 0 { x.outs.get 0 with send := (x.outs.get 0).send.map fun d => { d with pay := .scalar (.err 9) } } }
    let conv := onSiteOf onTask fun x => { x with node := some (.conv .int32 .fp32 .rne false .pass), chans := x.chans.set 0 { slots := [(tok .int32 7, 0)] },
                                                  diversions := [some { core := 0, topk := 15, input := 3 }] }
    let st (f : Stream → Stream) : Stream := streamOf (withStream f) 0 0
    (headOut onTask src = none ∧ headOut s src = some q ∧ (refusalsOf (refused 6) src = 6 ∧ refusalsOf (refused 7) src = 7) ∧ Safety.Alive s 1) ∧
    (regionOf s 1 0 = some probeRegion ∧ routeInside probeRegion 0x800 = true ∧ routeTo 0x800 = some (.site 0 0 2) ∧
      ((Safety.chanAt (holds 3) siteHere 2).map (·.slots.length) = some 3) ∧ ((Safety.chanAt (holds 4) siteHere 2).map (·.slots.length) = some 4) ∧
      (acceptAt (holds 4) q).isNone = true ∧ (siteOf s (siteAt probeRegion 0 0)).node = none ∧ (siteOf s (siteAt probeRegion 0 0)).blocked = [] ∧ grants s src q = true ∧
      grants (contested (grantPlace q.owner src)) src q = false ∧ grants (contested (2 ^ 14 - 1)) src q = true ∧
      Token.reserved q.token = false ∧ (headOut spent src).map (fun q => Token.reserved q.token) = some true ∧
      (taskOf waiting (Safety.taskAt (siteAt probeRegion 0 0) 0)).slot = .waiting (.channel 2)) ∧
    ((siteOf steer siteHere).node = some (.steer 0 1 0 2) ∧ siteHead (siteOf steer siteHere) 0 = some (tok .int32 7, 0) ∧
      siteHead (siteOf steer siteHere) 1 = some (tok .int32 1, 0) ∧ selectorOf (tok .int32 1) = some true ∧ selectorOf (tok .int32 0) = some false ∧
      outReady (siteOf steer siteHere) 0 = true ∧ outReady (siteOf steer siteHere) 2 = false ∧ selectorOf { tok .int32 1 with pay := .scalar .null } = none ∧
      outReady (siteOf steer0 siteHere) 0 = true) ∧
    ((siteOf (merge false) siteHere).node = some (.merge [0, 1] false 0) ∧ siteHead (siteOf (merge false) siteHere) 0 = some (tok .int32 7, 0) ∧
      (siteOf (merge true) siteHere).mergeNext = none ∧ (siteOf (merge true) siteHere).mergeArrivals.head? = some 0 ∧ outReady (siteOf (merge true) siteHere) 0 = true) ∧
    (siteHead (siteOf conv siteHere) 0 = some (tok .int32 7, 0) ∧ (siteOf conv siteHere).diversions = some { core := 0, topk := 15, input := 3 } :: [] ∧ convert .int32 .fp32 .rne false 7 = .ok 0x40E00000) ∧
    ((st id).total ≤ 1 ∧ (st fun x => { x with finished := true }).finished = true ∧ (st fun x => { x with needToken := true }).inbox = [] ∧
      (st fun x => { x with needToken := true, inbox := [(tok .int32 0, 0)] }).inbox = [(tok .int32 0, 0)] ∧ (st fun x => { x with next := 1 }).total ≤ (st fun x => { x with next := 1 }).next ∧
      (st id).next < (st id).total ∧ (st fun x => { x with endLevel := some 0 }).passSize 0 = 1) := by
  refine ⟨⟨by decide, rfl, by decide, by decide, by decide⟩, by decide, by decide, by decide, ⟨by decide, rfl, rfl⟩, by decide⟩

/-! ### Hypotheses met: installation -/

/-- The region of the tests while its image, of one END packet at 0x20000, is installed at site (0, 0) of core 0. -/
def imageRegion : Region := { probeRegion with installed := false, dispatched := false, sitesIn := 0, imagePa := 0x20000 }
def installingAt (g : Region) (f : Site → Site) : State :=
  let s := onSiteOf (withReady { onTask with mem := writeBytes [] 0x20000 [0, 0x0F] }) fun x => f { x with tasks := [], installed := false }
  setLaunch s 1 { launchOf s 1 with state := .installing, regions := [g] }
/-- A packet at (0, 0) of that region. -/
def pkt (ls : List W32) : PacketAt := { launch := 1, region := 0, x := 0, y := 0, index := 0, lanes := lanes ls ++ List.replicate 48 0 }
theorem packetHere {p : PacketAt} {g : Region} {s : State} (h : regionOf s p.launch p.region = some g) (h2 : installing s p.launch p.region = true) {ls : List W32}
    (h3 : okB (readPacket s p.launch g) ls = true) (h4 : packetFits g ls = true) : Safety.PacketHere s p g := by
  refine ⟨h, h2, fun _ _ => ⟨ls, ?_, h4⟩⟩
  cases e : readPacket s p.launch g with
  | error x => simp [okB, e] at h3
  | ok y => simp [okB, e] at h3; rw [h3]
set_option maxRecDepth 8000 in
/-- A packet in a region that is being installed and one in a region that is not; routes, node-map entries, token nodes, task entries, ranges and nodes as they should be, and not; the last
site of a whole region and of one that is not; ranges that resolve and a range of length 0. -/
theorem witness_Installation :
    let s := installingAt imageRegion id
    let end_ : List W32 := 0x0F00 :: List.replicate 63 0
    let code := pkt [0x00040100, 1023, 0, 0, 1]
    let route (w : W32) := pkt [0x00010200, 15, 0, 0, w]
    let map (w : W32) := pkt [0x00040300, 0, 0, 0, w]
    let node (w5 : W32) := pkt [0x00020000, 0x300, 0, 0, 1, w5]
    let entry (l4 : W32) := pkt [0x000E0000, 0, 0, 0, l4, 0, 0, 0, 0, 0, 0, 0, 0, 1, 0x80000000]
    let more := pkt [0x00040000, 0x100, 0, 0, 0x80000000]
    let acc := pkt [0x00021400, 1, 0, 0, 0x00010000, 0]
    let assigned : Region := { imageRegion with assigned := [{ kind := .slab, home := 0, idx := 0 }, { kind := .acc, home := 0, idx := 0 }] }
    let named : Region := { assigned with nodes := [(0, { kind := .acc, home := 0, idx := 0 })] }
    let slab := pkt [0x00010400, 0, 0, 0, 0]
    let wide : Region := { imageRegion with w := 2, h := 2 }
    let badTask := installingAt imageRegion fun x => { x with tasks := [(0, { Task.absent with slot := .installed, nrange := 1 })] }
    let range (n : W32) : RangeDecl := { mode := 3, ba := false, la := false, barg := 0, larg := 0, baseLo := 0x10000, baseHi := 0, len := n }
    let ready (n : W32) : State := installingAt { imageRegion with installed := true } fun x => { x with tasks := [(0, { Task.absent with slot := .installed, ranges := [range n] })] }
    (installing onTask 1 0 = false ∧ Safety.PacketHere s code imageRegion ∧ bodyOf (pktLane code 0) = 4 ∧ Memory.wf (siteOf s (siteAt imageRegion 0 0)).localStore = true ∧ Safety.Alive s 1) ∧
    (routeTo (pktLane (route 0x40000000) 4) = none ∧ routeTo (pktLane (route 0x800) 4) ≠ none ∧ entryFits (mapEntry (map 0) 0) = true ∧ entryFits (mapEntry (map 0xFFFFF) 0) = false) ∧
    (field (pktLane (node 0) 1) 8 2 = 3 ∧ tokenNodeOf (node 0) = some (.steer 0 0 0 0) ∧ tokenNodeOf (node 0x80000000) = none ∧ (siteOf s (siteAt imageRegion 0 0)).node = none ∧
      (siteOf s (siteAt imageRegion 0 0)).tasks = []) ∧
    (field (pktLane (entry 0) 1) 8 2 = 0 ∧ entryOk (entry 0) = true ∧ entryOk (entry 0x400) = false ∧ rangeOk (entry 0) 14 = true ∧ field (pktLane more 1) 8 2 = 1 ∧ rangeOk more 4 = true) ∧
    (NodeKind.ofCode (field (pktLane acc 1) 0 8) = some .acc ∧ field (pktLane acc 0) 12 4 = 1 ∧ Tab.find? assigned.nodes 1 = none ∧ 1 < assigned.assigned.length ∧
      (assigned.assigned.find? fun n => n.kind == .acc && !(assigned.nodes.any fun (_, m) => m == n)) = some { kind := .acc, home := 0, idx := 0 } ∧
      Safety.PacketHere (installingAt assigned id) acc assigned ∧ only (pktLane acc 4) 0xFFFF0001 = true ∧ field (pktLane acc 4) 16 16 ≠ 0 ∧ routeTo (pktLane acc 5) ≠ none) ∧
    (NodeKind.ofCode (field (pktLane slab 1) 0 8) = some .slab ∧ Safety.PacketHere (installingAt assigned id) slab assigned) ∧
    (imageRegion.assigned.length ≤ 1 ∧ Tab.find? named.nodes 1 = none ∧ (∀ n ∈ named.assigned, n.kind = .acc → ∃ e ∈ named.nodes, e.2 = n) ∧
      Safety.PacketHere (installingAt named id) acc named) ∧
    (regionWhole s imageRegion = true ∧ regionWhole badTask imageRegion = false ∧ imageRegion.sitesIn + 1 = imageRegion.w * imageRegion.h ∧ wide.sitesIn + 1 ≠ wide.w * wide.h ∧
      (launchOf s 1).saved = none ∧ packetFits imageRegion end_ = true ∧ packetFits imageRegion (List.replicate 64 0) = false) ∧
    ((ready 4).launches ≠ [] ∧ (launchOf (ready 4) 1).killed = false ∧ regionTasks (ready 4) { imageRegion with installed := true } = [here] ∧ (taskOf (ready 4) here).ranges = [range 4] ∧
      canonical ((range 4).baseHi ++ (range 4).baseLo) = true ∧ (range 0).len = 0 ∧ boundTokenPresent (siteOf (ready 4) (TaskKey.siteKey here)) 0 = false ∧
      boundTokenPresent { Site.gated with bindings := [(5, 0)], chans := Site.gated.chans.set 0 { slots := [({ tok .int32 1 with route := 5 }, 0)] } } 0 = true) := by
  refine ⟨⟨by decide, packetHere (by decide) (by decide) (ls := 0x0F00 :: List.replicate 63 0) (by decide) (by decide), by decide, by decide, by decide, by decide⟩, by decide, by decide, by decide,
    ⟨by decide, by decide, by decide, by decide, by decide, packetHere (by decide) (by decide) (ls := 0x0F00 :: List.replicate 63 0) (by decide) (by decide), by decide⟩,
    ⟨by decide, packetHere (by decide) (by decide) (ls := 0x0F00 :: List.replicate 63 0) (by decide) (by decide)⟩,
    ⟨by decide, by decide, by decide, packetHere (by decide) (by decide) (ls := 0x0F00 :: List.replicate 63 0) (by decide) (by decide)⟩, by decide, by decide⟩

/-! ### Hypotheses met: the matrix engine, copy channels, units -/

theorem okOf {ε α : Type} {x : Except ε α} (h : x.toBool = true) : ∃ a, x = .ok a := by
  cases x with
  | ok a => exact ⟨a, rfl⟩
  | error e => cases h
/-- An engine reaches ordinary memory of its core's die. -/
theorem engineReaches {s : State} {a : Accessor} {va : W64} {n : Nat} {wr : Bool} {pa : Nat}
    (h : (decide (va.toNat % 65536 + n ≤ 65536 ∧ pa % 128 + n ≤ 128) && !logHolds s a va n && okB (accessPa s a va wr) pa && decide (physKind pa = .hbm 0)) = true) :
    Safety.EngineReaches s a va n wr pa := by
  simp only [Bool.and_eq_true, decide_eq_true_eq, Bool.not_eq_true'] at h
  exact ⟨h.1.1.1.1, h.1.1.1.2, h.1.1.2, ok h.1.2, by rw [h.2]; decide, fun d i => by rw [h.2]; simp⟩
/-- A command of one row and one column over two groups of 16 BF16 elements, at slab 0 and accumulator 1 of the region. -/
def tile2 : TileCmd :=
  { form := .mma, fin := false, vd := false, lanes := lanes [0x10, 0x1200, 32, 0x10000, 0, 0, 0x10100], mask := BitVec.allOnes 64, issuer := me, follow := false, producer := none,
    card := 7, order := 0 }
/-- The command executing, with its dead blocks. -/
def exec2 (next : Nat) (dead : List Nat) : SlabExec :=
  { cmd := tile2, groups := 2, next := next, band := 0, theta := negInf, thetaKnown := true, decided := [], dead := dead, skipped := [], costs := [], gdone := 0, held := false, wasHeld := false }
/-- Slab 0 of core 0, whose page is in the engine TLB. -/
def withSlab (f : Slab → Slab) : State :=
  let s := setSlab onNodes 0 0 (f { Slab.init with owner := some ({ launch := 1, region := 0, x := 0, y := 0 }, 0) })
  let s := setCore s 0 { coreOf s 0 with cards := [{ id := 7, launch := 1, reads := [], writes := [], after := [], begun := true, readsDone := false, writesDone := false }] }
  setDie s 0 { dieOf s 0 with tlb := [{ who := some { kind := .slab, home := 0, idx := 0 }, space := 0, gen := 0, vbase := 0x10000, log2 := 16, pbase := 0x10000, writable := true }] }
/-- Accumulator 0 of core 0 with one row of one element written, and the END that it still wants. -/
def accRow (n : Nat) : Acc :=
  { Acc.init with owner := some ({ launch := 1, region := 0, x := 0, y := 0 }, 1), rows := 1, chunks := 1, written := 1, endCount := n, sums := [(0, 0x3F800000)], endSeq := some 9 }
def withAcc (x : Acc) : State := setAcc onNodes 0 0 x
/-- Top-k node 15 of core 0 with a candidate. -/
def withTopk (n : Nat) (out : List Token) : State :=
  setTopk onNodes 0 15 { TopK.init with endCount := n, out := out, held := [{ value := 0x3F800000, column := 3 }], slabs := [(0, 0)] }
/-- A slab that is idle, configures, starts a command and executes one; an accumulator before its last END, at it, and released; statuses; a top-k node before its last END and after;
the greatest count of a ramp. -/
theorem witness_MatrixEngine :
    let s0 := withSlab id
    let q (c : SlabCmd) := withSlab fun x => { x with queue := [c] }
    let run (n : Nat) (dead : List Nat) := withSlab fun x => { x with exec := some (exec2 n dead) }
    let held := withLines (run 0 []) [512, 514]
    let at' (operand : Nat) : W64 := rowAddr (daddr tile2.lanes operand) (dlane tile2.lanes (operand + 2)) 0 + BitVec.ofNat 64 (0 * groupBytes tile2.afmt tile2.group)
    let verdict := withSlab fun x => { x with exec := some { exec2 0 [] with cmd := { tile2 with vd := true } }, cfg := { x.cfg with pred := some .topk } }
    let topk3 : NodeRef := { kind := .topk, home := 0, idx := 15 }
    let ramp (n : Nat) (c : W64) := setCore onNodes 0 { coreOf onNodes 0 with rampCount := n, rampCfg := c }
    ((slabOf s0 0 0).exec = none ∧ (slabOf verdict 0 0).exec ≠ none ∧ (slabOf verdict 0 0).cfg.pred = some .topk ∧ Val.holds .gt (f32Val 0x3F800000) (f32Val negInf) = true) ∧
    ((slabOf (q (.mcfg 2 3)) 0 0).queue = .mcfg 2 3 :: [] ∧ (slabOf (q (.mvcfg .ge 0)) 0 0).queue = [.mvcfg .ge 0] ∧ (slabOf (q (.mtkcfg topk3)) 0 0).queue = [.mtkcfg topk3]) ∧
    ((slabOf (q (.tile tile2)) 0 0).queue = [.tile tile2] ∧ canBind (q (.tile tile2)) tile2 = true ∧ cardBegun (q (.tile tile2)) 0 7 = true ∧ cardBegun (q (.tile tile2)) 0 8 = false ∧
      canBind (setAcc (q (.tile tile2)) 0 0 { Acc.init with bound := some (0, 1) }) tile2 = false ∧ boundNodes s0 tile2 = [({ kind := .acc, home := 0, idx := 0 }, 0)]) ∧
    ((slabOf (run 0 []) 0 0).exec = some (exec2 0 []) ∧ liveBlocks (exec2 1 (List.range 16)) = [] ∧ liveBlocks (exec2 0 []) ≠ [] ∧ tile2.degraded 0 0 = false ∧ tile2.m = 1 ∧ tile2.n = 1 ∧
      tile2.live 0 0 = true ∧ (exec2 0 tile2.emptyBlocks).next + 1 < (exec2 0 tile2.emptyBlocks).groups) ∧
    ((slabOf held 0 0).exec = some (exec2 0 []) ∧ boundNodes held tile2 = [({ kind := .acc, home := 0, idx := 0 }, 0)] ∧ tile2.form = .mma ∧ tile2.afmt = .bf16 ∧ tile2.bfmt = .bf16 ∧
      Safety.EngineHolds held (slabAccessor held 0 0) (at' 3) (groupBytes tile2.afmt tile2.group) (l1Bytes held 0 0x10000 32) ∧
      Safety.EngineHolds held (slabAccessor held 0 0) (at' 6) (groupBytes tile2.bfmt tile2.group) (l1Bytes held 0 0x10100 32) ∧ Safety.Rising (accOf held 0 0).sums) ∧
    ((slabOf (withSlab fun x => { x with stopped := true, queue := [.tile tile2] }) 0 0).stopped = true ∧ (slabOf s0 0 0).stopped = false) ∧
    ((accOf (withAcc (accRow 0)) 0 0).endCount < (accOf (withAcc (accRow 0)) 0 0).ends ∧ (accOf (withAcc (accRow 0)) 0 0).releasing = false ∧
      (accOf (withAcc (accRow 1)) 0 0).ends ≤ (accOf (withAcc (accRow 1)) 0 0).endCount ∧ releaseDue (withAcc (accRow 0)) 0 0 = false ∧ releaseDue (withAcc (accRow 1)) 0 0 = true ∧
      bit (accRow 1).written (8 * (0 / 16) + (64 * 0 + 31) / 32) = true ∧ bit (accRow 1).written (8 * (0 / 16) + (64 * 0 + 32) / 32) = false ∧
      Tab.get Status.none (accRow 1).status 0 = .none ∧ Tab.find? (accRow 1).abandoned 0 = none) ∧
    ((topkOf (withTopk 0 []) 0 15).endCount < (topkOf (withTopk 0 []) 0 15).ends ∧ (topkOf (withTopk 1 []) 0 15).ends ≤ (topkOf (withTopk 1 []) 0 15).endCount ∧
      (topkOf (withTopk 1 []) 0 15).out = [] ∧ 3 ∉ (topkOf (withTopk 0 []) 0 15).away) ∧
    (field (coreOf (ramp 14400 0x100) 0).rampStat 0 14 + field (coreOf (ramp 14400 0x100) 0).rampCfg 0 8 * 14400 / 256 < (coreOf (ramp 14400 0x100) 0).rampCount ∧
      (coreOf (ramp 900 0x10) 0).rampCount ≤ field (coreOf (ramp 900 0x10) 0).rampStat 0 14 + field (coreOf (ramp 900 0x10) 0).rampCfg 0 8 * 14400 / 256) := by
  refine ⟨by decide, by decide, ⟨by decide, by decide, by decide, by decide, by decide, by rfl⟩, by decide, ⟨by decide, by rfl, by decide, by decide, by decide, ⟨0x10000, engineReaches (by decide), by decide, rfl⟩,
    ⟨0x10100, engineReaches (by decide), by decide, rfl⟩, by simp [Safety.Rising]; decide⟩, by decide, by decide, by decide, by decide⟩
/-- The head of a chain whose record lies in the task's local store, the record's bytes, and the record: one run of 32 bytes within the store. -/
def headS : Head := { addr := 0xFFFF000000000100, issuer := me, tiles := Vector.replicate 8 0 }
def recordBytes (next ctl bar : W64) : List Byte :=
  leBytes 8 next.toNat ++ leBytes 8 ctl.toNat ++ leBytes 8 bar.toNat ++ leBytes 8 0x0001000100010020 ++ leBytes 8 0xFFFF000000000200 ++ leBytes 8 0xFFFF000000000300 ++
    List.replicate 16 0 ++ tileD.flatMap fun w => leBytes 4 w.toNat
def record (next ctl bar : W64) : Record := Record.ofBytes (recordBytes next ctl bar)
/-- Channel 0 of core 0 walking that chain, the record's bytes in the store. -/
def walking (st : ChanState) (r : Option Record) (bs : List Byte) (f : CopyChan → CopyChan) : State :=
  let s := onSiteOf onNodes fun x => { x with localStore := writeBytes [] 0x100 bs }
  let s := setCore s 0 { coreOf s 0 with cards := [{ id := 7, launch := 1, reads := [], writes := [], after := [], begun := true, readsDone := false, writesDone := false }] }
  setCopy s 0 0 (f { CopyChan.init with owner := some ({ launch := 1, region := 0, x := 0, y := 0 }, 3), state := st, cur := some headS, record := r, card := 7 })
/-- Command 5 of die 0's unit, whose page is in the TLB. -/
def withUnit (u : UnitCmd) : State :=
  setDie (withReady onNodes) 0 { dieOf onNodes 0 with hotDeliv := 1, units := [(5, u)], tlb :=
    [{ who := none, space := 0, gen := 0, vbase := 0x10000, log2 := 16, pbase := 0x10000, writable := true }] }
/-- A registration of an engine's under way. -/
def withRegs (s : State) (a : Accessor) : State := onCore s fun x => { x with regsOut := [{ who := [a.writer], line := 0, mask := 1, lost := false }] }
/-- Memory of the package that its home can give. -/
theorem homeFree {s : State} {pa n : Nat} (h : (decide (physKind pa = .hbm 0) && !homeBusy s pa n) = true) : Safety.HomeFree s pa n := by
  simp only [Bool.and_eq_true, decide_eq_true_eq, Bool.not_eq_true'] at h
  exact ⟨⟨by rw [h.1]; decide, fun d i => by rw [h.1]; simp⟩, h.2⟩
/-- And shows no error. -/
theorem readable {s : State} {pa n : Nat} (h : (decide (physKind pa = .hbm 0) && !homeBusy s pa n && !badIn s pa n) = true) : Safety.HomeReadable s pa n := by
  simp only [Bool.and_eq_true, Bool.not_eq_true'] at h
  exact ⟨homeFree (by simpa using h.1), h.2⟩
set_option maxRecDepth 8000 in
/-- A channel with no chain; a record that is valid, not valid, without a barrier's address and not well formed; a stop; a sector that is not the last and the last; sectors in flight that are
acknowledged and not; a barrier; a follow-on command with its slab, of another node, and offered; the last record and one before it; cards; units of each kind at their first, last and
no element, with indices in range and out of it. -/
theorem witness_CopyAndGather :
    let s := walking .fetch none (recordBytes 0 1 0) id
    let held := walking .held none (recordBytes 0 0 0) fun x => { x with stopReq := true }
    let r := record 0 1 0
    let copy (f : CopyChan → CopyChan) := walking .copy (some r) (recordBytes 0 1 0) f
    let fin (next ctl bar : W64) (f : CopyChan → CopyChan) := walking .finish (some (record next ctl bar)) (recordBytes next ctl bar) f
    let card (after : List (Nat × Bool)) : Card := { id := 1, launch := 1, reads := [], writes := [], after := after, begun := false, readsDone := false, writesDone := false }
    let cards (r w : Bool) (after : List (Nat × Bool)) := setCore onNodes 0 { coreOf onNodes 0 with cards := [{ card [] with id := 2, readsDone := r, writesDone := w }, card after] }
    let a0 := copyAccessor s 0 0
    let d : List W32 := lanes [0x800, 0, 1, 0x10000, 0, 0x10100, 0, 4, 3]
    let dv : List W32 := lanes [0, 0x80, 64, 0, 0, 0x10100, 0, 4, 3]
    let ix : Vector Lane 64 := vecOf [2, 3]
    let g (n : Nat) (out : List Token) := unitCmd .gather d none none n out
    let gv := unitCmd .gather dv (some ix) none 0 []
    let sc (n : Nat) := unitCmd .scatter dv (some ix) (some ix) n []
    let is := unitCmd .isect (lanes [0x800, 0x10000, 0, 0x10008, 0, 0, 0, 0]) none none 0 []
    ((copyOf onNodes 0 0).cur = none ∧ (copyOf s 0 0).cur = some headS ∧ (copyOf s 0 0).record = none ∧ (copyOf s 0 0).state = .fetch ∧ (copyOf held 0 0).stopReq = true ∧
      (copyOf held 0 0).state = .held) ∧
    (Safety.ChanHolds s a0 headS.issuer headS.addr 128 (readBytes (siteOf s siteHere).localStore 0x100 128) ∧ Record.ofBytes (readBytes (siteOf s siteHere).localStore 0x100 128) = r ∧
      bit r.ctl 0 = true ∧ r.bar = 0 ∧ r.ok = true ∧ (coreOf s 0).cards.length < 64) ∧
    (bit (record 0 0 0).ctl 0 = false ∧ (record 0 1 8).barOk = false ∧ (record 0 1 0xFFFF000000001000).barOk = true ∧ (record 0 5 0).ok = false ∧ (record 0x40 1 0).ok = false) ∧
    ((copyOf (copy id) 0 0).record = some r ∧ (copyOf (copy id) 0 0).state = .copy ∧ cardBegun (copy id) 0 7 = true ∧ cardBegun (copy fun x => { x with card := 8 }) 0 8 = false ∧
      r.selfOverlap = false ∧ (copyOf (copy fun x => { x with stopReq := true }) 0 0).flight = [] ∧ (copyOf (copy fun x => { x with stopReq := true, flight := [[]] }) 0 0).flight ≠ []) ∧
    (min (r.len - 0) (32 - (r.dstAt 0 + BitVec.ofNat 64 0).toNat % 32) = 32 ∧
      Safety.ChanHolds (copy id) a0 me (r.srcAt 0 + BitVec.ofNat 64 0) 32 (readBytes (siteOf (copy id) siteHere).localStore 0x200 32) ∧
      Safety.ChanReaches (copy id) a0 me (r.dstAt 0 + BitVec.ofNat 64 0) 32 ∧ 0 + 32 = r.len ∧ r.runs = 1 ∧
      (copyOf (walking .held (some r) [] fun x => { x with failing := some 10 }) 0 0).failing = some 10) ∧
    (nodeAcked (copy id) a0 = true ∧ nodeAcked (withRegs (copy id) a0) a0 = false) ∧
    (landedAt (copy id) 0 (copyOf (copy id) 0 0) = none ∧ landedAt (copy id) 0 (copyOf (copy fun x => { x with flight := [[(0, 1)]] }) 0 0) = some 0) ∧
    (inStore (record 0 1 0xFFFF000000001000).bar = true ∧ siteOfRef s me = some siteHere ∧ Memory.wf (siteOf s siteHere).localStore = true) ∧
    ((record 0 0x30003 0).cmdv = true ∧ (copyOf (fin 0 0x30003 0 id) 0 0).offered = false ∧ Safety.FollowOk (fin 0 0x30003 0 id) ((record 0 0x30003 0).followOn headS) ∧
      nodeAt (fin 0 0x30003 0 id) me ((record 0 0x30003 0).followOn headS).slabId = some { kind := .slab, home := 0, idx := 0 } ∧ field (record 0 0x30003 0).ctl 11 5 = 0 ∧
      field (record 0 0x30803 0).ctl 11 5 ≠ 0 ∧ Slab.entries (slabOf (fin 0 0x30003 0 id) 0 0) < 4 ∧ acceptOk (fin 0 0x30003 0 id) (slabOf (fin 0 0x30003 0 id) 0 0) ((record 0 0x30003 0).followOn headS) = true ∧
      ¬ Safety.FollowOk (fin 0 0x30003 0 id) { (record 0 0x30003 0).followOn headS with lanes := lanes [0x00800010] }) ∧
    ((copyOf (fin 0 1 0 id) 0 0).flight = [] ∧ (record 0 1 0).next = 0 ∧ (record 0xFFFF000000000180 1 0).next ≠ 0 ∧ Safety.ChanReaches (fin 0 1 0 id) a0 me (headS.addr + 8) 1) ∧
    ((∀ k ∈ (coreOf onNodes 0).cards, k.id ≠ 1) ∧ card [(2, true)] ∈ (coreOf (cards true false [(2, true)]) 0).cards ∧
      (∀ k ∈ (coreOf (cards true false [(2, true)]) 0).cards, k.id = 1 → k = card [(2, true)]) ∧ (∃ k ∈ (coreOf (cards true false [(2, true)]) 0).cards, k.id = 2) ∧
      (∀ k ∈ (coreOf (cards true false [(2, true)]) 0).cards, k.id = 2 → ¬ k.writesDone = true) ∧ (∀ k ∈ (coreOf (cards true false [(2, false)]) 0).cards, k.id = 2 → k.readsDone = true) ∧
      ∀ k ∈ (coreOf (cards false false [(3, true)]) 0).cards, k.id ≠ 3) ∧
    (Safety.Rising (dieOf (withUnit (g 0 [])) 0).units ∧ unitOf onNodes 0 5 = none ∧ unitOf (withUnit (g 0 [])) 0 5 = some (g 0 []) ∧ (g 0 [tok .int32 1]).out ≠ [] ∧
      unitN d = 1 ∧ unitN dv = 64 ∧ outOfRange dv 2 = false ∧ outOfRange dv 3 = true ∧ (ix.toList)[0]? = some (.data 2) ∧ unitN dv ≤ (sc 64).next) ∧
    (Safety.UnitIndexIs (withUnit (g 0 [])) 0 5 (g 0 []) (.data 0) ∧ Safety.UnitIndexIs (withUnit gv) 0 5 gv (.data 2) ∧
      Safety.Gathers (withUnit (g 0 [])) 0 5 (g 0 []) (.data 0) ∧ Safety.Gathers (withUnit gv) 0 5 gv (.data 0) ∧
      Safety.Gathers (withUnit { gv with next := 1 }) 0 5 { gv with next := 1 } .null) ∧
    (placeOf (withUnit (sc 0)) me = some here ∧ unitPa (withUnit (sc 0)) 0 5 (sc 0) (unitAddr dv 2) true = .ok (0x10100 + 8) ∧
      Safety.HomeWritable (withUnit (sc 0)) (0x10100 + 8) (unitSize dv) ∧ regPending (withUnit (sc 0)) 0 (0x10100 + 8) (unitSize dv) = false ∧ Safety.memoryOk (withUnit (sc 0))) ∧
    (Safety.UnitReads (withUnit is) 0 5 is (daddr is.lanes 1) 0 ∧ Safety.UnitReads (withUnit is) 0 5 is (daddr is.lanes 3) 0) := by
  refine ⟨by decide, ⟨.inl ⟨siteHere, by decide, by decide, by decide⟩, by decide⟩, by decide, by decide,
    ⟨by decide, .inl ⟨siteHere, by decide, by decide, by decide⟩, .inl ⟨siteHere, by decide, by decide⟩, by decide, by decide, by decide⟩, by decide, by decide, by decide,
    ⟨by decide, by decide, by unfold Safety.FollowOk; decide, by decide, by decide, by decide, by decide, by decide, by unfold Safety.FollowOk; decide⟩,
    ⟨by decide, by decide, by decide, .inl ⟨siteHere, by decide, by decide⟩⟩, by decide,
    ⟨by simp [Safety.Rising]; decide, by decide, by decide, by decide, by decide, by decide, by decide, by decide, by decide, by decide⟩,
    ⟨⟨0x10000, ok (by decide), readable (by decide), by decide⟩, rfl, ?_, ?_, ?_⟩, ⟨by decide, ok (by decide), ⟨homeFree (by decide), by decide⟩, by decide, by unfold Safety.memoryOk; decide⟩,
    ⟨0x10000, ok (by decide), readable (by decide), by decide⟩, 0x10008, ok (by decide), readable (by decide), by decide⟩
  · exact ⟨.data 0, ⟨0x10000, ok (by decide), readable (by decide), by decide⟩, 0x10100, ok (by decide), readable (by decide), by decide⟩
  · exact ⟨.data 2, rfl, 0x10108, ok (by decide), readable (by decide), by decide⟩
  · exact ⟨.data 3, rfl, rfl⟩

/-! ### Hypotheses met: match engines and translation -/

/-- Entry of key (9, [1]) in every slot of a table of four. -/
def scoresIn (st : EntryState) (sent : Bool) : Table ScoreEntry := (List.range 4).map fun i => (i, { scorer := 9, ids := [1], state := st, sent := sent, theta := 0 })
/-- The engine of core 0 with its areas in the page at 0x10000, its scorer 9, a rule of one condition and one score condition, and element 1 of class 7. -/
def engine1 (f : Match → Match) : State :=
  let rule : NetRule := { rule := 3, salience := 0, del := [], mod := [], adds := [], items := [.pos { cls := 7, tests := [] }, .score { scorer := 9, keys := [1], theta := 0 }] }
  let m := { engine0 Match.init with owner := some ({ launch := 1, region := 0, x := 0, y := 0 }, 15), wmBase := 0x10000, scoreBase := 0x11000, scoreEntries := 4, squeue := 0x12000, net := [rule],
                                     scorers := [{ id := 9, w := 1, h := 1, image := 0 }], firings := [], roundExists := false }
  let s := withMatch (withReady (withQcb onNodes 5 6 6)) fun _ => f m
  setDie { s with glob := { s.glob with qtBase := 0x12000 }, mem := writeBytes s.mem 0x12000 ((readBytes s.mem 0x2000 64)) } 0 { dieOf s 0 with hotDeliv := 1, tlb :=
    [{ who := some { kind := .match_, home := 0, idx := 0 }, space := 0, gen := 0, vbase := 0x10000, log2 := 16, pbase := 0x10000, writable := true }] }
theorem entryOf_empty {m : Match} {k : Nat} {ids : List Nat} {p : EntryState → Bool} (h : m.scores = []) : m.entryOf k ids p = none := by
  simp [Match.entryOf, h, Tab.find?]
theorem freeSlot_empty {m : Match} {k : Nat} {ids : List Nat} (h : m.scores = []) : ∃ i, m.freeSlot k ids = some i := by
  refine ⟨Config.scoreHash (k :: ids) % m.scoreEntries, ?_⟩
  simp [Match.freeSlot, Match.probes, h, Tab.find?, List.range_succ]
theorem entryOf_all {m : Match} {st : EntryState} {b : Bool} (h : m.scores = scoresIn st b) (h4 : m.scoreEntries = 4) (hp : EntryState.found st = true) :
    ∃ i e, m.entryOf 9 [1] EntryState.found = some (i, e) ∧ e.state = st := by
  have key : ∀ i, i < 4 → Tab.find? (scoresIn st b) i = some { scorer := 9, ids := [1], state := st, sent := b, theta := 0 } := by
    intro i hi
    match i, hi with
    | 0, _ => rfl
    | 1, _ => rfl
    | 2, _ => rfl
    | 3, _ => rfl
  refine ⟨Config.scoreHash [9, 1] % 4, { scorer := 9, ids := [1], state := st, sent := b, theta := 0 }, ?_, rfl⟩
  have k0 := key (Config.scoreHash [9, 1] % 4) (Nat.mod_lt _ (by decide))
  simp [Match.entryOf, Match.probes, h, h4, List.range_succ, k0, hp]
/-- An entry that an engine reaches, of which its core owns and awaits nothing. -/
theorem entryReaches {s : State} {a : Accessor} {va : W64} {pa : Nat} (hl : (coreOf s a.core).sideLog = [])
    (h : ((List.range 65).all fun i => okB (accessPa s a (va + BitVec.ofNat 64 i) true) (pa + i) && okB (accessPa s a (va + BitVec.ofNat 64 i) false) (pa + i) &&
      decide ((va + BitVec.ofNat 64 i).toNat % 65536 = va.toNat % 65536 + i) && decide (physKind (pa + i) = .hbm 0)) = true)
    (h' : (decide (va.toNat % 65536 + 64 ≤ 65536) && decide (pa % 64 = 0) && decide ((l1Line (coreOf s a.core) (pa / 128)).owned &&& wordsOf (pa % 128) 64 = 0) &&
      !badIn s pa 64 && !homeBusy s pa 64 && (List.range 64).all fun i => !wbUnanswered s a.core (pa + i)) = true) : Safety.EntryReaches s a va pa := by
  simp only [Bool.and_eq_true, decide_eq_true_eq, Bool.not_eq_true', List.all_eq_true, List.mem_range] at h h'
  obtain ⟨⟨⟨⟨⟨h1, h2⟩, h3⟩, h0⟩, h4⟩, h5⟩ := h'
  refine ⟨fun off n wr hn => ?_, h2, h3, ⟨h4, h5⟩, h0⟩
  obtain ⟨⟨⟨g1, g2⟩, g3⟩, g4⟩ := h off (by omega)
  exact ⟨by omega, by omega, by simp [logHolds, hl], (match wr with | true => ok g1 | false => ok g2), by rw [g4]; decide, fun d i => by rw [g4]; simp⟩
/-- The point of the engine's score condition. -/
def point0 : Inst × Nat := ({ rule := 3, elems := [1] }, 0)
/-- Its lookup can go on, where a table has no entry. -/
theorem lookup_ready {m : Match} (h : m.open = [point0]) (hs : m.scoreAt point0 = some ({ scorer := 9, keys := [1], theta := 0 }, [1])) (he : m.scores = []) :
    m.open.find? m.canLookup = some point0 := by
  obtain ⟨i, hi⟩ := freeSlot_empty (k := 9) (ids := [1]) he
  rw [h, List.find?_cons_of_pos]
  simp [Match.canLookup, hs, hi]
/-- Its lookup can go on, where every slot holds its entry. -/
theorem lookup_found {m : Match} {st : EntryState} {b : Bool} (h : m.open = [point0]) (hs : m.scoreAt point0 = some ({ scorer := 9, keys := [1], theta := 0 }, [1]))
    (he : m.scores = scoresIn st b) (h4 : m.scoreEntries = 4) (hp : EntryState.found st = true) : m.open.find? m.canLookup = some point0 := by
  obtain ⟨i, e, hi, _⟩ := entryOf_all he h4 hp
  rw [h, List.find?_cons_of_pos]
  simp [Match.canLookup, hs, hi]
set_option maxRecDepth 8000 in
/-- An engine with no delta; a partial match to be written; an assertion, and retractions of a live element and of another; a lookup whose entry is pending, and one that takes a slot; packets
that a scorer's queue takes, and that it does not; entries that have gone and ones that are VALID, PENDING and DEAD, with a SIG of zero and another; rounds that can select, and not. -/
theorem witness_MatchAndTranslation_engines :
    let s := engine1 id
    let m := matchOf s 0
    let a := matchAccessor s 0
    let idle (f : Match → Match) := engine1 fun m => f { m with net := [] }
    let deltas (ds : List Delta) := idle fun m => { m with deltas := ds }
    let pend (st : EntryState) (sent : Bool) := engine1 fun m => { m with scores := scoresIn st sent }
    let owns := withLines (pend .pending false) [544]
    let kids (n : Nat) := setLaunch owns 1 { launchOf owns 1 with childrenLive := n }
    let ring (resv : Nat) := { owns with mem := writeBytes owns.mem 0x12018 (leBytes 8 resv ++ leBytes 8 resv) }
    let k : Scorer := { id := 9, w := 1, h := 1, image := 0 }
    let e (st : EntryState) (sent : Bool) : ScoreEntry := { scorer := 9, ids := [1], state := st, sent := sent, theta := 0 }
    let sig := { pend .pending true with mem := writeBytes (pend .pending true).mem 0x11038 [1] }
    let bad := { pend .pending true with mem := writeBytes (pend .pending true).mem 0x1103C [1] }
    let dead := { pend .dead true with mem := writeBytes (pend .dead true).mem 0x11038 [1] }
    let dropped (s : State) := setCore s 0 (Core.dropAllClean (coreOf s 0))
    let sigOf (s : State) := accessRead (dropped s) (matchAccessor (dropped s) 0) ((matchOf s 0).entryAddr 0 + 56) 8
    let round (ds : List Delta) := engine1 fun m => { m with net := [], rounds := [{ task := me, producer := none, maxAdmit := 1 }], roundExists := true,
                                                             firings := [{ inst := { rule := 3, elems := [1] }, taken := true, closed := true, deltas := ds }] }
    Safety.Ordered s ∧
    (m.betaDue = [] ∧ (matchOf (idle id) 0).open = [] ∧ (matchOf (idle id) 0).deltas = [] ∧ (matchOf (idle fun m => { m with betaDue := [3] }) 0).betaDue = 3 :: [] ∧
      Safety.EngineReaches (idle fun m => { m with betaDue := [3], betaBase := 0x14000 }) a (0x14000 + BitVec.ofNat 64 (64 * 3)) 64 true 0x140C0) ∧
    (m.tsNext < 2 ^ 32 ∧ Safety.EngineReaches (deltas [.assert 0 7 0 [9]]) a (m.wmBase + BitVec.ofNat 64 (64 * 0)) 64 true 0x10000) ∧
    (Safety.Live m 1 ∧ ¬ Safety.Live m 0 ∧ Safety.Rising m.elems ∧ ∃ u, retract (deltas [.retract 1]) 0 1 = .ok u) ∧
    (m.open.find? m.canLookup = some point0 ∧ m.scoreAt point0 = some ({ scorer := 9, keys := [1], theta := 0 }, [1]) ∧ m.entryOf 9 [1] EntryState.found = none ∧
      (∃ i, m.freeSlot 9 [1] = some i) ∧ (∃ u, writeEntry s 0 3 9 [1] .pending 0 none = .ok u) ∧
      (matchOf (pend .pending false) 0).open.find? (matchOf (pend .pending false) 0).canLookup = some point0 ∧
      ∃ i x, (matchOf (pend .pending false) 0).entryOf 9 [1] EntryState.found = some (i, x) ∧ x.state = .pending) ∧
    (Tab.find? m.scores 0 = none ∧ Tab.find? (matchOf owns 0).scores 0 = some (e .pending false) ∧ m.scorers.find? (fun x => x.id == (e .pending false).scorer) = some k ∧
      Memory.wf owns.mem = true ∧ Safety.ScorerReady owns 0 0 0 0x3000) ∧
    (okB (scorerQueue owns 0) 0 = true ∧ ∃ u, matchWrite owns 0 (m.entryAddr 0 + 56) (List.replicate 8 0) = .ok u ∧ nodeAcked u (matchAccessor u 0) = true ∧
      (∃ v, publish u 0 1 0 (scorerPacket m 0 k 0) = .ok (v, .sent 6)) ∧ (∃ v, publish (kids 65535) 0 1 0 (scorerPacket m 0 k 0) = .ok (v, .limit)) ∧
      (∃ v, publish (ring 7) 0 1 0 (scorerPacket m 0 k 0) = .ok (v, .full)) ∧
      ∃ v w, publish u 0 1 1 (scorerPacket m 0 k 0) = .ok (v, .queue) ∧ validate v 0 0 0x7FC00000 = .ok w) ∧
    (Safety.EntryReaches sig a (m.entryAddr 0) 0x11000 ∧ physKind 0x11000 = .hbm 0 ∧ leNat (homeRead sig (0x11000 + 56) 8) ≠ 0 ∧ leNat (homeRead (pend .pending true) (0x11000 + 56) 8) = 0 ∧
      Safety.EntryReaches dead a (m.entryAddr 0) 0x11000 ∧ leNat (homeRead dead (0x11000 + 56) 8) ≠ 0) ∧
    ((∃ x, sigOf (pend .pending true) = .ok x ∧ leNat x.2 = 0) ∧ (∃ x v, sigOf sig = .ok x ∧ leNat x.2 ≠ 0 ∧ leNat (x.2.drop 4) = 0 ∧ entryValue x.1 0 0 = .ok v ∧
        ∃ w, setEntryState v.1 0 0 (some .valid) = .ok w) ∧
      (∃ x w, sigOf bad = .ok x ∧ leNat (x.2.drop 4) ≠ 0 ∧ validate x.1 0 0 0x7FC00000 = .ok w) ∧
      (∃ x w, sigOf dead = .ok x ∧ leNat x.2 ≠ 0 ∧ setEntryState x.1 0 0 none = .ok w) ∧ Safety.Rising (matchOf dead 0).scores ∧
      Tab.find? (matchOf dead 0).scores 0 = some (e .dead true)) ∧
    (m.rounds = [] ∧ (matchOf (round []) 0).canSelect = true ∧ (matchOf (round [.retract 1]) 0).canSelect = true ∧
      ((matchOf (round [.retract 1]) 0).firings.any fun f => !f.deltas.isEmpty) = true ∧ ((matchOf (round []) 0).firings.any fun f => !f.deltas.isEmpty) = false ∧
      nodeAcked (round []) (matchAccessor (round []) 0) = true ∧ nodeAcked (withRegs (round []) (matchAccessor (round []) 0)) (matchAccessor (round []) 0) = false) := by
  refine ⟨ordered (by decide), ⟨by decide, by decide, by decide, by decide, engineReaches (by decide)⟩, ⟨by decide, engineReaches (by decide)⟩,
    ⟨⟨_, rfl, by decide⟩, ?_, by simp [Safety.Rising]; decide, okOf (by decide)⟩,
    ⟨lookup_ready (by decide) rfl rfl, by rfl, entryOf_empty rfl, freeSlot_empty rfl, okOf (by decide), lookup_found (by decide) rfl rfl rfl rfl, entryOf_all rfl rfl rfl⟩,
    ⟨by decide, by decide, by decide, by decide, ⟨⟨0x11038, engineReaches (by decide), by decide, by decide⟩, by decide, ⟨0x12000, ok (by decide), by decide, by decide⟩,
      ⟨by decide, ok (by decide), by decide⟩, by decide, by decide, by decide, ok (by decide), by decide, by decide⟩⟩,
    ⟨by decide, _, rfl, by decide, ⟨_, rfl⟩, ⟨_, rfl⟩, ⟨_, rfl⟩, _, _, rfl, rfl⟩,
    ⟨entryReaches (by decide) (by decide) (by decide), by decide, by decide, by decide, entryReaches (by decide) (by decide) (by decide), by decide⟩,
    ⟨⟨_, rfl, by decide⟩, ⟨_, _, rfl, by decide, by decide, rfl, okOf (by decide)⟩, ⟨_, _, rfl, by decide, rfl⟩, ⟨_, _, rfl, by decide, rfl⟩, by simp [Safety.Rising]; decide, by decide⟩,
    by decide, by decide, by decide, by decide, by decide, by decide, by decide⟩
  rintro ⟨e, h, _⟩
  rw [show Tab.find? (matchOf (engine1 id) 0).elems 0 = none by decide] at h
  cases h
/-- A fault record of the task's store at 0x10000, of launch 1. -/
def fault0 : FaultInfo :=
  { core := 0, va := 0x10000, space := 0, gen := 0, protect := false, access := .store, source := 0, task := 0, sourceKind := 0, launch := 1, slog := 0 }
/-- Core 0 with a fault ring at 0x30000 of `n` records, and one of them unresolved. -/
def withFaults (n : W64) : State :=
  setCore (withReady onTask) 0 { coreOf onTask 0 with fltBase := 0x30000, fltTail := n, faults := [{ index := 63, info := fault0 }] }
/-- A hotness entry of space 3, window 5, of die 0, with its queue at 0x40000. -/
def withHot (queued : Bool) (tail : W64) : State :=
  setDie (withReady onTask) 0 { dieOf onTask 0 with hotQBase := 0x40000, hotQTail := tail, hot := [{ space := 3, window := 5, deliv := 9, starve := 9, queued := queued, requeued := false }] }
set_option maxRecDepth 8000 in
/-- An extent with its granule in a valid space and in one that is not; a walk of an old GEN, with a page and without one; a space that is gone; an engine's walk; rings with 63 and 64
records; a record that is unresolved; side-log entries of a task that is placed, of one that is not, and behind another one; hotness entries. -/
theorem witness_MatchAndTranslation_translation :
    let s := withTables (withPage onNodes 1)
    let none_ := withReady (withPage onTask 1)
    let w (gen : Nat) (va : W64) (f : Walker) : Walk := { die := 0, space := 0, gen := gen, va := va, forWhom := f }
    let slab : NodeRef := { kind := .slab, home := 0, idx := 0 }
    let owned := setSlab s 0 0 { Slab.init with owner := some ({ launch := 1, region := 0, x := 0, y := 0 }, 0) }
    let entry (id : Nat) (r : TaskRef) : LogEntry :=
      { id := id, task := r, space := 0, gen := 0, va := 0x10000, content := [some 7], maj := 0, fn := 0, operand := 0, comparand := 0, ord := .rlx, scope := .task, evict := 0, also := [] }
    let log (es : List LogEntry) := setCore s 0 { coreOf s 0 with sideLog := es }
    Safety.Ordered s ∧ (taskOf onTask here).extents[0]? = none ∧ ((taskOf s here).extents[0]?).map (·.space) = some 0 ∧ spaceValid s 0 0 = true ∧ spaceValid none_ 0 0 = false ∧
    (spaceGen s 0 0 = 0 ∧ (w 1 0x10000 (.granule here 0 0)).gen ≠ spaceGen s 0 0 ∧ walkPage s 0 0 0x20000 = none ∧ (∃ l, walkPage s 0 0 0x10000 = some l ∧ l.pbase = 0x10000)) ∧
    (walkLaunch none_ (.granule here 0 0) = some 1 ∧ nodeLaunch owned slab = some 1 ∧ launchRuns owned 1 = true ∧ walkLaunch (withUnit (unitCmd .gather [] none none 0 [])) (.unit 0 5) = some 1) ∧
    ((field (coreOf (withFaults 64) 0).fltTail 0 7 + 128 - field (coreOf (withFaults 64) 0).fltHead 0 7) % 128 = 64 ∧
      (field (coreOf (withFaults 63) 0).fltTail 0 7 + 128 - field (coreOf (withFaults 63) 0).fltHead 0 7) % 128 ≠ 64) ∧
    (faultAt s 0 63 = none ∧ faultAt (withFaults 64) 0 63 = some fault0 ∧ Safety.Alive (withFaults 64) fault0.launch) ∧
    ((coreOf s 0).sideLog.find? (fun e => e.id == 0) = none ∧ (coreOf (log [entry 0 me]) 0).sideLog.find? (fun e => e.id == 0) = some (entry 0 me) ∧ placeOf s me = some here ∧
      placeOf s { me with launch := 2 } = none ∧ drainBlocked (coreOf (log [entry 0 me, entry 1 me]) 0) (entry 1 me) = true ∧ drainBlocked (coreOf (log [entry 0 me]) 0) (entry 0 me) = false ∧
      faultKnown (log [entry 0 me]) fault0 = false ∧ goesTo { log [entry 0 me] with cur := .task here } 0x10000 1 false true (.mem 0x10000) = true ∧
      ∃ u, drainAt { log [entry 0 me] with cur := .task here } here (entry 0 me) 0x10000 = .ok u) ∧
    ((dieOf s 0).hot = [] ∧ (∃ e, (dieOf (withHot true 0) 0).hot.find? (fun e => e.space == 3 && e.window == 5) = some e ∧ e.queued = true) ∧
      (∃ e, (dieOf (withHot false 1024) 0).hot.find? (fun e => e.space == 3 && e.window == 5) = some e ∧ e.queued = false) ∧ (1024 + 2048 - 0) % 2048 = 1024 ∧
      field (dieOf (withHot false 1023) 0).hotQTail 0 11 = 1023 ∧ field ((5 <<< 21 : W64) ||| 3) 0 16 = 3 ∧ field ((5 <<< 21 : W64) ||| 3) 21 36 = 5) := by
  refine ⟨ordered (by decide), by decide, by decide, by decide, by decide, ⟨by decide, by decide, by decide, ⟨_, rfl, by decide⟩⟩, by decide, by decide, ⟨by decide, by decide, by decide, by decide⟩,
    ⟨by decide, by decide, by decide, by decide, by decide, by decide, by decide, by decide, okOf (by decide)⟩, ⟨by decide, ⟨_, rfl, by decide⟩, ⟨_, rfl, by decide⟩, by decide⟩⟩

/-! ### Hypotheses met: launches and the schedulers -/

/-- The task with a producer. -/
def waitingOn (p : ProducerState) : State := withThread onTask fun t => { t with producers := [{ id := 4, state := p, acq := none, held := false }] }
/-- The task in a slot state. -/
def inSlot (x : Slot) : State := setTask onTask here { taskOf onTask here with slot := x }
/-- Launch 1 changed. -/
def withLaunch (f : Launch → Launch) : State := setLaunch onTask 1 (f (launchOf onTask 1))
/-- Core 0's leaf block changed. -/
def withBlock (f : LeafBlock → LeafBlock) : State := setCore onTask 0 { coreOf onTask 0 with block := f (coreOf onTask 0).block }
/-- A barrier whose phase bit 0 has passed, and one that waits, at 0xFFF0 of the local store. -/
def withBar (w : List Byte) : State := onSiteOf onTask fun x => { x with localStore := writeBytes [] 0xFFF0 w }
set_option maxRecDepth 8000 in
/-- A producer that is there and not; ready, at an engine, at barriers that are complete and not, with children of each kind, and of a local load; a task that waits with a timeout, has
retired, and has stores in the side log; regions at each stage; launches over and not. -/
theorem witness_LaunchesAndSchedulers_tasks :
    let bar (gen : W32) := setLaunch (waitingOn (.barrier 15 false gen 3)) 1 { launchOf onTask 1 with groups := [(15, { Group.initial with gen := 7 })] }
    let kids (done : Bool) := setTask onTask here { taskOf onTask here with children := [{ id := 6, complete := done, error := true }] }
    let logged := setCore (inSlot .done) 0 { coreOf onTask 0 with sideLog := [logEntry onTask] }
    let region (f : Region → Region) (x : Slot) := setLaunch (inSlot x) 1 { launchOf onTask 1 with regions := [f probeRegion] }
    let a := launchOf onTask 1
    let ended : Launch := { a with regions := [{ probeRegion with retired := true }] }
    let signal := withTables onTask
    (Safety.Ordered onTask ∧ Safety.Rising onTask.sites ∧ Safety.Rising onTask.launches) ∧
    ((threadOf onTask (.task here)).producers = [] ∧ ((threadOf (waitingOn (.ready (.scalar 3 .null))) (.task here)).producers.find? (fun p => p.id == 4)).map (·.state) = some (.ready (.scalar 3 .null))) ∧
    (Group.status (groupOf (bar 7) 1 { gang := false, idx := 15 }) 7 = none ∧ (Group.status (groupOf (bar 6) 1 { gang := false, idx := 15 }) 6).isSome = true) ∧
    (okB (pollBarrier (withBar [0]) 0xFFFF00000000FFF0 0) none = true ∧ (∃ w, pollBarrier (withBar [1]) 0xFFFF00000000FFF0 0 = .ok (some w))) ∧
    ((∃ c ∈ (taskOf (kids false) here).children.filter (fun c => [6].contains c.id), c.complete = false) ∧
      (∀ c ∈ (taskOf (kids true) here).children.filter (fun c => [6].contains c.id), c.complete = true) ∧
      ∀ c ∈ (taskOf (kids false) here).children.filter (fun c => [5].contains c.id), c.complete = true) ∧
    ((threadOf (waitingOn (.performed (.scalar 3 .null))) (.task here)).producers.map (·.state) = [.performed (.scalar 3 .null)] ∧
      (threadOf (waitingOn (.delta 15 (.scalar 3 .null))) (.task here)).producers.map (·.state) = [.delta 15 (.scalar 3 .null)] ∧
      nodeAt onNodes (refOr onNodes here) 15 = some { kind := .match_, home := 0, idx := 0 } ∧
      (matchOf (engine1 fun m => { m with net := [] }) 0).settled = true ∧ nodeAcked (engine1 id) (matchAccessor (engine1 id) 0) = true ∧ (matchOf (engine1 id) 0).betaDue = [] ∧
      (matchOf (engine1 fun m => { m with deltas := [.retract 1] }) 0).settled = false) ∧
    (goesTo onTask 0xFFFF00000000FFFC 4 true false (.localStore 0xFFFC) = true) ∧
    ((taskOf (inSlot (.waiting (.waita 5 true))) here).slot = .waiting (.waita 5 true) ∧ (taskOf onTask here).slot = .ready ∧ (taskOf logged here).slot = .done ∧
      (∃ e ∈ (coreOf logged 0).sideLog, e.task = refOr logged here) ∧ (coreOf (inSlot .done) 0).sideLog = [] ∧ regionOf onTask 1 0 = some probeRegion ∧
      regionTasks onTask probeRegion = [here]) ∧
    (regionOf onTask 1 1 = none ∧ tasksRetired onTask probeRegion = false ∧ tasksRetired (region id .retired) probeRegion = true ∧ regionEmpty (region id .retired) 1 0 probeRegion = true ∧
      (∀ k ∈ regionSites probeRegion, Site.stray (siteOf (region id .retired) k) = false) ∧ (launchOf (withLaunch fun a => { a with killed := true }) 1).killed = true ∧
      (regionOf (region (fun g => { g with retired := true }) .retired) 1 0).map (·.retired) = some true ∧
      probeRegion.placed = true ∧ (regionOf (region (fun g => { g with placed := false }) .retired) 1 0).map (·.placed) = some false ∧
      (∃ k ∈ regionSites probeRegion, Site.stray (siteOf (onSiteOf (inSlot .retired) fun x => { x with chans := x.chans.set 2 { slots := [(tok .int32 1, 0)] } }) k) = true)) ∧
    (Tab.find? onTask.launches 2 = none ∧ launchOver a = false ∧ launchOver ended = true ∧ launchOver { ended with childrenLive := 1 } = false ∧ ended.error = none ∧
      writablePa signal 0 0x10000 = some 0x10000 ∧ Safety.HomeWritable signal 0x10000 16 ∧ Safety.HomeWritable (homeWrite signal 0x10000 (List.replicate 16 1)) 0x10000 8 ∧
      launchUnregistered signal 1 = false ∧ launchUnregistered (onCore signal fun x => { x with regsOut := [{ who := [.task me], line := 0, mask := 1, lost := false }] }) 1 = true ∧
      ({ ended with error := some { cause := 1, sub := 0, x := 0, y := 0, task := 0, count := 1 }, errRec := 0x10000 } : Launch).error ≠ none) := by
  refine ⟨⟨ordered (by decide), by simp [Safety.Rising]; decide, by simp [Safety.Rising]; decide⟩, by decide, by decide, ⟨by decide, ⟨_, rfl⟩⟩, by decide, by decide, by decide, by decide,
    by decide, ⟨by decide, by decide, by decide, by decide, by decide, by decide, ⟨homeFree (by decide), by decide⟩, ⟨homeFree (by decide), by decide⟩, by decide⟩⟩
set_option maxRecDepth 8000 in
/-- Engines of a launch that is being pre-empted and of none; launches that are retired, not dispatched, with an engine to halt, ready to be saved, and saved; a launch for which another one
must go; an eligible queue and its packet, and an empty one; permits, messages and registers. -/
theorem witness_LaunchesAndSchedulers_schedulers :
    let slab : NodeRef := { kind := .slab, home := 0, idx := 0 }
    let pre := setLaunch (withSlab id) 1 { launchOf (withSlab id) 1 with preempt := true }
    let busySlab := withSlab fun x => { x with exec := some { exec2 0 [] with band := 1 } }
    let undone := withLaunch fun a => { a with preempt := true, regions := [{ probeRegion with dispatched := false }] }
    let save := withLaunch fun a => { a with preempt := true }
    let saved := withLaunch fun a => { a with saved := some (snapshot onTask 1 (launchOf onTask 1)), state := .resuming }
    let old := setLaunch { onTask with time := 230400 } 2
      { launchOf onTask 1 with state := .pending, prio := 3, regions := [{ Region.unplaced 16 16 0 0 with onDie := some 0 }] }
    let q (h t : Nat) := withQcb (withTables onGlobal) h t t
    let qcb : List Byte := leBytes 8 0x3000 ++ [1, 0, 0, 0] ++ leBytes 4 3 ++ leBytes 8 5 ++ leBytes 8 6 ++ leBytes 8 6
    let queue : State := { q 5 6 with mem := writeBytes (writeBytes (tables 0x100000) 0x2000 qcb) 0x3040 (packetD.flatMap fun w => leBytes 4 w.toNat) }
    let tx := { onTask with glob := { onTask.glob with permits := onTask.glob.permits.set 15 0, txFlight := onTask.glob.txFlight.set 0 [[7]], rx := [(3, [7])], timer := 9, monitored := [64] } }
    let off : State := { onTask with dbg := { onTask.dbg with dbgEn := 0 } }
    (nodeLaunch onTask slab = none ∧ nodeLaunch pre slab = some 1 ∧ (launchOf pre 1).preempt = true ∧ (launchOf (withSlab id) 1).preempt = false) ∧
    (Tab.find? onTask.launches 2 = none ∧ (∃ g ∈ (launchOf undone 1).regions, g.retired = false ∧ g.dispatched = false) ∧ slab ∈ launchNodes (launchOf pre 1) ∧
      nodeHalted pre slab = false ∧ launchNodes (launchOf save 1) = [] ∧ saveReady save 1 (launchOf save 1) = true ∧
      saveReady (setCore save 0 { coreOf save 0 with regsOut := [{ who := [.task me], line := 0, mask := 1, lost := false }] }) 1 (launchOf save 1) = false) ∧
    ((launchOf onTask 1).saved = none ∧ (launchOf saved 1).saved ≠ none ∧ allInstalled saved 1 = true ∧ logsFit saved (snapshot onTask 1 (launchOf onTask 1)) = true ∧
      logsFit (onCore saved fun x => { x with sideLog := List.replicate 512 (logEntry onTask) }) (snapshot (withLog onTask 1) 1 (launchOf (withLog onTask 1) 1)) = false) ∧
    (nodeEnding pre slab = false ∧ nodeEnding (setLaunch busySlab 1 { launchOf busySlab 1 with preempt := true }) slab = true) ∧
    (agingVictims onTask 1 = [] ∧ agingVictims old 2 = [1] ∧ periods old (launchOf old 2).since = 1) ∧
    (eligible onTask 0 = false ∧ eligible (q 5 5) 0 = false ∧ eligible queue 0 = true ∧ okB (placeReady queue (qcbAddr queue 0) 64 true true) () = true ∧
      (∃ p, Safety.HeadIs (fillEntry queue 0) (entryOf (fillEntry queue 0) 0) (headTail (fillEntry queue 0) 0).1 p ∧ at' p 0 1 = 1 ∧ packetOk p true = true ∧ signalUsable p = true) ∧
      bit (entryOf (fillEntry queue 0) 0).flags 1 = true ∧ spaceValid (fillEntry queue 0) 0 (entryOf (fillEntry queue 0) 0).space = true ∧
      packetOk (List.replicate 64 0) true = false ∧ spaceValid onTask 0 0 = false) ∧
    (Safety.HomeWritable queue (qcbAddr queue 0) 64) ∧
    (tx.glob.permits.get 15 = 0 ∧ tx.glob.permits.get 0 = 8 ∧ (coreOf (withBlock fun b => { b with permits := 0 }) 0).block.permits = 0 ∧ (coreOf onTask 0).block.permits = 8 ∧
      onTask.glob.txFlight.get 0 = [] ∧ tx.glob.txFlight.get 0 = [[7]] ∧ (coreOf (withBlock fun b => { b with txFlight := [[7]] }) 0).block.txFlight = [[7]] ∧
      onTask.glob.rx = [] ∧ tx.glob.rx = [(3, [7])] ∧ (coreOf (withBlock fun b => { b with rx := [[7]] }) 0).block.rx = [[7]] ∧
      (coreOf (withBlock fun b => { b with txFlight := [[3]], awaiting := [(1, 0)] }) 0).block.awaiting = (1, 0) :: [] ∧ field ((3 : W64)) 0 8 = 3 ∧
      regionOf onTask 1 0 = some probeRegion) ∧
    (qcbAddr onTask 0 / 128 ∉ onTask.glob.monitored ∧ qcbAddr (q 5 6) 0 / 128 = 64 ∧ 64 ∈ tx.glob.monitored ∧ onTask.glob.entries = [] ∧
      ((fillEntry queue 0).glob.entries.find? (fun e => e.queue == 0)).isSome = true ∧ onTask.glob.timer = 0 ∧ tx.glob.timer ≠ 0) ∧
    (regAt 0xC000004 = none ∧ regAt 0xC000000 = some .qtBase ∧ denied onTask .qtBase true = false ∧ Safety.rwBits .qtBase = some (6, 51) ∧ regAt 0xC000028 = some .events ∧
      denied onTask .events true = false ∧ regAt 0x18000608 = some (.brkLid 0) ∧ denied off (.brkLid 0) true = true ∧ off.dbg.deny ≠ BitVec.allOnes 64) := by
  refine ⟨by decide, ⟨by decide, by decide, by decide, by decide, by decide, by decide, by decide⟩, by decide, by decide,
    by decide, ⟨by decide, by decide, by decide, by decide, ⟨_, .inl rfl, by decide⟩, by decide, by decide, by decide, by decide⟩, ⟨homeFree (by decide), by decide⟩, by decide, by decide, by decide⟩

/-! ### Hypotheses met: debug, reliability, bring-up -/

/-- Block 6 changed. -/
def withDbg (f : Debug → Debug) : State := { withReady onTask with dbg := f (withReady onTask).dbg }
/-- The site of the tests with its output 0 fired on a token of input channel 0, routed to channel 0 of the same site. -/
def fired (input : Nat) (fire arrive : W64) : State :=
  onSiteOf (withReady onTask) fun x => { x with nodeMap := [[5, 0, 0, 0]], outs := x.outs.set 0 { OutChan.empty with route := some 0, fired := true, lastInput := input, lastFire := fire, lastArrive := arrive } }
set_option maxRecDepth 8000 in
/-- A launch that is there, one that is not and one that is killed; a task selected for debug, and none; elements of no launch, that have not fired, that read memory, with a producer and
without one; hops 254 and 255; a ring with 2,047 and 2,048 records; a trace that runs, triggers, and stops; a core with launches; launches that can be killed; words that are dirty and not;
self-checks; requests of this incarnation and of another one, of memory that is up, is not, and is not here, at rest and not. -/
theorem witness_DebugAndReliability :
    let sel := setLaunch (onSiteOf (withDbg fun d => { d with dbgSel := 5 }) fun x => { x with nodeMap := [[5, 0, 0, 0]] }) 1 { launchOf onTask 1 with halted := true }
    let walk (hop : Nat) : MarkWalk := { launch := 1, sample := 3, hop := hop, place := .site siteHere, out := none }
    let ring (n : W64) := withDbg fun d => { d with ringTail := n }
    let trc (b : W64) (left : Nat) := withDbg fun d => { d with trcStat := b, trcLeft := left }
    let inc := { withReady onTask with glob := { onTask.glob with incarn := 5 } }
    let busy := { withHome inc 0 { HomeLine.unregistered with owners := [(0, 1)] } with cores := [(1, { Core.reset with l1 := [(0, { L1Line.empty with owned := 1, dirty := 1 })] })] }
    let rows := withDbg fun d => { d with trcRows := [List.replicate 68 7] }
    Safety.Ordered onTask ∧ Safety.Ordered sel ∧ Safety.Ordered (fired 0 9 9) ∧ Safety.Ordered busy ∧
    (Tab.find? onTask.launches 2 = none ∧ (Tab.find? onTask.launches 1).isSome = true ∧ (launchOf onTask 1).killed = false ∧ (launchOf onTask 1).state ≠ .complete ∧
      (launchOf (withLaunch fun a => { a with killed := true }) 1).killed = true) ∧
    (selectedTask onTask = none ∧ selectedTask sel = some here) ∧
    ((elementOwner onTask (.site { siteHere with site := 5 })).map (·.launch) ≠ some 1 ∧ (elementOwner onTask (walk 0).place).map (·.launch) = some (walk 0).launch) ∧
    ((walkFiring onTask (walk 0).place (walk 0).out).isNone = true ∧ (∃ x, walkFiring (fired 32 9 9) (walk 0).place (walk 0).out = some x ∧ fromMemory (fired 32 9 9) (walk 0).place x = true) ∧
      (∃ x, walkFiring (fired 0 9 8) (walk 0).place (walk 0).out = some x ∧ fromMemory (fired 0 9 8) (walk 0).place x = false ∧ producerOf (fired 0 9 8) (walk 0).place 0 8 = none) ∧
      producerOf (fired 0 9 9) (walk 254).place 0 9 = some (.site siteHere, some 0) ∧ 255 ≤ (walk 255).hop ∧ (walk 254).hop < 255) ∧
    (Safety.ringFull (ring 2048) ∧ ¬ Safety.ringFull (ring 2047) ∧ elementWith sel 1 5 = some (.site siteHere) ∧ elementWith sel 1 6 = none) ∧
    ((∀ r ∈ rows.dbg.trcRows, r.length = 68) ∧ bit onTask.dbg.trcStat 0 = false ∧ (bit (trc 1 0).dbg.trcStat 0 = true ∧ bit (trc 1 0).dbg.trcStat 1 = false) ∧
      (bit (trc 3 1).dbg.trcStat 0 = true ∧ bit (trc 3 1).dbg.trcStat 1 = true ∧ (trc 3 1).dbg.trcLeft ≠ 0 ∧ (trc 3 0).dbg.trcLeft = 0)) ∧
    (1 ∈ launchesOn onTask 0 ∧ Safety.Alive onTask 1 ∧ (∀ p ∈ (coreOf onTask 0).l1, dirtyWords p.2 = 0) ∧ (∀ r ∈ (homeLine onTask 0).revoking, r.core ≠ 0) ∧ wbComing onTask 0 0 31 = false) ∧
    (bit (l1Line (coreOf onOwner 1) 0).owned 1 = false ∧ bit (l1Line (coreOf onOwner 1) 0).owned 31 = true ∧ field (l1Line (coreOf onOwner 1) 0).dirty (4 * 31) 4 ≠ 0) ∧
    (onTask.dbg.checking = false ∧ (withDbg fun d => { d with checking := true }).dbg.checking = true) ∧
    ((6 : BitVec 16) ≠ inc.glob.incarn ∧ physKind 0x1000000000000 = .far ∧ physReady onTask 0 = false ∧ physKind 0 ≠ .far ∧ physReady inc 0 = true ∧ homeBusy inc 0 8 = false ∧
      homeBusy busy 0 8 = false ∧ homeBusy (withHome inc 0 { HomeLine.unregistered with revoking := [{ core := 1, words := 1, late := 0 }] }) 0 8 = true ∧ isDram 0 = true) := by
  refine ⟨ordered (by decide), ordered (by decide), ordered (by decide), ordered (by decide), by decide, by decide, by decide,
    ⟨by rfl, ⟨_, rfl, by decide⟩, ⟨_, rfl, by decide⟩, by decide⟩, ⟨by unfold Safety.ringFull; decide, by unfold Safety.ringFull; decide, by decide, by decide⟩, by decide,
    ⟨by decide, ⟨by decide, by decide⟩, by decide, by decide, by decide⟩, by decide, by decide, by decide⟩
/-- The address of a measurement of M0 to M4 and of M5; a memory unit and one that there is not, with codes that are its own and not; a RESTORE with results and without; a step that is the ROM's
and one that is not; the last code of a sequence; four tries; a retained store that keeps the digest, and one that does not; a slot that holds no image, where one can be loaded and where
not. The fused digests of root keys, the device's identity key, and the fuses' state are opaque (log 9), so whether an image or a debug token is
good is not decided by evaluation: both cases of each are stated. -/
theorem witness_BringUp :
    let t (x : TrainUnit) := setTrain onTask 0 x
    let warm := withDbg fun d => { d with retained := Config.bootDigest }
    let cold := withDbg fun d => { d with retained := ~~~Config.bootDigest }
    (field (4 : W64) 0 3 ≤ 4 ∧ 4 < field (5 : W64) 0 3) ∧
    (Safety.TrainingStep 0 (.trnReset 0) 1 ∧ Safety.TrainingStep 63 (.online 63) 8 ∧ (unitClass 0).valid 1 = true ∧ (unitClass 0).valid 9 = false ∧ (unitClass 12).valid 9 = true ∧
      (unitClass 63).valid 8 = false) ∧
    ((trainAt (t { stat := 1, cfg := 0, step := 6, tries := 3, saved := true }) 0).step = 6 ∧ (trainAt onTask 0).step ≠ 6 ∧ (unitClass 0).after 8 = none ∧ (unitClass 0).after 6 = some 8 ∧
      (unitClass 0).valid 8 = true ∧ 3 < (trainAt (t { stat := 1, cfg := 0, step := 7, tries := 4, saved := false }) 0).tries) ∧
    (warm.dbg.retained = Config.bootDigest ∧ cold.dbg.retained ≠ Config.bootDigest) ∧
    (bit onTask.dbg.ready 39 = false ∧ bit warm.dbg.ready 39 = true ∧ ¬ Safety.ImageOk warm.dbg.fwSlot ∧ bit warm.dbg.ready 40 = true ∧ bit onTask.dbg.ready 40 = false) := by
  refine ⟨by decide, ⟨by simp [Safety.TrainingStep], by simp [Safety.TrainingStep], by decide, by decide, by decide, by decide⟩, by decide, ⟨rfl, fun h => ?_⟩, by decide, by decide,
    fun h => absurd h.1 (by decide), by decide⟩
  have h1 := congrArg (fun w : BitVec 512 => w.getLsbD 0) (show ~~~Config.bootDigest = Config.bootDigest from h)
  simp at h1

/-! ### Hypotheses met: the machine as a whole -/

/-- A task whose word adds s2 and s3; the same with a word that is no instruction. -/
def atWord (w : W128) : State := placeTask State.reset w
theorem witness_EncodingIsExact : Instr.isWord (.add addOps) = true ∧ Instr.wf (.add addOps) = true ∧ decode 0x01000100000000000300000002000000 = .ok (.add addOps) :=
  ⟨by decide, by decide, by rfl⟩
/-- One agent can issue; its word decodes; another one's does not. An event is the one move; and there is none. -/
theorem witness_StepRunsTheDecodedInstruction :
    let s := atWord 0x01000100000000000300000002000000
    let t := atWord 0
    let e : State := { quiet State.reset with agenda := [.monhit] }
    (∃ u, Safety.Issues s (.task here) u ∧ wordBreak u = none ∧ fetchFaults u = false ∧ decode (Safety.wordHere u) = .ok (.add addOps) ∧ bit s.dbg.trcStat 0 = false) ∧
    (∃ u, Safety.Issues t (.task here) u ∧ wordBreak u = none ∧ decode (Safety.wordHere u) = .error .operands) ∧
    (pick (tick e) (moves (tick e)) = some (.event 0) ∧ e.agenda[0]? = some .monhit) ∧ moves (tick (quiet State.reset)) = [] := by
  refine ⟨⟨_, ⟨?_, rfl⟩, ?_, ?_, ?_, ?_⟩, ⟨_, ⟨?_, rfl⟩, ?_, ?_⟩, ⟨?_, ?_⟩, ?_⟩ <;> rfl
/-- A load of a controller from a reserved physical address stops the machine. -/
theorem witness_FaultsAndWrongPlaces :
    let o : Operands := { dst := .s 1, mod := .mem .rlx .task 0, a := rs 2, b := .unread, c := .unread }
    (exec (.ldb o) (withS onGlobal [(2, 0x0000F00000000000)])) = .fault (.reservedPhysical 0x0000F00000000000) ∧
    (Instr.head (.peek o)).map (·.1) = some 0x26 ∧ 0x26 ∉ Safety.controllerMajors ∧ Instr.operands (.peek o) = some o ∧ Operands.ctlOk { o with a := rv 2 } = false ∧
    onSite onGlobal = false ∧ onSite onTask = true ∧ onGlobal.cur = .global ∧ onLeaf.cur = .leaf 0 := by
  exact ⟨by rfl, by decide⟩
/-- A task that is about to issue an addition. -/
theorem witness_EveryStepKeepsTheInvariant : Safety.Inv (atWord 0x01000100000000000300000002000000) ∧ ∃ t, step (atWord 0x01000100000000000300000002000000) = .next t := by
  refine ⟨⟨ordered (by decide), ⟨by decide, ?_, by decide, by decide⟩, by simp [Safety.Rising]; decide, by simp [Safety.Rising]; decide, by simp [Safety.Rising]; decide,
    by simp [Safety.Rising]; decide, by simp [Safety.Rising]; decide⟩, _, rfl⟩
  intro p hp v hv
  have : p.2.saved = none := (by decide : ∀ p ∈ (atWord 0x01000100000000000300000002000000).launches, p.2.saved = none) p hp
  rw [this] at hv
  cases hv

end Sys2Proof.Tests
end

section
/-! PROOFS. The values of the integer instructions and the divisions of major 0x01 (R158 to R160). -/

namespace Sys2Proof.Machine

open Sys2Proof.Safety

/-! ### Exact sums, differences and products (R158) -/

/-- The two spellings of SAT's clamping agree. -/
theorem satOrWrap_true (v : Int) : satOrWrap 64 true v = signed64 true v := by
  simp only [satOrWrap, signed64, if_true]
  split
  · exact congrArg (BitVec.ofInt 64) (by omega)
  · split <;> exact congrArg (BitVec.ofInt 64) (by omega)

/-- SAT clamps an exact result; without it the result is the word that the exact one wraps to. -/
theorem satOrWrap_eq {v : Int} {w : W64} (sat : Bool) (h : BitVec.ofInt 64 v = w) :
    satOrWrap 64 sat v = if sat then signed64 true v else w := by
  cases sat
  · exact h
  · exact satOrWrap_true v

theorem ofInt_toInt_add (a b : W64) : BitVec.ofInt 64 (a.toInt + b.toInt) = a + b := by
  rw [BitVec.ofInt_add, BitVec.ofInt_toInt, BitVec.ofInt_toInt]

theorem ofInt_toInt_sub (a b : W64) : BitVec.ofInt 64 (a.toInt - b.toInt) = a - b := by
  rw [Int.sub_eq_add_neg, BitVec.ofInt_add, BitVec.ofInt_neg, BitVec.ofInt_toInt, BitVec.ofInt_toInt, BitVec.sub_eq_add_neg]

theorem ofInt_toInt_mul (a b : W64) : BitVec.ofInt 64 (a.toInt * b.toInt) = a * b := by
  rw [BitVec.ofInt_mul, BitVec.ofInt_toInt, BitVec.ofInt_toInt]

/-- The upper half of a 128-bit word is its signed value divided by 2^64, rounding down. -/
theorem bits_upper_eq_ofInt (p : W128) : bits p 64 64 = BitVec.ofInt 64 (p.toInt / 2 ^ 64) := by
  apply BitVec.eq_of_toNat_eq
  simp only [BitVec.extractLsb'_toNat, BitVec.toNat_ofInt, Nat.shiftRight_eq_div_pow, BitVec.toInt_eq_toNat_cond]
  split <;> omega

/-- 128 bits hold every product of two signed 64-bit words. -/
theorem toInt_signExtend_mul (a b : W64) : (a.signExtend 128 * b.signExtend 128).toInt = a.toInt * b.toInt := by
  have natAbs_le (x : W64) : x.toInt.natAbs ≤ 2 ^ 63 := by
    have lo := x.le_toInt
    have hi := x.toInt_lt
    omega
  have bound : (a.toInt * b.toInt).natAbs ≤ 2 ^ 63 * 2 ^ 63 := by
    rw [Int.natAbs_mul]
    exact Nat.mul_le_mul (natAbs_le a) (natAbs_le b)
  rw [BitVec.toInt_mul, BitVec.toInt_signExtend_of_le (by decide), BitVec.toInt_signExtend_of_le (by decide)]
  exact Int.bmod_eq_of_le (by omega) (by omega)

theorem mulh_eq (a b : W64) : BitVec.ofInt 64 (a.toInt * b.toInt / 2 ^ 64) = bits (a.signExtend 128 * b.signExtend 128) 64 64 := by
  rw [bits_upper_eq_ofInt, toInt_signExtend_mul]

theorem mulhu_eq (a b : W64) : BitVec.ofNat 64 (a.toNat * b.toNat / 2 ^ 64) = bits (a.setWidth 128 * b.setWidth 128) 64 64 := by
  have lt : a.toNat * b.toNat < 2 ^ 64 * 2 ^ 64 := Nat.mul_lt_mul'' a.isLt b.isLt
  apply BitVec.eq_of_toNat_eq
  simp only [BitVec.extractLsb'_toNat, BitVec.toNat_mul, BitVec.toNat_setWidth, BitVec.toNat_ofNat, Nat.shiftRight_eq_div_pow]
  rw [Nat.mod_eq_of_lt (a := a.toNat) (by omega), Nat.mod_eq_of_lt (a := b.toNat) (by omega), Nat.mod_eq_of_lt (a := a.toNat * b.toNat) (by omega)]

theorem abs_eq (sat : Bool) (a : W64) : satOrWrap 64 sat (a.toInt.natAbs : Int) =
    if sat && a == BitVec.intMin 64 then BitVec.intMax 64 else if a.toInt < 0 then -a else a := by
  have wrap : BitVec.ofInt 64 (a.toInt.natAbs : Int) = if a.toInt < 0 then -a else a := by
    split
    · rw [Int.ofNat_natAbs_of_nonpos (by omega), BitVec.ofInt_neg, BitVec.ofInt_toInt]
    · rw [Int.natAbs_of_nonneg (by omega), BitVec.ofInt_toInt]
  have lo := a.le_toInt
  cases sat
  · simpa [satOrWrap] using wrap
  · by_cases h : a = BitVec.intMin 64
    · subst h; rfl
    · have : a.toInt ≠ -(2 ^ 63) := fun e => h (BitVec.eq_of_toInt_eq e)
      have hi := a.toInt_lt
      simp only [satOrWrap, if_true, beq_iff_eq, h, Bool.true_and, if_false, ← wrap]
      rw [if_neg (by omega), if_neg (by omega)]

/-! ### The smaller and the greater of two words (R158) -/

theorem ite_sle (a b x y : W64) : (if a.sle b then x else y) = if a.toInt ≤ b.toInt then x else y := by
  simp only [BitVec.sle_iff_toInt_le]

theorem ite_ule (a b x y : W64) : (if a.ule b then x else y) = if a.toNat ≤ b.toNat then x else y := by
  simp only [BitVec.ule_iff_toNat_le]

/-! ### Shifts (R158) -/

theorem shiftLeft_eq_ofNat (a : W64) (n : Nat) : a <<< n = BitVec.ofNat 64 (a.toNat * 2 ^ n) := by
  apply BitVec.eq_of_toNat_eq
  simp [Nat.shiftLeft_eq]

theorem ushiftRight_eq_ofNat (a : W64) (n : Nat) : a >>> n = BitVec.ofNat 64 (a.toNat / 2 ^ n) := by
  apply BitVec.eq_of_toNat_eq
  rw [BitVec.toNat_ushiftRight, Nat.shiftRight_eq_div_pow, BitVec.toNat_ofNat, Nat.mod_eq_of_lt]
  exact Nat.lt_of_le_of_lt (Nat.div_le_self _ _) a.isLt

theorem sshiftRight_eq_ofInt (a : W64) (n : Nat) : a.sshiftRight n = BitVec.ofInt 64 (a.toInt / 2 ^ n) := by
  rw [BitVec.sshiftRight_eq, Int.shiftRight_eq_div_pow]; push_cast; rfl

theorem rotateLeft_shiftAmount (a b : W64) :
    a.rotateLeft (shiftAmount b) = (a <<< (b.toNat % 64)) ||| (a >>> (64 - b.toNat % 64)) := by
  rw [BitVec.rotateLeft_def, shiftAmount, Nat.mod_mod]

theorem shiftLeft_eq_mul (b : W64) (n : Nat) : b <<< n = b * BitVec.ofNat 64 (2 ^ n) := by
  rw [BitVec.shiftLeft_eq_mul_twoPow]
  congr 1
  exact BitVec.eq_of_toNat_eq (by simp [BitVec.toNat_twoPow])

/-! ### Counts of bits (R158) -/

/-- The bits of a word below its leading zeros are those of its length. -/
theorem clz_eq (a : W64) : BitVec.ofNat 64 (clz64 a) = a.clz := by
  apply BitVec.eq_of_toNat_eq
  by_cases h : a = 0
  · subst h; rfl
  · have nz : a.toNat ≠ 0 := fun e => h (BitVec.eq_of_toNat_eq e)
    have lt : a.clz.toNat < 64 := BitVec.lt_def.mp (BitVec.clz_lt_iff_ne_zero.mpr h)
    have len : a.toNat.log2 = 63 - a.clz.toNat := by
      have upper : a.toNat < 2 ^ (64 - a.clz.toNat) := BitVec.toNat_lt_two_pow_sub_clz
      refine (Nat.log2_eq_iff nz).mpr ⟨BitVec.two_pow_sub_clz_le_toNat_of_ne_zero (by decide) h, ?_⟩
      rwa [show 63 - a.clz.toNat + 1 = 64 - a.clz.toNat by omega]
    rw [clz64, bitLength, if_neg nz, len, BitVec.toNat_ofNat]
    omega

/-- Counting zero bits upwards finds the longest run of them. -/
theorem ctzFrom_eq_takeWhile (a : W64) (i n : Nat) : ctzFrom a i n = ((List.range' i n).takeWhile fun j => !bit a j).length := by
  induction n generalizing i with
  | zero => rfl
  | succ n ih =>
    rw [ctzFrom, List.range'_succ, List.takeWhile_cons, ih]
    cases bit a i
    · simp [Nat.add_comm]
    · rfl

theorem ctz_eq (a : W64) : BitVec.ofNat 64 (ctzFrom a 0 64) = BitVec.ofNat 64 ((List.range 64).takeWhile fun i => !bit a i).length := by
  rw [ctzFrom_eq_takeWhile, List.range_eq_range']

theorem popcount_eq_countP (a : W64) : popcount a = (List.range 64).countP fun i => bit a i := List.countP_eq_length_filter.symm

/-! ### Fields (R160) -/

theorem fieldPos_eq (c : W64) : fieldPos c = c.toNat % 64 := by simp [fieldPos, field]

/-- The effective length of a field specification. -/
def fieldLen (c : W64) : Nat := min (c.toNat / 256 % 128) (64 - c.toNat % 64)

theorem fieldMask_eq (c : W64) : fieldMask c = BitVec.ofNat 64 (2 ^ fieldLen c - 1) := by
  simp [fieldMask, fieldPos_eq, fieldLen, field, Nat.shiftRight_eq_div_pow]

theorem toNat_fieldMask (c : W64) : (fieldMask c).toNat = 2 ^ fieldLen c - 1 := by
  have : 2 ^ fieldLen c ≤ 2 ^ 64 := Nat.pow_le_pow_right (by decide) (by simp only [fieldLen]; omega)
  rw [fieldMask_eq, BitVec.toNat_ofNat, Nat.mod_eq_of_lt (by omega)]

theorem bfx_eq (a b : W64) : (a >>> fieldPos b) &&& fieldMask b = BitVec.ofNat 64 (a.toNat / 2 ^ (b.toNat % 64) % 2 ^ fieldLen b) := by
  have lt : a.toNat / 2 ^ (b.toNat % 64) % 2 ^ fieldLen b < 2 ^ 64 :=
    Nat.lt_of_le_of_lt (Nat.mod_le _ _) (Nat.lt_of_le_of_lt (Nat.div_le_self _ _) a.isLt)
  apply BitVec.eq_of_toNat_eq
  rw [BitVec.toNat_and, toNat_fieldMask, BitVec.toNat_ushiftRight, Nat.and_two_pow_sub_one_eq_mod, Nat.shiftRight_eq_div_pow, fieldPos_eq,
    BitVec.toNat_ofNat, Nat.mod_eq_of_lt lt]

theorem fieldMask_shiftLeft (c : W64) : fieldMask c <<< fieldPos c = BitVec.ofNat 64 ((2 ^ fieldLen c - 1) * 2 ^ (c.toNat % 64)) := by
  rw [shiftLeft_eq_ofNat, toNat_fieldMask, fieldPos_eq]

theorem bfi_eq (a b c : W64) : (a &&& ~~~(fieldMask c <<< fieldPos c)) ||| ((b &&& fieldMask c) <<< fieldPos c) =
    (a &&& ~~~BitVec.ofNat 64 ((2 ^ fieldLen c - 1) * 2 ^ (c.toNat % 64))) |||
      ((b <<< (c.toNat % 64)) &&& BitVec.ofNat 64 ((2 ^ fieldLen c - 1) * 2 ^ (c.toNat % 64))) := by
  rw [BitVec.shiftLeft_and_distrib, fieldMask_shiftLeft, fieldPos_eq]

/-! ### Divisions (R159) -/

theorem ofInt_tdiv (a b : W64) : BitVec.ofInt 64 (a.toInt.tdiv b.toInt) = a.sdiv b := by
  apply BitVec.eq_of_toInt_eq
  rw [BitVec.toInt_ofInt, BitVec.toInt_sdiv]

theorem ofInt_tmod (a b : W64) : BitVec.ofInt 64 (a.toInt.tmod b.toInt) = a.srem b := by
  rw [← BitVec.toInt_srem, BitVec.ofInt_toInt]

end Sys2Proof.Machine
end

section
/-! PROOFS. The integer instructions and the divisions of major 0x01: what each runs, and how it completes or traps (R143 to R146, R158
to R160). -/

namespace Sys2Proof.Machine

open Sys2Proof.Safety

/-! ### What each instruction runs -/

/-- An instruction runs as the scalar operation that reads the sources of its claim and computes `f`. -/
def RunsScalar (o : Operands) (x : ScalarClaim) (f : W64 → W64 → W64 → Except Stop W64) : Prop :=
  ∀ s, exec x.instr s = issue Places.all o s (scalarOp o s x.srcs f)

/-- An instruction runs as the scalar operation that computes the value of its claim, whatever its sources. -/
def RunsValue (o : Operands) (x : ScalarClaim) : Prop := RunsScalar o x fun a b c => .ok (x.value a b c)

/-- An instruction runs as the scalar operation that traps DIVZERO on a zero divisor, and computes the value of its claim on any other. -/
def RunsDivision (o : Operands) (x : ScalarClaim) : Prop :=
  RunsScalar o x fun a b c => if b = 0 then trapOf .divzero else .ok (x.value a b c)

section
variable {o : Operands} {x : ScalarClaim} {f : W64 → W64 → W64 → W64}

theorem runsValue_of_eq (hi : ∀ s, exec x.instr s = issue Places.all o s (scalarOp o s x.srcs fun a b c => .ok (f a b c)))
    (hf : ∀ a b c, f a b c = x.value a b c) : RunsValue o x := by
  obtain rfl : f = x.value := funext fun a => funext fun b => funext fun c => hf a b c
  exact hi

theorem runsDivision_of_eq
    (hi : ∀ s, exec x.instr s =
      issue Places.all o s (scalarOp o s x.srcs fun a b c => if b = 0 then trapOf .divzero else .ok (f a b c)))
    (hf : ∀ a b c, f a b c = x.value a b c) : RunsDivision o x := by
  obtain rfl : f = x.value := funext fun a => funext fun b => funext fun c => hf a b c
  exact hi

end

/-- Each of the 26 integer instructions computes the value of its claim (R158, R160). -/
theorem integerClaims_runValue (o : Operands) : ∀ x ∈ integerClaims o, RunsValue o x := by
  simp only [integerClaims, List.forall_mem_cons]
  exact ⟨runsValue_of_eq (fun _ => rfl) fun a b _ => satOrWrap_eq _ (ofInt_toInt_add a b),
    runsValue_of_eq (fun _ => rfl) fun a b _ => satOrWrap_eq _ (ofInt_toInt_sub a b),
    runsValue_of_eq (fun _ => rfl) fun a b _ => satOrWrap_eq _ (ofInt_toInt_mul a b),
    runsValue_of_eq (fun _ => rfl) fun a b _ => mulh_eq a b,
    runsValue_of_eq (fun _ => rfl) fun a b _ => mulhu_eq a b,
    runsValue_of_eq (fun _ => rfl) fun _ _ _ => rfl,
    runsValue_of_eq (fun _ => rfl) fun _ _ _ => rfl,
    runsValue_of_eq (fun _ => rfl) fun _ _ _ => rfl,
    runsValue_of_eq (fun _ => rfl) fun _ _ _ => rfl,
    runsValue_of_eq (fun _ => rfl) fun a b _ => shiftLeft_eq_ofNat a (shiftAmount b),
    runsValue_of_eq (fun _ => rfl) fun a b _ => ushiftRight_eq_ofNat a (shiftAmount b),
    runsValue_of_eq (fun _ => rfl) fun a b _ => sshiftRight_eq_ofInt a (shiftAmount b),
    runsValue_of_eq (fun _ => rfl) fun a b _ => rotateLeft_shiftAmount a b,
    runsValue_of_eq (fun _ => rfl) fun a _ _ => clz_eq a,
    runsValue_of_eq (fun _ => rfl) fun a _ _ => ctz_eq a,
    runsValue_of_eq (fun _ => rfl) fun a _ _ => congrArg (BitVec.ofNat 64) (popcount_eq_countP a),
    runsValue_of_eq (fun _ => rfl) fun a b _ => ite_sle a b a b,
    runsValue_of_eq (fun _ => rfl) fun a b _ => ite_sle a b b a,
    runsValue_of_eq (fun _ => rfl) fun a b _ => ite_ule a b a b,
    runsValue_of_eq (fun _ => rfl) fun a b _ => ite_ule a b b a,
    runsValue_of_eq (fun _ => rfl) fun a _ _ => abs_eq (Mod.sat o.mod) a,
    runsValue_of_eq (fun _ => rfl) fun _ _ _ => rfl,
    runsValue_of_eq (fun _ => rfl) fun _ _ _ => rfl,
    runsValue_of_eq (fun _ => rfl) fun a b _ => bfx_eq a b,
    runsValue_of_eq (fun _ => rfl) fun a b c => bfi_eq a b c,
    runsValue_of_eq (fun _ => rfl) fun a b c => congrArg (a + ·) (shiftLeft_eq_mul b (c.toNat % 8)),
    List.forall_mem_nil _⟩

/-- Each of the four divisions traps on a zero divisor and computes the value of its claim on any other (R159). -/
theorem divisionClaims_runDivision (o : Operands) : ∀ x ∈ divisionClaims o, RunsDivision o x := by
  simp only [divisionClaims, List.forall_mem_cons]
  exact ⟨runsDivision_of_eq (fun _ => rfl) fun a b _ => ofInt_tdiv a b,
    runsDivision_of_eq (fun _ => rfl) fun _ _ _ => BitVec.udiv_def.symm,
    runsDivision_of_eq (fun _ => rfl) fun a b _ => ofInt_tmod a b,
    runsDivision_of_eq (fun _ => rfl) fun _ _ _ => BitVec.umod_def.symm,
    List.forall_mem_nil _⟩

theorem divisionClaims_srcs (o : Operands) : ∀ x ∈ divisionClaims o, x.srcs = [o.a, o.b] := by
  simp [divisionClaims]

/-! ### How it ends -/

/-- An instruction that runs under its predicate has no effect where bit 0 of it is clear (R97, R145). -/
theorem skips_of_predicated {p : Places} {s : State} {o : Operands} {i : Instr} {x : Exec} (ha : Admitted p s o)
    (hp : predicate s o = false) (hi : exec i s = issue p o s (predicated s (Mod.pred o.mod) x)) : Skips i s :=
  ⟨retire s, hi.trans (predicated_false ha hp x), retire_noEffect s⟩

section
variable {s : State} {o : Operands} {x : ScalarClaim} {f : W64 → W64 → W64 → Except Stop W64}

theorem RunsScalar.skips (hx : RunsScalar o x f) (ha : Admitted Places.all s o) (hp : predicate s o = false) : Skips x.instr s :=
  skips_of_predicated ha hp (hx s)

/-- It completes where its computation, if all its sources are data, gives the value of the claim. -/
theorem RunsScalar.computes (hx : RunsScalar o x f) (ha : Admitted Places.all s o) (hp : predicate s o = true) (hs : Supplied s o)
    (hf : (x.srcs.map (scalarOf s)).all Scalar.isData = true →
      f (pattern s o.a) (pattern s o.b) (pattern s o.c) = .ok (x.value (pattern s o.a) (pattern s o.b) (pattern s o.c))) :
    Computes x o s := by
  unfold Computes
  rw [hx s]
  exact scalarOp_completes ha hp hs x.srcs f _ hf

/-- It traps where all its sources are data and its computation traps. -/
theorem RunsScalar.traps {c : Cause} (hx : RunsScalar o x f) (ha : Admitted Places.all s o) (hp : predicate s o = true) (hs : Supplied s o)
    (hd : (x.srcs.map (scalarOf s)).all Scalar.isData = true)
    (hf : f (pattern s o.a) (pattern s o.b) (pattern s o.c) = trapOf c) : exec x.instr s = .next (takeTrap c 3 0 s) := by
  simp only [pattern] at hf
  rw [hx s, scalarOp, predicated_true ha hp]
  simp only [ready_of_supplied hs, hd, hf, if_true]
  rfl

end

end Sys2Proof.Machine

namespace Sys2Proof.Safety

open Sys2Proof.Machine

/-- Settles O1: each instruction runs the scalar operation that computes its claim's value, which completes whenever it is supplied. -/
theorem integerArithmetic : Obligations.IntegerArithmetic := by
  intro s o ha x hx
  have runs := integerClaims_runValue o x hx
  exact ⟨fun hp => runs.skips ha hp, fun hp hs => runs.computes ha hp hs fun _ => rfl⟩

/-- Settles O2: the divisor is looked at only where both sources are data, and there a zero one traps. -/
theorem divisionAndDivzero : Obligations.DivisionAndDivzero := by
  intro s o ha x hx
  have runs := divisionClaims_runDivision o x hx
  have srcs := divisionClaims_srcs o x hx
  refine ⟨fun hp => runs.skips ha hp, fun hp hs => ⟨fun hn => ?_, fun a hA hB => ?_⟩⟩
  · refine runs.computes ha hp hs fun hd => if_neg fun zero => ?_
    obtain ⟨hA, hB⟩ : Scalar.isData (scalarOf s o.a) = true ∧ Scalar.isData (scalarOf s o.b) = true := by simpa [srcs] using hd
    rw [scalar_isData_iff] at hA hB
    rcases hn with hn | hn
    · exact hn ⟨_, hA⟩
    · exact hn (hB.trans (congrArg Scalar.data zero))
  · refine runs.traps ha hp hs ?_ (if_pos ?_)
    · simp [srcs, hA, hB, Scalar.isData]
    · simp [pattern, hB, Scalar.pattern]

end Sys2Proof.Safety
end

section
/-! PROOFS. TBIND and TUNBIND: the binding table that each makes, and what else of the machine stays (R30, R155). -/

namespace Sys2Proof.Machine

open Sys2Proof.Safety

/-! ### A site changed beside its tasks -/

section
variable {s : State} {k : SiteKey} {x : Site}

theorem taskOf_setSite_of_tasks (h : x.tasks = (siteOf s k).tasks) (k' : TaskKey) : taskOf (setSite s k x) k' = taskOf s k' := by
  by_cases e : siteKeyNat (TaskKey.siteKey k') = siteKeyNat k
  · simp only [taskOf]
    rw [siteOf_congr _ e, siteOf_congr s e, siteOf_setSite, h]
  · simp only [taskOf, siteOf_setSite_other _ _ e]

theorem threadOf_setSite_of_tasks (h : x.tasks = (siteOf s k).tasks) (a : Agent) : threadOf (setSite s k x) a = threadOf s a := by
  cases a with
  | task k' => simp only [threadOf, taskOf_setSite_of_tasks h]
  | leaf c => rfl
  | global => rfl

end

/-- A replaced stream changes nothing of a site but its tasks. -/
theorem siteOf_setThread_besides_tasks (s : State) (a : Agent) (t : Thread) (k : SiteKey) :
    { siteOf (setThread s a t) k with tasks := [] } = { siteOf s k with tasks := [] } := by
  cases a with
  | task k' =>
    by_cases e : siteKeyNat k = siteKeyNat (TaskKey.siteKey k')
    · rw [siteOf_congr _ e, siteOf_congr s e]
      simp [setThread, setTask, Site.setTask]
    · simp only [setThread, setTask, siteOf_setSite_other _ _ e]
  | leaf c => rfl
  | global => rfl

/-! ### The table changed, and the instruction retired -/

/-- The task has retired an instruction, the bindings of its site have become `bs`, and nothing else has changed. -/
def Rebound (k : TaskKey) (bs : List (BitVec 10 × Nat)) (s t : State) : Prop :=
  JustAdvances s t ∧ OthersKept s t ∧ (∀ j, readByte t.mem j = readByte s.mem j) ∧
    { siteOf t (TaskKey.siteKey k) with tasks := [] } = { siteOf s (TaskKey.siteKey k) with bindings := bs, tasks := [] } ∧
    ∀ k', siteKeyNat k' ≠ siteKeyNat (TaskKey.siteKey k) → siteOf t k' = siteOf s k'

/-- A task's site with other bindings. -/
def rebind (s : State) (k : TaskKey) (bs : List (BitVec 10 × Nat)) : State :=
  setSite s (TaskKey.siteKey k) { siteOf s (TaskKey.siteKey k) with bindings := bs }

theorem retire_rebind_rebound {s : State} {k : TaskKey} (hc : s.cur = .task k) (bs : List (BitVec 10 × Nat)) :
    Rebound k bs s (retire (rebind s k bs)) := by
  have streams : ∀ a, threadOf (rebind s k bs) a = threadOf s a := threadOf_setSite_of_tasks rfl
  have retired := Elsewhere.withThread (rebind s k bs) (Thread.next (thread (rebind s k bs)))
  refine ⟨?_, fun a ha => (retired.otherStreams a ha).trans (streams a), retired.memory, ?_, fun k' hk => ?_⟩
  · have thread_eq : thread (retire (rebind s k bs)) = Thread.next (thread s) :=
      (retire_thread _).trans (congrArg Thread.next (streams s.cur))
    rw [JustAdvances, thread_eq]
    exact ⟨rfl, ⟨rfl, rfl, rfl, rfl, rfl, rfl, rfl⟩, rfl, rfl⟩
  · exact (siteOf_setThread_besides_tasks _ _ _ _).trans (by rw [rebind, siteOf_setSite])
  · refine (retired.otherSites k' fun k'' h => ?_).trans (siteOf_setSite_other s _ hk)
    obtain rfl : TaskKey.siteKey k = k'' := by simpa [curSite, rebind, hc] using h
    exact hk

/-! ### How a change of the table ends -/

section
variable {s : State} {o : Operands} {k : TaskKey} {f : List (BitVec 10 × Nat) → BitVec 10 → Nat → Except Stop (List (BitVec 10 × Nat))}
  (ha : Admitted Places.sites s o) (hp : predicate s o = true) (hs : Supplied s o) (hc : s.cur = .task k)
include ha hp hs hc

/-- A supplied TBIND or TUNBIND looks at its tag, and then at the table. -/
theorem bindBy_runs : issue Places.sites o s (bindBy o s f) =
    finish s (tagOf (scalarOf s o.a) >>= fun tag => (f (siteOf s (TaskKey.siteKey k)).bindings tag k.slot).map fun bs => retire (rebind s k bs)) := by
  rw [bindBy, predicated_true ha hp, ready_of_supplied hs, hc]
  rfl

theorem bindBy_traps_of_tag (ht : tagOf (scalarOf s o.a) = illop) :
    issue Places.sites o s (bindBy o s f) = .next (takeTrap .illop 3 0 s) := by
  rw [bindBy_runs ha hp hs hc, ht]
  rfl

variable {tag : BitVec 10} (ht : tagOf (scalarOf s o.a) = .ok tag)
include ht

theorem bindBy_traps (hf : f (siteOf s (TaskKey.siteKey k)).bindings tag k.slot = illop) :
    issue Places.sites o s (bindBy o s f) = .next (takeTrap .illop 3 0 s) := by
  rw [bindBy_runs ha hp hs hc, ht]
  simp only [bind, Except.bind, hf]
  rfl

theorem bindBy_completes {bs : List (BitVec 10 × Nat)} (hf : f (siteOf s (TaskKey.siteKey k)).bindings tag k.slot = .ok bs) :
    issue Places.sites o s (bindBy o s f) = .next (retire (rebind s k bs)) := by
  rw [bindBy_runs ha hp hs hc, ht]
  simp only [bind, Except.bind, hf]
  rfl

end

/-! ### The tag and the table -/

theorem tagOf_of_le {w : W64} (h : w.toNat ≤ 1022) : tagOf (.data w) = .ok (BitVec.ofNat 10 w.toNat) := if_neg (by omega)

theorem tagOf_of_not_tag {x : Scalar} (h : ∀ w, x = .data w → 1022 < w.toNat) : tagOf x = illop := by
  cases x with
  | data w => exact if_pos (h w rfl)
  | null => rfl
  | err c => rfl

section
variable {bs : List (BitVec 10 × Nat)} {tag : BitVec 10} {slot : Nat}

/-- A tag that no task holds is bound, within the limits of the task and of the site. -/
theorem bindTag_of_free (h : ∀ b ∈ bs, b.1 ≠ tag) : bindTag bs tag slot =
    if 8 ≤ (bs.filter fun b => b.2 == slot).length ∨ 64 ≤ bs.length then illop else .ok (bs ++ [(tag, slot)]) := by
  have : bs.find? (·.1 == tag) = none := List.find?_eq_none.mpr fun b hb => by simpa using h b hb
  simp only [bindTag, this, ge_iff_le]

/-- A tag that is held is looked up: the table stays for its holder, and another task traps. -/
theorem bindTag_of_held (h : ∃ b ∈ bs, b.1 = tag) :
    ∃ b ∈ bs, b.1 = tag ∧ bindTag bs tag slot = if b.2 = slot then .ok bs else illop := by
  obtain ⟨b, hb⟩ : ∃ b, bs.find? (·.1 == tag) = some b := by
    rw [← Option.isSome_iff_exists, List.find?_isSome]
    simpa using h
  exact ⟨b, List.mem_of_find?_eq_some hb, by simpa using List.find?_some hb, by simp only [bindTag, hb]⟩

end

end Sys2Proof.Machine

namespace Sys2Proof.Safety

open Sys2Proof.Machine

/-- Settles O30, by whether the tag is free, the task's own, or another task's. -/
theorem tagBindings : Obligations.TagBindings := by
  intro s o k ha hc x becomes
  refine ⟨fun hp => ⟨skips_of_predicated ha hp rfl, skips_of_predicated ha hp rfl⟩, fun hp hs => ⟨fun bad => ?_, fun w hw le => ?_⟩⟩
  · have ht := tagOf_of_not_tag bad
    exact ⟨bindBy_traps_of_tag ha hp hs hc ht, bindBy_traps_of_tag ha hp hs hc ht⟩
  · intro tag
    have ht : tagOf (scalarOf s o.a) = .ok tag := by rw [hw, tagOf_of_le le]
    have traps : bindTag x.bindings tag k.slot = illop → exec (.tbind o) s = .next (takeTrap .illop 3 0 s) :=
      bindBy_traps ha hp hs hc ht
    have binds {bs} (h : bindTag x.bindings tag k.slot = .ok bs) : becomes (.tbind o) bs :=
      ⟨retire (rebind s k bs), bindBy_completes ha hp hs hc ht h, retire_rebind_rebound hc bs⟩
    refine ⟨fun free => ⟨fun room => binds ?_, fun full => traps ?_⟩, fun own only => binds ?_, fun held other => traps ?_, ?_⟩
    · rw [bindTag_of_free free, if_neg (by omega)]
    · rw [bindTag_of_free free, if_pos full]
    · obtain ⟨b, hb, htag, e⟩ := bindTag_of_held (slot := k.slot) ⟨_, own, rfl⟩
      rw [e, if_pos (only b hb htag)]
    · obtain ⟨b, hb, htag, e⟩ := bindTag_of_held (slot := k.slot) held
      rw [e, if_neg (other b hb htag)]
    · exact ⟨_, bindBy_completes ha hp hs hc ht rfl, retire_rebind_rebound hc _⟩

end Sys2Proof.Safety
end

section
/-! PROOFS. The order of values, and the rank order of lanes that VTOPK's insertion makes (R61, R330). -/

namespace Sys2Proof.Machine

open Sys2Proof.Safety

/-! ### The order of FP32 values -/

/-- A signed magnitude as a multiple of 2^b. -/
def scaledTo (b : Int) (n : Bool) (m : Nat) (e : Int) : Int :=
  let a : Int := m * 2 ^ (e - b).toNat
  if n then -a else a

/-- A lesser unit multiplies by a power of two. -/
theorem scaledTo_eq_mul {b c e : Int} (n : Bool) (m : Nat) (hbc : b ≤ c) (hce : c ≤ e) :
    scaledTo b n m e = scaledTo c n m e * 2 ^ (c - b).toNat := by
  have split : (e - b).toNat = (e - c).toNat + (c - b).toNat := by omega
  simp only [scaledTo, split, Int.pow_add, ← Int.mul_assoc]
  cases n
  · rfl
  · exact (Int.neg_mul _ _).symm

/-- An infinity, or a multiple of the least positive FP32 value. -/
def Val.InOrder : Val → Prop
  | .fin _ _ e => fp32.eminOf ≤ e
  | .inf _ => True
  | .nan => False

/-- Where a value stands in the order: below, among or above the finite ones, and there its multiple of the least positive FP32 value. -/
def Val.place : Val → Int × Int
  | .fin n m e => (0, scaledTo fp32.eminOf n m e)
  | .inf n => (if n then -1 else 1, 0)
  | .nan => (0, 0)

/-- An FP32 pattern that is no NaN has a place in the order (R61). -/
theorem f32Val_inOrder {w : W32} (h : (f32Val w).isNan = false) : (f32Val w).InOrder := by
  revert h
  simp only [f32Val, FloatFormat.value]
  split
  case isTrue =>
    split
    · exact fun _ => trivial
    · exact nofun
  case isFalse =>
    split
    · exact fun _ => Int.le_refl _
    · exact fun _ => Int.le_add_of_nonneg_right (Int.natCast_nonneg _)

/-- Finite values are compared as their multiples of any common unit. -/
theorem cmp_fin {n n' : Bool} {m m' : Nat} {e e' : Int} (he : fp32.eminOf ≤ e) (he' : fp32.eminOf ≤ e') :
    Val.cmp (.fin n m e) (.fin n' m' e') = some (compare (scaledTo fp32.eminOf n m e) (scaledTo fp32.eminOf n' m' e')) := by
  have unit := Int.le_min.mpr ⟨he, he'⟩
  have pos : (0 : Int) < 2 ^ (min e e' - fp32.eminOf).toNat := Int.pow_pos (by decide)
  show some (compare (scaledTo (min e e') n m e) (scaledTo (min e e') n' m' e')) = _
  rw [scaledTo_eq_mul n m unit (Int.min_le_left e e'), scaledTo_eq_mul n' m' unit (Int.min_le_right e e')]
  simp only [Int.compare_eq_ite_lt, Int.mul_lt_mul_right pos]

/-- Values in the order are compared by their places. -/
theorem cmp_eq_compare_place {a b : Val} (ha : a.InOrder) (hb : b.InOrder) :
    Val.cmp a b = some ((compare a.place.1 b.place.1).then (compare a.place.2 b.place.2)) := by
  match a, b with
  | .fin n m e, .fin n' m' e' => exact cmp_fin ha hb
  | .inf n, .inf n' => cases n <;> cases n' <;> rfl
  | .inf n, .fin _ _ _ => cases n <;> rfl
  | .fin _ _ _, .inf n' => cases n' <;> rfl

section
variable {a b : Val} (ha : a.InOrder) (hb : b.InOrder)
include ha hb

theorem holds_gt_iff : Val.holds .gt a b = true ↔ b.place.1 < a.place.1 ∨ a.place.1 = b.place.1 ∧ b.place.2 < a.place.2 := by
  simp only [Val.holds, cmp_eq_compare_place ha hb, beq_iff_eq, Ordering.then_eq_gt, Int.compare_eq_gt, Int.compare_eq_eq]

theorem holds_eq_iff : Val.holds .eq a b = true ↔ a.place.1 = b.place.1 ∧ a.place.2 = b.place.2 := by
  simp only [Val.holds, cmp_eq_compare_place ha hb, beq_iff_eq, Ordering.then_eq_eq, Int.compare_eq_eq]

end

/-! ### The rank of a lane -/

/-- A candidate lane whose value is no NaN. -/
def Comparable (p : Nat × W32 × W32) : Prop := (f32Val p.2.1).isNan = false

/-- A candidate lane ranks above another: the greater value; then the lower column; then the lower lane (R330). -/
def RanksAbove (p q : Nat × W32 × W32) : Prop :=
  let x := (f32Val p.2.1).place
  let y := (f32Val q.2.1).place
  y.1 < x.1 ∨ x.1 = y.1 ∧ (y.2 < x.2 ∨ x.2 = y.2 ∧ (p.2.2.toNat < q.2.2.toNat ∨ p.2.2.toNat = q.2.2.toNat ∧ p.1 < q.1))

theorem RanksAbove.trans {p q r : Nat × W32 × W32} (h : RanksAbove p q) (g : RanksAbove q r) : RanksAbove p r := by
  unfold RanksAbove at *; omega

theorem ranksAbove_of_not {p q : Nat × W32 × W32} (hne : p.1 ≠ q.1) (h : ¬ RanksAbove p q) : RanksAbove q p := by
  unfold RanksAbove at *; omega

theorem laneAbove_iff {p q : Nat × W32 × W32} (hp : Comparable p) (hq : Comparable q) : laneAbove p q = true ↔ RanksAbove p q := by
  have hp := f32Val_inOrder hp
  have hq := f32Val_inOrder hq
  simp only [laneAbove, Bool.or_eq_true, Bool.and_eq_true, holds_gt_iff hp hq, holds_eq_iff hp hq, BitVec.ult, beq_iff_eq,
    decide_eq_true_eq, ← BitVec.toNat_inj, RanksAbove]
  omega

/-! ### Insertion in rank order -/

theorem mem_insertLane {p q : Nat × W32 × W32} {l : List (Nat × W32 × W32)} : q ∈ insertLane p l ↔ q = p ∨ q ∈ l := by
  induction l with
  | nil => exact List.mem_singleton.trans (or_iff_left List.not_mem_nil).symm
  | cons r l ih =>
    rw [insertLane]
    split
    · exact List.mem_cons
    · rw [List.mem_cons, ih, List.mem_cons, or_left_comm]

/-- A lane inserted among other lanes in rank order leaves them in rank order. -/
theorem insertLane_pairwise {p : Nat × W32 × W32} {l : List (Nat × W32 × W32)} (hp : Comparable p) (hl : ∀ q ∈ l, Comparable q)
    (hne : ∀ q ∈ l, p.1 ≠ q.1) (order : l.Pairwise RanksAbove) : (insertLane p l).Pairwise RanksAbove := by
  induction l with
  | nil => exact List.pairwise_singleton _ _
  | cons q l ih =>
    obtain ⟨first, rest⟩ := List.pairwise_cons.mp order
    obtain ⟨hq, hl⟩ := List.forall_mem_cons.mp hl
    obtain ⟨hneq, hne⟩ := List.forall_mem_cons.mp hne
    rw [insertLane]
    split
    case isTrue above =>
      have above := (laneAbove_iff hp hq).mp above
      exact List.pairwise_cons.mpr ⟨List.forall_mem_cons.mpr ⟨above, fun r hr => above.trans (first r hr)⟩, order⟩
    case isFalse not_above =>
      have below := ranksAbove_of_not hneq (mt (laneAbove_iff hp hq).mpr not_above)
      refine List.pairwise_cons.mpr ⟨fun r hr => ?_, ih hl hne rest⟩
      rcases mem_insertLane.mp hr with rfl | hr
      · exact below
      · exact first r hr

/-- The candidate lanes with their values and columns, in rank order: each inserted in its rank, the first of them first. -/
def inRankOrder (ps : List (Nat × W32 × W32)) : List (Nat × W32 × W32) := ps.reverse.foldr insertLane []

theorem ranked_eq (ps : List (Nat × W32 × W32)) : ranked ps = (inRankOrder ps).map (·.1) := by
  rw [ranked, inRankOrder, List.foldr_reverse]

theorem mem_foldr_insertLane {ps : List (Nat × W32 × W32)} {p : Nat × W32 × W32} : p ∈ ps.foldr insertLane [] ↔ p ∈ ps := by
  induction ps with
  | nil => exact Iff.rfl
  | cons q ps ih => rw [List.foldr_cons, mem_insertLane, ih, List.mem_cons]

theorem foldr_insertLane_pairwise {ps : List (Nat × W32 × W32)} (hv : ∀ p ∈ ps, Comparable p) (hne : ps.Pairwise (·.1 ≠ ·.1)) :
    (ps.foldr insertLane []).Pairwise RanksAbove := by
  induction ps with
  | nil => exact List.Pairwise.nil
  | cons p ps ih =>
    obtain ⟨hp, hps⟩ := List.forall_mem_cons.mp hv
    obtain ⟨first, rest⟩ := List.pairwise_cons.mp hne
    exact insertLane_pairwise hp (fun q hq => hps q (mem_foldr_insertLane.mp hq)) (fun q hq => first q (mem_foldr_insertLane.mp hq))
      (ih hps rest)

theorem mem_inRankOrder {ps : List (Nat × W32 × W32)} {p : Nat × W32 × W32} : p ∈ inRankOrder ps ↔ p ∈ ps :=
  mem_foldr_insertLane.trans List.mem_reverse

theorem inRankOrder_pairwise {ps : List (Nat × W32 × W32)} (hv : ∀ p ∈ ps, Comparable p) (hne : ps.Pairwise (·.1 ≠ ·.1)) :
    (inRankOrder ps).Pairwise (laneAbove · ·) := by
  have comparable {p} (hp : p ∈ inRankOrder ps) := hv p (mem_inRankOrder.mp hp)
  have order : (inRankOrder ps).Pairwise RanksAbove :=
    foldr_insertLane_pairwise (fun p hp => hv p (List.mem_reverse.mp hp)) (List.pairwise_reverse.mpr (hne.imp Ne.symm))
  exact order.imp_of_mem fun hp hq h => (laneAbove_iff (comparable hp) (comparable hq)).mpr h

/-! ### The candidate lanes -/

section
variable {m : W64} {a b : Vector Lane 64}

/-- The candidate at a lane number, with its value and column. -/
def candidate (a b : Vector Lane 64) (i : Nat) : Option (Nat × W32 × W32) :=
  match a.toList[i]?, b.toList[i]? with
  | some (.data x), some (.data y) => if (f32Val x).isNan || isAbandoned x then none else some (i, x, y)
  | _, _ => none

theorem rankable_eq (m : W64) (a b : Vector Lane 64) : rankable m a b = (activeIdx m).filterMap (candidate a b) := rfl

theorem toList_getElem?_fin {α : Type} {n : Nat} (v : Vector α n) (i : Fin n) : v.toList[i.val]? = some (v.get i) := by
  simp only [Vector.length_toList, Fin.is_lt, getElem?_pos, Vector.getElem_toList, Vector.get, Fin.val_cast, Vector.getElem_toArray]

theorem candidate_eq_some_iff {i : Nat} {p : Nat × W32 × W32} : candidate a b i = some p ↔
    ∃ x y, p = (i, x, y) ∧ a.toList[i]? = some (.data x) ∧ b.toList[i]? = some (.data y) ∧ (f32Val x).isNan = false ∧ isAbandoned x = false := by
  unfold candidate
  split
  case h_1 x y hx hy =>
    constructor
    · intro h
      simp only [Option.ite_none_left_eq_some, Bool.or_eq_true, not_or, Bool.not_eq_true, Option.some_inj] at h
      obtain ⟨⟨valued, full⟩, rfl⟩ := h
      exact ⟨x, y, rfl, hx, hy, valued, full⟩
    · rintro ⟨x', y', rfl, hx', hy', valued, full⟩
      cases hx.symm.trans hx'
      cases hy.symm.trans hy'
      simp only [valued, full, Bool.or_self, Bool.false_eq_true, if_false]
  case h_2 none =>
    exact ⟨nofun, fun ⟨x, y, _, hx, hy, _⟩ => (none x y hx hy).elim⟩

/-- The candidate lanes that are ranked are those of R330. -/
theorem mem_rankable {p : Nat × W32 × W32} :
    p ∈ rankable m a b ↔ ∃ (i : Fin 64) (x y : W32), p = (i.val, x, y) ∧ RankedLane m a b i x y := by
  simp only [rankable_eq, activeIdx, List.mem_filterMap, List.mem_filter, List.mem_range, candidate_eq_some_iff]
  constructor
  · rintro ⟨i, ⟨lt, act⟩, x, y, hp, hx, hy, ranks⟩
    rw [toList_getElem?_fin _ ⟨i, lt⟩, Option.some_inj] at hx hy
    exact ⟨⟨i, lt⟩, x, y, hp, act, hx, hy, ranks⟩
  · rintro ⟨i, x, y, hp, act, hx, hy, ranks⟩
    refine ⟨i.val, ⟨i.isLt, act⟩, x, y, hp, ?_, ?_, ranks⟩
    · rw [toList_getElem?_fin, hx]
    · rw [toList_getElem?_fin, hy]

/-- Each lane is ranked once. -/
theorem rankable_pairwise : (rankable m a b).Pairwise (·.1 ≠ ·.1) := by
  rw [rankable_eq, List.pairwise_filterMap]
  refine (List.nodup_range.filter _).imp fun hne p hp q hq => ?_
  obtain ⟨_, _, rfl, _⟩ := candidate_eq_some_iff.mp hp
  obtain ⟨_, _, rfl, _⟩ := candidate_eq_some_iff.mp hq
  exact hne

theorem rankable_comparable : ∀ p ∈ rankable m a b, Comparable p := by
  intro p hp
  obtain ⟨_, _, _, rfl, _, _, _, valued, _⟩ := mem_rankable.mp hp
  exact valued

/-- A candidate lane above another ranks before it (R330). -/
theorem ranksBefore_of_laneAbove {i j : Fin 64} {x y u v : W32} (hi : RankedLane m a b i x u) (hj : RankedLane m a b j y v)
    (h : laneAbove (i.val, x, u) (j.val, y, v) = true) : RanksBefore a b i j := by
  obtain ⟨_, hx, hu, _⟩ := hi
  obtain ⟨_, hy, hv, _⟩ := hj
  simp only [laneAbove, Bool.or_eq_true, Bool.and_eq_true, BitVec.ult_iff_lt, beq_iff_eq, decide_eq_true_eq] at h
  exact ⟨x, y, u, v, hx, hy, hu, hv, h⟩

/-- The lane numbers that VTOPK ranks are those of the candidate lanes, in rank order. -/
theorem exists_ranked (m : W64) (a b : Vector Lane 64) : ∃ r : List (Fin 64), r.map Fin.val = ranked (rankable m a b) ∧
    (∀ i, i ∈ r ↔ ∃ x y, RankedLane m a b i x y) ∧ r.Pairwise (RanksBefore a b) := by
  have lane {p} (hp : p ∈ inRankOrder (rankable m a b)) := mem_rankable.mp (mem_inRankOrder.mp hp)
  refine ⟨(inRankOrder (rankable m a b)).map fun p => Fin.ofNat 64 p.1, ?_, fun i => ?_, ?_⟩
  · rw [ranked_eq, List.map_map]
    refine List.map_congr_left fun p hp => ?_
    obtain ⟨i, _, _, rfl, _⟩ := lane hp
    exact congrArg Fin.val (Fin.ofNat_val_eq_self i)
  · simp only [List.mem_map, mem_inRankOrder, mem_rankable]
    constructor
    · rintro ⟨_, ⟨i, x, y, rfl, h⟩, rfl⟩
      rw [Fin.ofNat_val_eq_self]
      exact ⟨x, y, h⟩
    · rintro ⟨x, y, h⟩
      exact ⟨_, ⟨i, x, y, rfl, h⟩, Fin.ofNat_val_eq_self i⟩
  · refine List.pairwise_map.mpr ((inRankOrder_pairwise rankable_comparable rankable_pairwise).imp_of_mem fun hp hq above => ?_)
    obtain ⟨i, _, _, rfl, hi⟩ := lane hp
    obtain ⟨j, _, _, rfl, hj⟩ := lane hq
    rw [Fin.ofNat_val_eq_self, Fin.ofNat_val_eq_self]
    exact ranksBefore_of_laneAbove hi hj above

end
end Sys2Proof.Machine
end

section
/-! PROOFS. VTOPK and VBND: a result written before the tokens are consumed, the tags and the abandoned patterns that are checked, and
how the two instructions end (R63, R96, R140, R328, R330, R331). -/

namespace Sys2Proof.Machine

open Sys2Proof.Safety

/-! ### A result written before the tokens are consumed -/

/-- Tokens consumed, and the instruction retired, after an effect that leaves channels and the stream alone but for its registers. -/
theorem retire_consume_spec {s u : State} {d : Dst} (fs : List Field) (he : Elsewhere s u) (hc : ∀ c, chanOf u c = chanOf s c)
    (ho : OutsBut d s u) (hr : RegsBut d (thread s).regs (thread u).regs) (ht : thread u = { thread s with regs := (thread u).regs }) :
    Retires s (retire (consume u fs)) fs d ∧ (retire (consume u fs)).agenda = u.agenda ∧
    (thread (retire (consume u fs))).regs = (thread u).regs ∧ ∀ o, outOf (retire (consume u fs)) o = outOf u o := by
  obtain ⟨elsewhere, agenda, thread_eq, outs, took⟩ := consume_spec u fs
  refine ⟨retire_spec (he.trans elsewhere) (fun c => ?_) (fun o h => (outs o).trans (ho o h)) ?_ ?_, ?_, ?_, fun o => ?_⟩
  · rw [took c, hc c]
  · rw [thread_eq]; exact hr
  · rw [thread_eq]; exact ht
  · rw [retire_agenda, agenda]
  · rw [retire_regs, thread_eq]
  · rw [retire_outs, outs]

theorem writeVector_v_thread (s : State) (i : Fin 32) (fmt : Fmt) (written : W64) (ls : Vector Lane 64) :
    thread (writeVector s (.v i) fmt written ls) = { thread s with
      regs := Regs.writeV (thread s).regs i (Vector.ofFn fun j => if bit written j then ls.get j else ((thread s).regs.v.get i).lanes.get j) } :=
  mapRegs_thread s _

/-- A vector result written, then the tokens consumed, and the instruction retires. -/
theorem writeVector_consume_retires (s : State) (fs : List Field) (d : Dst) (fmt : Fmt) (written : W64) (ls : Vector Lane 64)
    (h : onSite s = true) : Retires s (retire (consume (writeVector s d fmt written ls) fs)) fs d ∧
    VectorAt d fmt written ls s (retire (consume (writeVector s d fmt written ls) fs)) := by
  have unwritten := retire_consume_spec (d := d) fs (Elsewhere.refl s) (fun _ => rfl) (fun _ _ => rfl) (RegsBut.refl _ _) rfl
  cases d with
  | v i =>
    obtain ⟨retires, agenda, regs, -⟩ := retire_consume_spec (d := .v i) (u := writeVector s (.v i) fmt written ls) fs
      (Elsewhere.withThread s _) (fun c => withThread_chan s _ c) (fun o _ => withThread_outs s _ o)
      (by rw [writeVector_v_thread]; exact RegsBut.writeV _ _ _) (by rw [writeVector_v_thread])
    rw [writeVector_v_thread] at regs
    exact ⟨retires, by rw [regs, writeV_get], agenda.trans (withThread_agenda _ _), fun j => by rw [regs, writeV_get, Vector.get_ofFn']⟩
  | o i =>
    obtain ⟨elsewhere, thread_eq, chans, outs, sent, route, next, k, site, pushed⟩ := sendToken_spec s i fmt
      (.vector (Vector.ofFn fun j => if bit written j then ls.get j else .null)) none h
    obtain ⟨retires, agenda, -, outs_eq⟩ := retire_consume_spec fs elsewhere chans outs (by rw [thread_eq]; exact RegsBut.refl _ _) (by rw [thread_eq])
    refine ⟨retires, _, fun j => Vector.get_ofFn' _ j, ?_, ?_, ?_, k, site, agenda.trans pushed⟩
    · exact (congrArg _ (outs_eq i)).trans sent
    · exact (congrArg _ (outs_eq i)).trans route
    · exact (congrArg _ (outs_eq i)).trans next
  | _ => exact ⟨unwritten.1, unwritten.2.1⟩

/-! ### The checks of the sources -/

theorem wrongTag_iff {s : State} {f : Field} {tags : List Fmt} : wrongTag s f tags = false ↔ StrictlyTagged s f tags := by
  constructor
  · intro right c t hc ht
    simpa only [wrongTag, hc, Option.bind_some, ht, Bool.not_eq_false', List.contains_iff_mem] using right
  · intro tagged
    unfold wrongTag
    cases head : (Field.chan f).bind (headToken s) with
    | none => rfl
    | some t =>
      obtain ⟨c, hc, ht⟩ := Option.bind_eq_some_iff.mp head
      simpa only [Bool.not_eq_false', List.contains_iff_mem] using tagged c t hc ht

theorem abandonedIn_iff {s : State} {f : Field} {mask : W64} : abandonedIn mask (vectorOf s f) = false ↔ NoneAbandoned s f mask := by
  refine ⟨fun none i w active lane => ?_, abandonedIn_of_none⟩
  simpa only [active, lane, Bool.true_and, Bool.not_eq_true] using List.any_eq_false.mp none i (List.mem_finRange i)

/-- A check of fields A and B: the first that fails traps a cause with its number (R140). -/
def checkAB (c : Cause) (badA badB : Bool) : Except Stop Unit :=
  if badA then .error (.trap c 0 0) else if badB then .error (.trap c 1 0) else .ok ()

theorem strictTags_eq (s : State) (a b : Field) (tags : List Fmt) :
    strictTags s [(0, a), (1, b)] tags = checkAB .fmt (wrongTag s a [.fp32]) (wrongTag s b tags) := by
  cases ha : wrongTag s a [.fp32] <;> cases hb : wrongTag s b tags <;>
    simp only [strictTags, verdictTags, ha, hb, List.find?_cons_of_pos, List.find?_cons_of_neg, List.find?_nil, checkAB, if_true, if_false,
      Bool.false_eq_true, not_false_eq_true, Nat.succ_ne_self]

theorem abandonedOk_eq (s : State) (mask : W64) (a b : Field) : abandonedOk s mask [(0, a), (1, b)] =
    checkAB .abandoned (abandonedIn mask (vectorOf s a)) (abandonedIn mask (vectorOf s b)) := by
  cases ha : abandonedIn mask (vectorOf s a) <;> cases hb : abandonedIn mask (vectorOf s b) <;>
    simp only [abandonedOk, ha, hb, List.find?_cons_of_pos, List.find?_cons_of_neg, List.find?_nil, checkAB, if_true, if_false,
      Bool.false_eq_true, not_false_eq_true]

section
variable {c : Cause} {badA badB : Bool} {okA okB : Prop} (hA : badA = false ↔ okA) (hB : badB = false ↔ okB)
include hA

theorem checkAB_traps_a (h : ¬ okA) : checkAB c badA badB = .error (.trap c 0 0) :=
  if_pos ((Bool.not_eq_false _).mp (mt hA.mp h))

include hB

theorem checkAB_traps_b (a : okA) (h : ¬ okB) : checkAB c badA badB = .error (.trap c 1 0) := by
  rw [hA.mpr a]
  exact if_pos ((Bool.not_eq_false _).mp (mt hB.mp h))

theorem checkAB_passes (a : okA) (b : okB) : checkAB c badA badB = .ok () := by
  rw [hA.mpr a, hB.mpr b]
  rfl

end

/-! ### VTOPK -/

/-- The lanes of VTOPK's result: the lane numbers given, and null after the last (R330). -/
def rankLanes (r : List Nat) : Vector Lane 64 :=
  Vector.ofFn fun j => match r[j.val]? with | some i => .data (BitVec.ofNat 32 i) | none => .null

theorem rankLanes_get (r : List (Fin 64)) (j : Fin 64) :
    (rankLanes (r.map Fin.val)).get j = match r[j.val]? with | some i => .data (BitVec.ofNat 32 i.val) | none => .null := by
  rw [rankLanes, Vector.get_ofFn', List.getElem?_map]
  cases r[j.val]? <;> rfl

/-- VTOPK's result written, its tokens consumed, and the instruction retired. -/
def rankDone (s : State) (o : Operands) : State :=
  retire (consumeAll (writeVector s o.dst .int32 (BitVec.allOnes 64) (rankLanes (ranked (rankable (active s o) (vectorOf s o.a) (vectorOf s o.b))))) o)

/-- A supplied VTOPK checks its tags, and then completes. -/
theorem vtopk_runs {s : State} {o : Operands} (ha : Admitted Places.sites s o) (hs : Supplied s o) :
    exec (.vtopk o) s = finish s ((checkAB .fmt (wrongTag s o.a [.fp32]) (wrongTag s o.b [.fp32, .int32, .idx])).map fun _ => rankDone s o) := by
  change execVtopk o s = _
  rw [execVtopk, issue_of_admitted ha, ready_of_supplied hs, strictTags_eq]
  cases checkAB .fmt (wrongTag s o.a [.fp32]) (wrongTag s o.b [.fp32, .int32, .idx]) <;> rfl

/-! ### VBND -/

/-- A lane of VBND is the width of the monitor, or the canonical NaN (R331). -/
theorem boundLane_eq (gr : Nat) (p rem : W32) : boundLane gr p rem =
    if (f32Val p).isNan = true ∨ (f32Val rem).isNan = true ∨ Val.holds .lt (f32Val rem) (.fin false 0 0) = true then 0x7FC00000
    else monitorWidth gr p rem := by
  have nan : BitVec.ofNat 32 fp32.nanPattern = 0x7FC00000 := by decide
  simp only [boundLane, Bool.or_eq_true, or_assoc, nan]
  rfl

/-- The lanes of VBND's result (R331). -/
def boundLanes (gr : Nat) (a b : Vector Lane 64) : Vector Lane 64 :=
  Vector.ofFn fun i => Lane.combine [a.get i, b.get i] (.data (boundLane gr (Lane.pattern (a.get i)) (Lane.pattern (b.get i))))

/-- VBND's result written, its tokens consumed, and the instruction retired. -/
def boundDone (s : State) (o : Operands) (gr : Nat) : State :=
  retire (consumeAll (writeVector s o.dst .fp32 (active s o) (boundLanes gr (vectorOf s o.a) (vectorOf s o.b))) o)

section
variable {s : State} {o : Operands} (ha : Admitted Places.sites s o) (hs : Supplied s o)
include ha hs

/-- A supplied VBND traps on a Gr that is no data, or 2^24 and above. -/
theorem vbnd_traps_of_gr (h : ∀ g, scalarOf s o.c = .data g → 2 ^ 24 ≤ g.toNat) : exec (.vbnd o) s = .next (takeTrap .illop 3 0 s) := by
  change execVbnd o s = _
  rw [execVbnd, issue_of_admitted ha, ready_of_supplied hs]
  cases hc : scalarOf s o.c with
  | data g =>
    have large : check (decide (g.toNat < 2 ^ 24)) .illop = illop := if_neg (by simpa using h g hc)
    simp only [dataOf, bind, Except.bind, large]
    rfl
  | null => rfl
  | err c => rfl

/-- A supplied VBND whose Gr is in range checks its tags, then the abandoned patterns, and then completes. -/
theorem vbnd_runs {g : W64} (hc : scalarOf s o.c = .data g) (hg : g.toNat < 2 ^ 24) :
    exec (.vbnd o) s = finish s (checkAB .fmt (wrongTag s o.a [.fp32]) (wrongTag s o.b [.fp32]) >>= fun _ =>
      (checkAB .abandoned (abandonedIn (active s o) (vectorOf s o.a)) (abandonedIn (active s o) (vectorOf s o.b))).map fun _ =>
        boundDone s o g.toNat) := by
  change execVbnd o s = _
  rw [execVbnd, issue_of_admitted ha, ready_of_supplied hs, hc, strictTags_eq, ← abandonedOk_eq]
  have small : check (decide (g.toNat < 2 ^ 24)) .illop = .ok () := if_pos (decide_eq_true hg)
  simp only [dataOf, bind, Except.bind, small]
  rfl

end

end Sys2Proof.Machine

namespace Sys2Proof.Safety

open Sys2Proof.Machine

/-- Settles O35: VTOPK sorts distinct lanes by a strict order, and VBND's lanes are the monitor's widths. -/
theorem rankingAndWidth : Obligations.RankingAndWidth := by
  intro s o ha hs mask a b
  have site := onSite_of_sites ha
  refine ⟨fun fmtA => ?_, fun tagA fmtB => ?_, fun tagA tagB => ?_, vbnd_traps_of_gr ha hs,
    fun g hc hg => ⟨fun fmtA => ?_, fun tagA fmtB => ?_, fun tagA tagB => ⟨fun bad => ?_, fun full bad => ?_, fun fullA fullB => ?_⟩⟩⟩
  · rw [vtopk_runs ha hs, checkAB_traps_a wrongTag_iff fmtA]; rfl
  · rw [vtopk_runs ha hs, checkAB_traps_b wrongTag_iff wrongTag_iff tagA fmtB]; rfl
  · obtain ⟨r, r_eq, members, order⟩ := exists_ranked mask a b
    obtain ⟨retires, result⟩ := writeVector_consume_retires s [o.a, o.b, o.c] o.dst .int32 (BitVec.allOnes 64)
      (rankLanes (ranked (rankable mask a b))) site
    refine ⟨rankDone s o, _, r, ?_, retires, result, members, order, fun j => ?_⟩
    · rw [vtopk_runs ha hs, checkAB_passes wrongTag_iff wrongTag_iff tagA tagB]; rfl
    · rw [← r_eq]; exact rankLanes_get r j
  · rw [vbnd_runs ha hs hc hg, checkAB_traps_a wrongTag_iff fmtA]; rfl
  · rw [vbnd_runs ha hs hc hg, checkAB_traps_b wrongTag_iff wrongTag_iff tagA fmtB]; rfl
  · rw [vbnd_runs ha hs hc hg, checkAB_passes wrongTag_iff wrongTag_iff tagA tagB, checkAB_traps_a abandonedIn_iff bad]; rfl
  · rw [vbnd_runs ha hs hc hg, checkAB_passes wrongTag_iff wrongTag_iff tagA tagB, checkAB_traps_b abandonedIn_iff abandonedIn_iff full bad]; rfl
  · obtain ⟨retires, result⟩ := writeVector_consume_retires s [o.a, o.b, o.c] o.dst .fp32 mask (boundLanes g.toNat a b) site
    refine ⟨boundDone s o g.toNat, _, ?_, retires, result, fun i => ?_⟩
    · rw [vbnd_runs ha hs hc hg, checkAB_passes wrongTag_iff wrongTag_iff tagA tagB, checkAB_passes abandonedIn_iff abandonedIn_iff fullA fullB]; rfl
    · rw [boundLanes, Vector.get_ofFn', boundLane_eq]

end Sys2Proof.Safety
end
